-- ==== Sys2Proof/Word.lean ====
section
/-! DEFINITION. Bytes, the numbered things of the part (phases, feeders, groups, classes, banks, signal
lines) and the fixed-size tables indexed by them. Each table is a record with one field per index, so it is
plain data and its reads and writes reduce. -/

namespace Sys2Proof

/-- A byte of the supervisory link, of a bridge record or of the image memory (R189). -/
abbrev Byte := BitVec 8

/-- A two-byte field (R189). -/
abbrev Half := BitVec 16

/-- The bus phases A, B and C (00_scope section 6). -/
inductive Phase where
  | a
  | b
  | c
  deriving DecidableEq, Repr

/-- The tool feeders 1..6 (00_scope section 6). -/
inductive Feeder where
  | f1
  | f2
  | f3
  | f4
  | f5
  | f6
  deriving DecidableEq, Repr

/-- The tool groups 1..4 (R131). -/
inductive GroupNo where
  | g1
  | g2
  | g3
  | g4
  deriving DecidableEq, Repr

/-- The envelope classes 0..7 (R31). -/
inductive ClassNo where
  | c0
  | c1
  | c2
  | c3
  | c4
  | c5
  | c6
  | c7
  deriving DecidableEq, Repr

/-- The profile banks 0 and 1 (R35). -/
inductive Bank where
  | b0
  | b1
  deriving DecidableEq, Repr

/-- The signal lines SL1..SL12 (R152). -/
inductive Line where
  | sl1
  | sl2
  | sl3
  | sl4
  | sl5
  | sl6
  | sl7
  | sl8
  | sl9
  | sl10
  | sl11
  | sl12
  deriving DecidableEq, Repr

/-- One value per bus phase. -/
structure Tri (α : Type) where
  (a b c : α)
  deriving DecidableEq, Repr

/-- The entry of Tri at an index. -/
def Tri.get {α : Type} (v : Tri α) : Phase → α
  | .a => v.a
  | .b => v.b
  | .c => v.c

/-- Tri with one entry replaced. -/
def Tri.set {α : Type} (v : Tri α) (i : Phase) (x : α) : Tri α :=
  match i with
  | .a => { v with a := x }
  | .b => { v with b := x }
  | .c => { v with c := x }

/-- Tri with every entry the same. -/
def Tri.all {α : Type} (x : α) : Tri α :=
  ⟨x, x, x⟩

/-- Tri formed entry by entry from the index. -/
def Tri.of {α : Type} (f : Phase → α) : Tri α :=
  ⟨f .a, f .b, f .c⟩

/-- The entries of Tri in index order. -/
def Tri.toList {α : Type} (v : Tri α) : List α :=
  [v.a, v.b, v.c]

@[simp] theorem Tri.get_set_self {α : Type} (v : Tri α) (i : Phase) (x : α) :
    (v.set i x).get i = x := by cases i <;> rfl

@[simp] theorem Tri.get_set_ne {α : Type} (v : Tri α) {i j : Phase} (x : α) (h : j ≠ i) :
    (v.set i x).get j = v.get j := by cases i <;> cases j <;> first | rfl | exact absurd rfl h

@[simp] theorem Tri.get_all {α : Type} (x : α) (i : Phase) : (Tri.all x).get i = x := by
  cases i <;> rfl

@[simp] theorem Tri.get_of {α : Type} (f : Phase → α) (i : Phase) : (Tri.of f).get i = f i := by
  cases i <;> rfl

/-- One value per feeder. -/
structure Six (α : Type) where
  (f1 f2 f3 f4 f5 f6 : α)
  deriving DecidableEq, Repr

/-- The entry of Six at an index. -/
def Six.get {α : Type} (v : Six α) : Feeder → α
  | .f1 => v.f1
  | .f2 => v.f2
  | .f3 => v.f3
  | .f4 => v.f4
  | .f5 => v.f5
  | .f6 => v.f6

/-- Six with one entry replaced. -/
def Six.set {α : Type} (v : Six α) (i : Feeder) (x : α) : Six α :=
  match i with
  | .f1 => { v with f1 := x }
  | .f2 => { v with f2 := x }
  | .f3 => { v with f3 := x }
  | .f4 => { v with f4 := x }
  | .f5 => { v with f5 := x }
  | .f6 => { v with f6 := x }

/-- Six with every entry the same. -/
def Six.all {α : Type} (x : α) : Six α :=
  ⟨x, x, x, x, x, x⟩

/-- Six formed entry by entry from the index. -/
def Six.of {α : Type} (f : Feeder → α) : Six α :=
  ⟨f .f1, f .f2, f .f3, f .f4, f .f5, f .f6⟩

/-- The entries of Six in index order. -/
def Six.toList {α : Type} (v : Six α) : List α :=
  [v.f1, v.f2, v.f3, v.f4, v.f5, v.f6]

@[simp] theorem Six.get_set_self {α : Type} (v : Six α) (i : Feeder) (x : α) :
    (v.set i x).get i = x := by cases i <;> rfl

@[simp] theorem Six.get_set_ne {α : Type} (v : Six α) {i j : Feeder} (x : α) (h : j ≠ i) :
    (v.set i x).get j = v.get j := by cases i <;> cases j <;> first | rfl | exact absurd rfl h

@[simp] theorem Six.get_all {α : Type} (x : α) (i : Feeder) : (Six.all x).get i = x := by
  cases i <;> rfl

@[simp] theorem Six.get_of {α : Type} (f : Feeder → α) (i : Feeder) : (Six.of f).get i = f i := by
  cases i <;> rfl

/-- One value per tool group. -/
structure Four (α : Type) where
  (g1 g2 g3 g4 : α)
  deriving DecidableEq, Repr

/-- The entry of Four at an index. -/
def Four.get {α : Type} (v : Four α) : GroupNo → α
  | .g1 => v.g1
  | .g2 => v.g2
  | .g3 => v.g3
  | .g4 => v.g4

/-- Four with one entry replaced. -/
def Four.set {α : Type} (v : Four α) (i : GroupNo) (x : α) : Four α :=
  match i with
  | .g1 => { v with g1 := x }
  | .g2 => { v with g2 := x }
  | .g3 => { v with g3 := x }
  | .g4 => { v with g4 := x }

/-- Four with every entry the same. -/
def Four.all {α : Type} (x : α) : Four α :=
  ⟨x, x, x, x⟩

/-- Four formed entry by entry from the index. -/
def Four.of {α : Type} (f : GroupNo → α) : Four α :=
  ⟨f .g1, f .g2, f .g3, f .g4⟩

/-- The entries of Four in index order. -/
def Four.toList {α : Type} (v : Four α) : List α :=
  [v.g1, v.g2, v.g3, v.g4]

@[simp] theorem Four.get_set_self {α : Type} (v : Four α) (i : GroupNo) (x : α) :
    (v.set i x).get i = x := by cases i <;> rfl

@[simp] theorem Four.get_set_ne {α : Type} (v : Four α) {i j : GroupNo} (x : α) (h : j ≠ i) :
    (v.set i x).get j = v.get j := by cases i <;> cases j <;> first | rfl | exact absurd rfl h

@[simp] theorem Four.get_all {α : Type} (x : α) (i : GroupNo) : (Four.all x).get i = x := by
  cases i <;> rfl

@[simp] theorem Four.get_of {α : Type} (f : GroupNo → α) (i : GroupNo) : (Four.of f).get i = f i := by
  cases i <;> rfl

/-- One value per envelope class. -/
structure Eight (α : Type) where
  (c0 c1 c2 c3 c4 c5 c6 c7 : α)
  deriving DecidableEq, Repr

/-- The entry of Eight at an index. -/
def Eight.get {α : Type} (v : Eight α) : ClassNo → α
  | .c0 => v.c0
  | .c1 => v.c1
  | .c2 => v.c2
  | .c3 => v.c3
  | .c4 => v.c4
  | .c5 => v.c5
  | .c6 => v.c6
  | .c7 => v.c7

/-- Eight with one entry replaced. -/
def Eight.set {α : Type} (v : Eight α) (i : ClassNo) (x : α) : Eight α :=
  match i with
  | .c0 => { v with c0 := x }
  | .c1 => { v with c1 := x }
  | .c2 => { v with c2 := x }
  | .c3 => { v with c3 := x }
  | .c4 => { v with c4 := x }
  | .c5 => { v with c5 := x }
  | .c6 => { v with c6 := x }
  | .c7 => { v with c7 := x }

/-- Eight with every entry the same. -/
def Eight.all {α : Type} (x : α) : Eight α :=
  ⟨x, x, x, x, x, x, x, x⟩

/-- Eight formed entry by entry from the index. -/
def Eight.of {α : Type} (f : ClassNo → α) : Eight α :=
  ⟨f .c0, f .c1, f .c2, f .c3, f .c4, f .c5, f .c6, f .c7⟩

/-- The entries of Eight in index order. -/
def Eight.toList {α : Type} (v : Eight α) : List α :=
  [v.c0, v.c1, v.c2, v.c3, v.c4, v.c5, v.c6, v.c7]

@[simp] theorem Eight.get_set_self {α : Type} (v : Eight α) (i : ClassNo) (x : α) :
    (v.set i x).get i = x := by cases i <;> rfl

@[simp] theorem Eight.get_set_ne {α : Type} (v : Eight α) {i j : ClassNo} (x : α) (h : j ≠ i) :
    (v.set i x).get j = v.get j := by cases i <;> cases j <;> first | rfl | exact absurd rfl h

@[simp] theorem Eight.get_all {α : Type} (x : α) (i : ClassNo) : (Eight.all x).get i = x := by
  cases i <;> rfl

@[simp] theorem Eight.get_of {α : Type} (f : ClassNo → α) (i : ClassNo) : (Eight.of f).get i = f i := by
  cases i <;> rfl

/-- One value per profile bank. -/
structure Two (α : Type) where
  (b0 b1 : α)
  deriving DecidableEq, Repr

/-- The entry of Two at an index. -/
def Two.get {α : Type} (v : Two α) : Bank → α
  | .b0 => v.b0
  | .b1 => v.b1

/-- Two with one entry replaced. -/
def Two.set {α : Type} (v : Two α) (i : Bank) (x : α) : Two α :=
  match i with
  | .b0 => { v with b0 := x }
  | .b1 => { v with b1 := x }

/-- Two with every entry the same. -/
def Two.all {α : Type} (x : α) : Two α :=
  ⟨x, x⟩

/-- Two formed entry by entry from the index. -/
def Two.of {α : Type} (f : Bank → α) : Two α :=
  ⟨f .b0, f .b1⟩

/-- The entries of Two in index order. -/
def Two.toList {α : Type} (v : Two α) : List α :=
  [v.b0, v.b1]

@[simp] theorem Two.get_set_self {α : Type} (v : Two α) (i : Bank) (x : α) :
    (v.set i x).get i = x := by cases i <;> rfl

@[simp] theorem Two.get_set_ne {α : Type} (v : Two α) {i j : Bank} (x : α) (h : j ≠ i) :
    (v.set i x).get j = v.get j := by cases i <;> cases j <;> first | rfl | exact absurd rfl h

@[simp] theorem Two.get_all {α : Type} (x : α) (i : Bank) : (Two.all x).get i = x := by
  cases i <;> rfl

@[simp] theorem Two.get_of {α : Type} (f : Bank → α) (i : Bank) : (Two.of f).get i = f i := by
  cases i <;> rfl

/-- One value per signal line. -/
structure Twelve (α : Type) where
  (sl1 sl2 sl3 sl4 sl5 sl6 sl7 sl8 sl9 sl10 sl11 sl12 : α)
  deriving DecidableEq, Repr

/-- The entry of Twelve at an index. -/
def Twelve.get {α : Type} (v : Twelve α) : Line → α
  | .sl1 => v.sl1
  | .sl2 => v.sl2
  | .sl3 => v.sl3
  | .sl4 => v.sl4
  | .sl5 => v.sl5
  | .sl6 => v.sl6
  | .sl7 => v.sl7
  | .sl8 => v.sl8
  | .sl9 => v.sl9
  | .sl10 => v.sl10
  | .sl11 => v.sl11
  | .sl12 => v.sl12

/-- Twelve with one entry replaced. -/
def Twelve.set {α : Type} (v : Twelve α) (i : Line) (x : α) : Twelve α :=
  match i with
  | .sl1 => { v with sl1 := x }
  | .sl2 => { v with sl2 := x }
  | .sl3 => { v with sl3 := x }
  | .sl4 => { v with sl4 := x }
  | .sl5 => { v with sl5 := x }
  | .sl6 => { v with sl6 := x }
  | .sl7 => { v with sl7 := x }
  | .sl8 => { v with sl8 := x }
  | .sl9 => { v with sl9 := x }
  | .sl10 => { v with sl10 := x }
  | .sl11 => { v with sl11 := x }
  | .sl12 => { v with sl12 := x }

/-- Twelve with every entry the same. -/
def Twelve.all {α : Type} (x : α) : Twelve α :=
  ⟨x, x, x, x, x, x, x, x, x, x, x, x⟩

/-- Twelve formed entry by entry from the index. -/
def Twelve.of {α : Type} (f : Line → α) : Twelve α :=
  ⟨f .sl1, f .sl2, f .sl3, f .sl4, f .sl5, f .sl6, f .sl7, f .sl8, f .sl9, f .sl10, f .sl11, f .sl12⟩

/-- The entries of Twelve in index order. -/
def Twelve.toList {α : Type} (v : Twelve α) : List α :=
  [v.sl1, v.sl2, v.sl3, v.sl4, v.sl5, v.sl6, v.sl7, v.sl8, v.sl9, v.sl10, v.sl11, v.sl12]

@[simp] theorem Twelve.get_set_self {α : Type} (v : Twelve α) (i : Line) (x : α) :
    (v.set i x).get i = x := by cases i <;> rfl

@[simp] theorem Twelve.get_set_ne {α : Type} (v : Twelve α) {i j : Line} (x : α) (h : j ≠ i) :
    (v.set i x).get j = v.get j := by cases i <;> cases j <;> first | rfl | exact absurd rfl h

@[simp] theorem Twelve.get_all {α : Type} (x : α) (i : Line) : (Twelve.all x).get i = x := by
  cases i <;> rfl

@[simp] theorem Twelve.get_of {α : Type} (f : Line → α) (i : Line) : (Twelve.of f).get i = f i := by
  cases i <;> rfl

/-- All of Phase, in ascending number. -/
def Phase.list : List Phase :=
  [.a, .b, .c]

/-- The number the spec gives. -/
def Phase.number : Phase → Nat
  | .a => 0
  | .b => 1
  | .c => 2

/-- The Phase of a number, if the number names one. -/
def Phase.ofNumber? : Nat → Option Phase
  | 0 => some .a
  | 1 => some .b
  | 2 => some .c
  | _ => none

@[simp] theorem Phase.ofNumber?_number (x : Phase) : Phase.ofNumber? x.number = some x := by
  cases x <;> rfl

/-- All of Feeder, in ascending number. -/
def Feeder.list : List Feeder :=
  [.f1, .f2, .f3, .f4, .f5, .f6]

/-- The number the spec gives. -/
def Feeder.number : Feeder → Nat
  | .f1 => 1
  | .f2 => 2
  | .f3 => 3
  | .f4 => 4
  | .f5 => 5
  | .f6 => 6

/-- The Feeder of a number, if the number names one. -/
def Feeder.ofNumber? : Nat → Option Feeder
  | 1 => some .f1
  | 2 => some .f2
  | 3 => some .f3
  | 4 => some .f4
  | 5 => some .f5
  | 6 => some .f6
  | _ => none

@[simp] theorem Feeder.ofNumber?_number (x : Feeder) : Feeder.ofNumber? x.number = some x := by
  cases x <;> rfl

/-- All of GroupNo, in ascending number. -/
def GroupNo.list : List GroupNo :=
  [.g1, .g2, .g3, .g4]

/-- The number the spec gives. -/
def GroupNo.number : GroupNo → Nat
  | .g1 => 1
  | .g2 => 2
  | .g3 => 3
  | .g4 => 4

/-- The GroupNo of a number, if the number names one. -/
def GroupNo.ofNumber? : Nat → Option GroupNo
  | 1 => some .g1
  | 2 => some .g2
  | 3 => some .g3
  | 4 => some .g4
  | _ => none

@[simp] theorem GroupNo.ofNumber?_number (x : GroupNo) : GroupNo.ofNumber? x.number = some x := by
  cases x <;> rfl

/-- All of ClassNo, in ascending number. -/
def ClassNo.list : List ClassNo :=
  [.c0, .c1, .c2, .c3, .c4, .c5, .c6, .c7]

/-- The number the spec gives. -/
def ClassNo.number : ClassNo → Nat
  | .c0 => 0
  | .c1 => 1
  | .c2 => 2
  | .c3 => 3
  | .c4 => 4
  | .c5 => 5
  | .c6 => 6
  | .c7 => 7

/-- The ClassNo of a number, if the number names one. -/
def ClassNo.ofNumber? : Nat → Option ClassNo
  | 0 => some .c0
  | 1 => some .c1
  | 2 => some .c2
  | 3 => some .c3
  | 4 => some .c4
  | 5 => some .c5
  | 6 => some .c6
  | 7 => some .c7
  | _ => none

@[simp] theorem ClassNo.ofNumber?_number (x : ClassNo) : ClassNo.ofNumber? x.number = some x := by
  cases x <;> rfl

/-- All of Bank, in ascending number. -/
def Bank.list : List Bank :=
  [.b0, .b1]

/-- The number the spec gives. -/
def Bank.number : Bank → Nat
  | .b0 => 0
  | .b1 => 1

/-- The Bank of a number, if the number names one. -/
def Bank.ofNumber? : Nat → Option Bank
  | 0 => some .b0
  | 1 => some .b1
  | _ => none

@[simp] theorem Bank.ofNumber?_number (x : Bank) : Bank.ofNumber? x.number = some x := by
  cases x <;> rfl

/-- All of Line, in ascending number. -/
def Line.list : List Line :=
  [.sl1, .sl2, .sl3, .sl4, .sl5, .sl6, .sl7, .sl8, .sl9, .sl10, .sl11, .sl12]

/-- The number the spec gives. -/
def Line.number : Line → Nat
  | .sl1 => 1
  | .sl2 => 2
  | .sl3 => 3
  | .sl4 => 4
  | .sl5 => 5
  | .sl6 => 6
  | .sl7 => 7
  | .sl8 => 8
  | .sl9 => 9
  | .sl10 => 10
  | .sl11 => 11
  | .sl12 => 12

/-- The Line of a number, if the number names one. -/
def Line.ofNumber? : Nat → Option Line
  | 1 => some .sl1
  | 2 => some .sl2
  | 3 => some .sl3
  | 4 => some .sl4
  | 5 => some .sl5
  | 6 => some .sl6
  | 7 => some .sl7
  | 8 => some .sl8
  | 9 => some .sl9
  | 10 => some .sl10
  | 11 => some .sl11
  | 12 => some .sl12
  | _ => none

@[simp] theorem Line.ofNumber?_number (x : Line) : Line.ofNumber? x.number = some x := by
  cases x <;> rfl

/-- A set of feeders: a truth value per feeder, so that equal sets are equal data (R131). -/
abbrev FeederSet := Six Bool

/-- The empty feeder set. -/
def FeederSet.empty : FeederSet := Six.all false

/-- The set with one feeder more. -/
def FeederSet.insert (s : FeederSet) (f : Feeder) : FeederSet := s.set f true

/-- The members in ascending feeder number (R131). -/
def FeederSet.members (s : FeederSet) : List Feeder := Feeder.list.filter s.get

end Sys2Proof
end

