-- ==== Sys2Proof/Syntax.lean ====
section
/-! DEFINITION. The commands the Z640 takes: one constructor of `Instr` per row of spec/opcode_table.json, with
the operands the rules give that row. The table lists no fields, so the operands are read from the rules; what
only the environment can know (a sample, a slot's contents, which of two simultaneous events came first) is an
operand too (notes/assumptions/1.md). -/

namespace Sys2Proof

/-- One sample set as the pins give it, before the converters limit it (R2), with the level on each of the twelve
signal lines at that instant, true for high (R153). -/
structure SampleInput where
  /-- Bus voltages, phases A, B, C, in counts. -/
  bus : Tri Int
  /-- Load currents, each phase of each feeder, in counts. -/
  load : Six (Tri Int)
  /-- Store voltage in volts. -/
  store : Int
  /-- Wire levels; a line bound to an output code is not read (R152). -/
  levels : Twelve Bool
  deriving DecidableEq, Repr

/-- Where inside a sample instant an event of that instant is taken (R73: before the arbiter reads the feeder or
after its grants; R50, R117: before or after the reference record is assembled). -/
inductive Place where
  /-- Before the sag detector's step and any allocation point of the instant. -/
  | first
  /-- After the detector's step and the allocation point, before the last records are assembled. -/
  | middle
  /-- After every reference record of the instant is assembled. -/
  | last
  /-- Left for a command of its own (ARM_TIMEOUT and its kin, LINE_ACCEPTED); the next sample instant takes what
  is still left before anything else. -/
  | apart
  deriving DecidableEq, Repr

/-- Where inside a sample instant a port assembles its reference record (R50, R117). -/
inductive RecordPlace where
  /-- Before the events placed first. -/
  | first
  /-- After the events placed first, before the boundary step. -/
  | placed
  /-- After the boundary step's t, before the releases and grants of the instant. -/
  | stepped
  /-- After the detector's step and the events placed in the middle. -/
  | last
  deriving DecidableEq, Repr

/-- Where inside a sample instant the output lines of a code are evaluated (R160). -/
inductive Stage where
  /-- Before anything the sample set brings about. -/
  | start
  /-- After the tracker's handling, and the store's where it is early; before the events placed first. -/
  | tracked
  /-- After the events placed first, before the detector's step. -/
  | placed
  /-- After the detector's step. -/
  | detected
  /-- After the events placed in the middle, the last records and the store's states. -/
  | stored
  /-- After everything else of the instant. -/
  | last
  deriving DecidableEq, Repr

/-- A stage for each output code: the lines of one code are driven alike (R154, R160). -/
structure OutputStages where
  feederInjecting : Six Stage
  eventActive : Stage
  storeWarning : Stage
  chargerEnable : Stage
  ready : Stage
  faultSummary : Stage
  trackerLocked : Stage
  groupActive : Four Stage
  deriving DecidableEq, Repr

/-- Every output code at one stage. -/
def OutputStages.all (p : Stage) : OutputStages := ⟨Six.all p, p, p, p, p, p, p, Four.all p⟩

/-- When the group table takes the refusals that reach it inside a sample instant (R141, R142, R145). -/
inductive RefusalPlace where
  /-- Each at the event that causes it. -/
  | atOnce
  /-- At an allocation point, once the units are formed and the store divided, before the notices and grants go out;
  at an instant without one, after the detector's step. -/
  | between
  /-- After the detector's step, the arbiter's notices and the end of the event. -/
  | after
  deriving DecidableEq, Repr

/-- When the sequencers take the GROUP_ABANDON requests sent inside a sample instant (R141); in none of the places between
the arbiter's read of a feeder and its grant (R73, R88). -/
inductive RequestPlace where
  /-- Each at the refusal that sends it, or after the grants where that refusal is taken between the two. -/
  | atOnce
  /-- After the detector's step and any grants, before the events placed in the middle and the last records. -/
  | after
  /-- Left for a command of its own. -/
  | left
  deriving DecidableEq, Repr

/-- What an event leaves untaken for a later event of the same instant (R141, R142, R145, R177;
notes/assumptions/16.md, 22.md). -/
structure Leave where
  /-- The group table has not yet taken the refusal. -/
  refusal : Bool
  /-- The sequencers have not yet taken the GROUP_ABANDON requests. -/
  requests : Bool
  /-- R177: a reply is formed at the same instant, so an idle transmitter's choice waits for it. A request, which forms
  its reply itself, does not read it. -/
  choice : Bool
  deriving DecidableEq, Repr

/-- Nothing left: the group table, the sequencers and the transmitter follow at once. -/
def Leave.nothing : Leave := ⟨false, false, false⟩

/-- An operand, with what the event that it belongs to leaves untaken. -/
structure Leaving (α : Type) where
  value : α
  leave : Leave
  deriving DecidableEq, Repr

/-- The order in which the events of one sample instant are taken where the rules allow either
(notes/assumptions/1.md). -/
structure Orders where
  /-- R10: an onset's request for HOLDING is taken before the tracker's own handling of the sample set. -/
  holdingFirst : Bool
  /-- R11: an end's request for LOCKED is taken before the tracker's own handling of the sample set. -/
  lockedFirst : Bool
  /-- R3, R32, R36, R167: the latest request that wrote a value was served at this very instant, so what it wrote is
  used from the next (notes/assumptions/25.md). -/
  writtenNow : Bool
  /-- R70: charger enable (with the warning and over-voltage) is formed before the detector's step. -/
  storeEarly : Bool
  /-- R154, R160: where the output lines of each code are evaluated. -/
  output : OutputStages
  /-- R50, R117: where each port assembles its record. -/
  record : Six RecordPlace
  /-- R93, R117: what the feeder's sequencer and port began since the last sample set was begun at this very
  instant, so its timer is not counted at this sample and its slot of this instant is not examined. -/
  started : Six Bool
  /-- R141, R142, R145: when the group table takes the refusals of the instant. -/
  refusals : RefusalPlace
  /-- R141: when the sequencers take the GROUP_ABANDON requests of the instant. -/
  requests : RequestPlace
  /-- R177: a reply is formed at this instant, so an idle transmitter's choice waits for it. -/
  choiceLeft : Bool
  /-- R98, R99, R103, R104: where the expiry of the feeder's sequence timer is taken. -/
  expiry : Six Place
  /-- R157, R167: where the acceptance of the line's level is taken. -/
  line : Twelve Place
  deriving DecidableEq, Repr

/-- The order taken when nothing calls for another: requests of the instant after the tracker's handling,
expiries and acceptances first, then the detector and the arbiter, the records, the store and the outputs. -/
def Orders.plain : Orders where
  holdingFirst := false
  lockedFirst := false
  writtenNow := false
  storeEarly := false
  output := .all .last
  record := Six.all .last
  started := Six.all false
  refusals := .atOnce
  requests := .atOnce
  choiceLeft := false
  expiry := Six.all .first
  line := Twelve.all .first

/-- What a departure before the detector's step leaves, by the orders of the instant. -/
def Orders.leave (o : Orders) : Leave := ⟨o.refusals != .atOnce, o.requests != .atOnce, false⟩

/-- What a departure after the detector's step leaves: its refusal is taken at once, and the requests too but where they
are left to a command. -/
def Orders.leaveLate (o : Orders) : Leave := ⟨false, o.requests == .left, false⟩

/-- A status record as bytes on a bridge line. `whole` is false for one whose bytes begin in one slot and end in
the next (R120). -/
structure SlotRecord where
  bytes : List Byte
  whole : Bool
  deriving DecidableEq, Repr

/-- What a port finds in one slot (R117, R119, R120). -/
structure Slot where
  /-- The records received in it, in order of arrival. -/
  records : List SlotRecord
  /-- The slot is that of the instant at which the port entered WAITING. -/
  entry : Bool
  deriving DecidableEq, Repr

/-- Bytes of the image memory that, for reasons outside the part, no longer hold what was last written there
(section 10.7: a byte that has changed, a memory that is write-protected; notes/assumptions/7.md). -/
abbrev Changed := List (Nat × Byte)

/-- The commands, in the order of spec/opcode_table.json. -/
inductive Instr where
  /-- POWER_UP (R180). `written`: how many bytes of an Image Write in flight had been written (R187). -/
  | powerUp (written : Nat)
  /-- RESET_PIN_ASSERTED (R180); `written` as for POWER_UP. -/
  | resetPinAsserted (written : Nat)
  /-- RESET_END (R180): the strap levels read, true for high. -/
  | resetEnd (linkRate imageSrc : Bool)
  /-- RESTART_RESET (R178): the Restart's OK reply has been sent; the strap levels then read. -/
  | restartReset (linkRate imageSrc : Bool)
  /-- IMAGE_LOAD_END (R183): the loader has read the memory; with what its reports leave untaken: the transmitter's choice
  (R177). -/
  | imageLoadEnd (changed : Leaving Changed)
  /-- MEMORY_NO_ANSWER (R181). For a WRITE in flight: how many bytes were written and, when all were, how many were
  read back before the memory stopped answering (R187). -/
  | memoryNoAnswer (written confirmed : Nat) (changed : Changed)
  /-- SAMPLE_SET (R1). -/
  | sampleSet (x : SampleInput) (o : Orders)
  /-- TRACKER_MISSES (R8): the sample set at which the second miss falls. -/
  | trackerMisses (x : SampleInput) (o : Orders)
  /-- TRACKER_SILENCE (R9): the sample set at which the spacing count reaches 144. -/
  | trackerSilence (x : SampleInput) (o : Orders)
  /-- FAST_TRIP (R20): a sample set at which a run counter is FAST_CONFIRM or more. -/
  | fastTrip (x : SampleInput) (o : Orders)
  /-- RECOVERED (R25): the sample set whose boundary completes the dwell. -/
  | recovered (x : SampleInput) (o : Orders)
  /-- EVENT_LIMIT (R26): the sample set whose boundary brings t to EVENT_LIMIT. -/
  | eventLimit (x : SampleInput) (o : Orders)
  /-- LOCKOUT_DWELL_COMPLETE (R27): the sample set whose boundary completes the dwell in LOCKOUT. -/
  | lockoutDwellComplete (x : SampleInput) (o : Orders)
  /-- RECHARGE_DELAY_EXPIRY (R71): the sample set whose boundary counts the recharge delay down to 0. -/
  | rechargeDelayExpiry (x : SampleInput) (o : Orders)
  /-- ARM_TIMEOUT (R98). `leave`: R141, R177, what it leaves untaken. -/
  | armTimeout (f : Feeder) (leave : Leave)
  /-- BYPASS_TIMER_EXPIRY (R99, R103); `leave` as for ARM_TIMEOUT. -/
  | bypassTimerExpiry (f : Feeder) (leave : Leave)
  /-- HANDOVER_EXPIRY (R103, R109). -/
  | handoverExpiry (f : Feeder)
  /-- STOP_TIMER_EXPIRY (R104, R109), with what it leaves untaken: the transmitter's choice; it makes no departure. -/
  | stopTimerExpiry (f : Leaving Feeder)
  /-- SLOT_EXAMINATION (R119); `leave` as for ARM_TIMEOUT. -/
  | slotExamination (f : Feeder) (slot : Slot) (leave : Leave)
  /-- PORT_UP (R124): the examination of the 8th consecutive good record in WAITING. -/
  | portUp (f : Feeder) (slot : Slot) (leave : Leave)
  /-- PORT_LOST (R125): the examination of the 3rd consecutive slot without a good record in UP. -/
  | portLost (f : Feeder) (slot : Slot) (leave : Leave)
  /-- PORT_RECOVERED (R126): the examination of the 8th consecutive good record in LOST. -/
  | portRecovered (f : Feeder) (slot : Slot) (leave : Leave)
  /-- LINE_ACCEPTED (R153): the acceptance of a level that stands for four sample instants, with what it
  leaves untaken, as for ARM_TIMEOUT. -/
  | lineAccepted (l : Leaving Line)
  /-- LINK_BYTE_RECEIVED (R164): a byte, with what the hold that a frame it completes may take leaves untaken (R141),
  and whether its stop bit read low. -/
  | linkByteReceived (b : Leaving Byte) (framingError : Bool)
  /-- LINK_GAP_TIMEOUT (R164). -/
  | linkGapTimeout
  /-- UNKNOWN_REQUEST (R168): a complete frame of a kind that is no request; a frame of length 1 has no tag (R165). -/
  | unknownRequest (kind : Byte) (tag : Option Byte) (payload : List Byte)
  /-- IDENTIFY (R170). -/
  | identify (tag : Byte)
  /-- STATUS_QUERY (R171). -/
  | statusQuery (tag : Byte)
  /-- FEEDER_QUERY (R171). -/
  | feederQuery (tag : Byte) (feeder : Byte)
  /-- EVENT_QUERY (R45): an event number, or 0. -/
  | eventQuery (tag : Byte) (number : Half)
  /-- EVENT_LIST (R45). -/
  | eventList (tag : Byte)
  /-- TAKE (R149): the feeder byte, with what the departure it may cause leaves untaken (R106, R141). -/
  | take (tag : Byte) (feeder : Leaving Byte)
  /-- DROP (R149). -/
  | drop (tag : Byte) (feeder : Byte)
  /-- TAKE_IF_FREE (R149); its feeder byte as for TAKE. -/
  | takeIfFree (tag : Byte) (feeder : Leaving Byte)
  /-- TAKE_IF_HELD (R149). -/
  | takeIfHeld (tag : Byte) (feeder : Byte)
  /-- FORCE_CLEAR (R149). -/
  | forceClear (tag : Byte) (feeder : Byte)
  /-- FORCE_FULL (R149); its feeder byte as for TAKE. -/
  | forceFull (tag : Byte) (feeder : Leaving Byte)
  /-- PEEK (R149). -/
  | peek (tag : Byte) (feeder : Byte)
  /-- SETTING_WRITE (R172): identifier, feeder byte (not read for a global setting), value. -/
  | settingWrite (tag : Byte) (ident feeder : Byte) (value : Half)
  /-- SETTING_WRITE_LINE_FREQ (R3): Setting Write of identifier 0x01. -/
  | settingWriteLineFreq (tag : Byte) (feeder : Byte) (value : Half)
  /-- SETTING_WRITE_ENABLED (R111): Setting Write of identifier 0x20. -/
  | settingWriteEnabled (tag : Byte) (feeder : Byte) (value : Half)
  /-- SETTING_READ (R172). -/
  | settingRead (tag : Byte) (ident feeder : Byte)
  /-- CLASS_WRITE (R32): class, immunity, segment count byte, and the bytes of the segment list. -/
  | classWrite (tag : Byte) (cls : Byte) (immunity : Half) (count : Byte) (segments : List Byte)
  /-- CLASS_READ (R32). -/
  | classRead (tag : Byte) (cls : Byte)
  /-- GROUP_WRITE (R132). -/
  | groupWrite (tag : Byte) (group members level requireAll : Byte)
  /-- GROUP_READ (R134). -/
  | groupRead (tag : Byte) (group : Byte)
  /-- LINE_MAP_WRITE (R155): the code byte, with what the hold it may apply leaves untaken (R157, R141). -/
  | lineMapWrite (tag line : Byte) (code : Leaving Byte)
  /-- LINE_MAP_READ (R161). -/
  | lineMapRead (tag : Byte)
  /-- BANK_SELECT (R36). -/
  | bankSelect (tag : Byte) (bank : Byte)
  /-- FAULT_CLEAR (R110). -/
  | faultClear (tag : Byte) (feeder : Byte)
  /-- GROUP_ACKS_CLEAR (R146). -/
  | groupAcksClear (tag : Byte) (group : Byte)
  /-- IMAGE_READ (R186). -/
  | imageRead (tag : Byte) (offset : Half) (count : Byte)
  /-- IMAGE_READ_DONE (R186): the memory has answered every command of the READ. -/
  | imageReadDone (changed : Changed)
  /-- IMAGE_WRITE (R187). -/
  | imageWrite (tag : Byte) (offset : Half) (bytes : List Byte)
  /-- IMAGE_WRITE_DONE (R187): the memory has answered every command of the write and the read-back. -/
  | imageWriteDone (changed : Changed)
  /-- RESTART (R178). -/
  | restart (tag : Byte)
  /-- COMPENSATION_ENABLE (R185). -/
  | compensationEnable (tag : Byte)
  /-- REPORT_MASK (R174). -/
  | reportMask (tag : Byte) (mask : Byte)
  /-- TRANSMIT_DONE (R177). -/
  | transmitDone
  deriving DecidableEq, Repr

end Sys2Proof
end

