-- ==== Sys2Proof/Decode.lean ====
section
/-! DEFINITION. The command a word of the table's bits spells. No row of spec/opcode_table.json gives bits (every
row's list of fields is empty), so no word spells a command. The bytes of the supervisory link and of the bridge
lines are read by the machine itself (Sys2Proof/Machine/Service.lean and Operands.lean). -/

namespace Sys2Proof

/-- The command spelled by the `nbits` table bits `w`: none, since the table gives no row bits
(notes/assumptions/23.md). -/
def decodeTableWord (_nbits _w : Nat) : Option Instr := none

end Sys2Proof
end

