-- ==== Sys2Proof/Machine/Arith.lean ====
section
/-! DEFINITION. The arithmetic of 00_scope section 6 and of R4, R15 and R163: rounding, square root, the sine table
and the CRC-16. -/

namespace Sys2Proof.Machine

open Sys2Proof

/-- A number limited to low..high (00_scope section 6; R169). -/
def clampNat (low high v : Nat) : Nat := min (max v low) high

/-- "x clamped to ±L" (00_scope section 6), and an input beyond its converter's span (R2). -/
def clampInt (low high v : Int) : Int := min (max v low) high

/-- n/d rounded to the nearest integer, halves away from zero (00_scope section 6). -/
def roundDiv (n : Int) (d : Nat) : Int :=
  if 0 ≤ n then ((2 * n.natAbs + d) / (2 * d) : Nat) else -((2 * n.natAbs + d) / (2 * d) : Nat)

/-- ceil(n/d) for non-negative n (00_scope section 6). -/
def ceilDiv (n d : Nat) : Nat := (n + d - 1) / d

/-- The square of a sample, a natural number (R14, R17). -/
def square (x : Int) : Nat := x.natAbs * x.natAbs

/-- The greatest integer whose square does not exceed n, its binary digits from the k-th down found one by one,
above the digits r already found. -/
def sqrtDigits (n : Nat) : Nat → Nat → Nat
  | 0, r => r
  | k + 1, r => if (r + 2 ^ k) * (r + 2 ^ k) ≤ n then sqrtDigits n k (r + 2 ^ k) else sqrtDigits n k r

/-- R15 step 2: floor(√n), the greatest integer whose square does not exceed n. -/
def floorSqrt (n : Nat) : Nat := sqrtDigits n (n.log2 / 2 + 1) 0

/-- The first quarter of the sine table, S[0]..S[24] (R4). -/
def sineQuarter : List Int :=
  [0, 134, 267, 399, 530, 658, 783, 905, 1024, 1137, 1246, 1350, 1447, 1539, 1624, 1702, 1773, 1836, 1891, 1938, 1977, 2008, 2029, 2043, 2047]

/-- The sine table S[j], j = 0..95, by its symmetry: S[48 − j] = S[j] and S[48 + j] = −S[j] (R4). -/
def sine (j : Nat) : Int :=
  let k := j % 96
  if k ≤ 24 then sineQuarter.getD k 0
  else if k < 48 then sineQuarter.getD (48 - k) 0
  else if k ≤ 72 then -sineQuarter.getD (k - 48) 0
  else -sineQuarter.getD (96 - k) 0

/-- The phase offsets off_p (R4). -/
def phaseOffset : Phase → Nat
  | .a => 0
  | .b => 64
  | .c => 32

/-- The template T_p at index k for NOMINAL_PEAK a (R4). -/
def template (a k : Nat) (p : Phase) : Int := roundDiv ((a : Int) * sine (k + phaseOffset p)) 2047

/-- One bit of the CRC-16: shift left, and add the polynomial 0x1021 if a one was shifted out (R163). -/
def crcBit (c : BitVec 16) : BitVec 16 :=
  if c.msb then (c <<< 1) ^^^ 0x1021 else c <<< 1

/-- One byte of the CRC-16, most significant bit first (R163). -/
def crcByte (c : BitVec 16) (b : Byte) : BitVec 16 :=
  let c := c ^^^ (b.zeroExtend 16 <<< 8)
  crcBit (crcBit (crcBit (crcBit (crcBit (crcBit (crcBit (crcBit c)))))))

/-- The CRC-16 of a run of bytes: initial value 0xFFFF, no final inversion (R163). -/
def crc16 (bytes : List Byte) : BitVec 16 := bytes.foldl crcByte 0xFFFF

end Sys2Proof.Machine
end

