-- ==== Sys2Proof/Config.lean ====
section
/-! DEFINITION. What is fixed for the part, and the one kind of value its document leaves open. -/

namespace Sys2Proof.Config

/-- FREE VALUE (R187, "may hold its old value, its new value or neither"; notes/assumptions/8.md): what a byte of the
image memory holds when a reset or the memory's silence strikes while it is being written. It has no body: nothing
can be proved of it. -/
opaque freeByte : Nat → Byte

/-- The part code of the Identify reply (R170). -/
def partCode : Nat := 0x0640

/-- The revision letter A as a character (R170, section 11.3). -/
def revision : Nat := 0x41

/-- The size of the image memory in bytes (chapter 10). -/
def imageSize : Nat := 4096

/-- DESIGN CHOICE (notes/assumptions/7.md): what a byte of the image memory that nothing has written reads as. -/
def imageDefault : Byte := 0xFF

/-- The capacity of the report queue (R175). -/
def reportCapacity : Nat := 32

/-- The capacity of the reply queue (R166). -/
def replyCapacity : Nat := 4

/-- The capacity of the record table (R44). -/
def recordCapacity : Nat := 16

end Sys2Proof.Config
end

