-- ==== Sys2Proof/Machine/State.lean ====
section
/-! DEFINITION. The state of the Z640, block by block as 00_scope section 3 lists them, plain data throughout, and
the state after reset. -/

namespace Sys2Proof.Machine

open Sys2Proof

/-! ## Enumerations, in the order of section 11.2 -/

/-- Operating states (R179). -/
inductive OpState where
  | loading | configuring | running
  deriving DecidableEq, Repr

/-- Memory operation in flight (R179). -/
inductive MemOp where
  | none | load | read | write
  deriving DecidableEq, Repr

/-- Line tracker states (section 1.3). -/
inductive TrackerState where
  | seeking | locked | holding
  deriving DecidableEq, Repr

/-- Causes of a TRACKER report (R12). -/
inductive TrackerCause where
  | lockedOn | misses | silence | eventOnset | eventEnd | freqChange
  deriving DecidableEq, Repr

/-- Sag detector states (section 2.1). -/
inductive DetectorState where
  | clear | active | dwell | lockout
  deriving DecidableEq, Repr

/-- Onset causes (R22). -/
inductive OnsetCause where
  | fast | rms | external
  deriving DecidableEq, Repr

/-- Compensability of an event (R23). -/
inductive Compensability where
  | compensable | notRunning | trackerNotLocked
  deriving DecidableEq, Repr

/-- End causes of an event (R25, R26). -/
inductive EndCause where
  | recovered | limit
  deriving DecidableEq, Repr

/-- Feeder states (section 5.1). -/
inductive FeederState where
  | offline | standby | held | arming | injecting | releasing | faulted
  deriving DecidableEq, Repr

/-- Phases of a release or of a fault (R92). -/
inductive SeqPhase where
  | closing | handingOver | stopping | settled
  deriving DecidableEq, Repr

/-- Modes of an engaged feeder (R92). -/
inductive Mode where
  | full | floor
  deriving DecidableEq, Repr

/-- The arbiter's answer to a unit (section 4.2). -/
inductive Grant where
  | full | floor | none
  deriving DecidableEq, Repr

/-- Causes at a feeder: of a release, a fault, a follow-on, a FEEDER_STATE report (section 11.2). -/
inductive Cause where
  | recovered | limit | starved | notNeeded | held | bridgeFault | bridgeLost | armTimeout | bypassStuck
  | groupAbandon | stopTimeout
  deriving DecidableEq, Repr

/-- Stood-by reasons of an outcome entry (R40). -/
inductive StoodBy where
  | held | faulted | notNeeded | starvedAtEntry | groupIncomplete | barred
  deriving DecidableEq, Repr

/-- Kinds of a running sequence timer (R93). -/
inductive TimerKind where
  | arm | bypass | handover | stop
  deriving DecidableEq, Repr

/-- Group states (section 7.2). -/
inductive GroupState where
  | idle | engaging | active | abandoned
  deriving DecidableEq, Repr

/-- Abandon causes of a group (R131). -/
inductive AbandonCause where
  | starved | memberRefused | memberReleased
  deriving DecidableEq, Repr

/-- Bridge port states; DOWN has the sub-states QUIET and WAITING (R116). -/
inductive PortState where
  | quiet | waiting | up | lost
  deriving DecidableEq, Repr

/-- Causes of a PORT report (R129). -/
inductive PortCause where
  | waiting | up | lost | recovered | down | derateSet | derateClear
  deriving DecidableEq, Repr

/-- Causes of a STORE report (R72). -/
inductive StoreCause where
  | warningSet | warningClear | overvoltageSet | overvoltageClear
  deriving DecidableEq, Repr

/-- Hold operations (R149). -/
inductive HoldOp where
  | take | drop | takeIfFree | takeIfHeld | forceClear | forceFull | peek
  deriving DecidableEq, Repr

/-- Allocation policies (R83, R84). -/
inductive Policy where
  | floorFirst | priorityFull
  deriving DecidableEq, Repr

/-- The two line frequencies of LINE_FREQ (R3). -/
inductive LineFreq where
  | hz50 | hz60
  deriving DecidableEq, Repr

/-- Commands of a reference record (R118). -/
inductive Command where
  | idle | start | run | stop
  deriving DecidableEq, Repr

/-- Bypass commands of a reference record (R118). -/
inductive BypassCommand where
  | close | open
  deriving DecidableEq, Repr

/-- Module states of a status record (R119). -/
inductive ModuleState where
  | idle | starting | running | stopping | fault
  deriving DecidableEq, Repr

/-- Bypass positions of a status record (R119). -/
inductive BypassPosition where
  | closed | open | moving
  deriving DecidableEq, Repr

/-- Fault kinds of a status record (R119). -/
inductive FaultKind where
  | none | overcurrent | overtemp | gate | dcLink
  deriving DecidableEq, Repr

/-- Statuses of a reply (section 11.2). -/
inductive Status where
  | ok | clamped | busy | unknown | length | value | notNow | refused | imageFault
  deriving DecidableEq, Repr

/-- Event codes a signal line is bound to (R154). -/
inductive EventCode where
  | none
  | hold (f : Feeder)
  | extTrigger
  | bankSelect
  | feederInjecting (f : Feeder)
  | eventActive
  | storeWarning
  | chargerEnable
  | ready
  | faultSummary
  | trackerLocked
  | groupActive (g : GroupNo)
  deriving DecidableEq, Repr

/-- The feeder state under which a reference record was formed (R47). -/
inductive RecordTag where
  | other | arming | injecting
  deriving DecidableEq, Repr

/-! ## Settings (section 11.7) -/

/-- The global settings 0x01..0x16. -/
structure Globals where
  lineFreq : LineFreq
  nominalPeak : Nat
  onsetLevel : Nat
  recoveryLevel : Nat
  recoveryDwell : Nat
  fastFraction : Nat
  fastConfirm : Nat
  eventLimit : Nat
  targetFull : Nat
  storeCapacitance : Nat
  storeFloor : Nat
  storeRated : Nat
  storeWarnSel : Nat
  storeMax : Nat
  quantum : Nat
  reserve : Nat
  allocPolicy : Policy
  armTimeout : Nat
  bypassTimeout : Nat
  handover : Nat
  stopTimeout : Nat
  rechargeDelay : Nat
  deriving DecidableEq, Repr

/-- The defaults of section 11.7. -/
def Globals.default : Globals where
  lineFreq := .hz50
  nominalPeak := 1600
  onsetLevel := 900
  recoveryLevel := 950
  recoveryDwell := 2
  fastFraction := 4
  fastConfirm := 3
  eventLimit := 100
  targetFull := 1000
  storeCapacitance := 5000
  storeFloor := 450
  storeRated := 800
  storeWarnSel := 4
  storeMax := 880
  quantum := 100
  reserve := 0
  allocPolicy := .floorFirst
  armTimeout := 6
  bypassTimeout := 24
  handover := 12
  stopTimeout := 48
  rechargeDelay := 10

/-- The per-feeder settings 0x20..0x24. -/
structure FeederSettings where
  enabled : Bool
  injLimit : Nat
  energyScale : Nat
  onsetForecast : Nat
  startHeld : Bool
  deriving DecidableEq, Repr

/-- The defaults of section 11.7. -/
def FeederSettings.default : FeederSettings := ⟨false, 800, 194, 10, false⟩

/-- A bank's entry for one feeder (R35). -/
structure BankEntry where
  cls : ClassNo
  level : Nat
  deriving DecidableEq, Repr

/-- One segment of an envelope class (R31). -/
structure Segment where
  limit : Nat
  floor : Nat
  deriving DecidableEq, Repr

/-- One envelope class (R31). -/
structure EnvClass where
  immunity : Nat
  segments : List Segment
  deriving DecidableEq, Repr

/-- The class table with its profile banks (R31, R35). -/
structure ClassTable where
  classes : Eight EnvClass
  banks : Two (Six BankEntry)
  activeBank : Bank
  pendingBank : Option Bank
  deriving DecidableEq, Repr

/-- The default classes and banks (R31, R35). -/
def ClassTable.default : ClassTable where
  classes := (Eight.all ⟨1000, []⟩).set .c0 ⟨850, []⟩
  banks := Two.all (Six.all ⟨.c0, 3⟩)
  activeBank := .b0
  pendingBank := none

/-- The values that "from the next sample instant" speaks of: those one sample instant uses (R3, R29, R32, R35, R36, R56,
R67). -/
structure Values where
  globals : Globals
  feeders : Six FeederSettings
  classes : Eight EnvClass
  banks : Two (Six BankEntry)
  activeBank : Bank
  deriving DecidableEq, Repr

/-- The defaults of sections 2.2, 2.3 and 11.7. -/
def Values.default : Values :=
  ⟨Globals.default, Six.all FeederSettings.default, ClassTable.default.classes, ClassTable.default.banks,
    ClassTable.default.activeBank⟩

/-! ## Measurement -/

/-- A sample set as the front end delivers it, limited to the converters' ranges (R2). -/
structure SampleSet where
  bus : Tri Int
  load : Six (Tri Int)
  store : Nat
  deriving DecidableEq, Repr

/-- The line tracker (section 1.3, R13). -/
structure Tracker where
  state : TrackerState
  index : Nat
  miss : Nat
  prevA : Option Int
  remembered : Bool
  spacing : Nat
  boundarySpacing : Nat
  boundaryDeclared : Bool
  deriving DecidableEq, Repr

/-- The tracker after reset (R6, R13). -/
def Tracker.reset : Tracker := ⟨.seeking, 0, 0, none, false, 0, 0, false⟩

/-- A sliding window: up to 48 samples, oldest first, and the sum of their squares (R14). -/
structure Window where
  samples : List Int
  sum : Nat
  deriving DecidableEq, Repr

/-- The magnitude unit: windows (R14), the magnitudes of the latest instant, absent while invalid (R15, R16), the
half-cycle sums (R17) and the delivered magnitudes, absent while invalid (R18). -/
structure Magnitude where
  windows : Tri Window
  mags : Option (Tri Nat)
  sums : Six (Tri Nat)
  delivered : Option (Six Nat)
  deriving DecidableEq, Repr

/-- The magnitude unit after reset (R14, R17, R18). -/
def Magnitude.reset : Magnitude := ⟨Tri.all ⟨[], 0⟩, none, Six.all (Tri.all 0), none⟩

/-- The fast comparator: run counters, and the phases it names as tripping at the latest instant (R20). -/
structure Comparator where
  run : Tri Nat
  trip : Tri Bool
  deriving DecidableEq, Repr

/-! ## Event records (section 2.4) -/

/-- A retained voltage with its worst phase (R15). -/
structure Reading where
  vret : Nat
  worst : Phase
  deriving DecidableEq, Repr

/-- Verdict of an entry, with the t at first violation (R43). -/
inductive Verdict where
  | heldUp
  | violated (t : Nat)
  deriving DecidableEq, Repr

/-- One outcome entry (R39). -/
structure Entry where
  feeder : Feeder
  engaged : Bool
  reason : Option StoodBy
  firstMode : Option Mode
  lastMode : Option Mode
  injected : Nat
  quanta : Nat
  overdraw : Nat
  saturated : Nat
  release : Option Cause
  verdict : Verdict
  deriving DecidableEq, Repr

/-- An event record (R37). -/
structure Record where
  number : Nat
  cause : OnsetCause
  comp : Compensability
  onset : Option Reading
  minimum : Option Reading
  duration : Nat
  endCause : Option EndCause
  storeOnset : Nat
  storeMin : Nat
  quantaOnset : Nat
  total : Nat
  entries : List Entry
  deriving DecidableEq, Repr

/-- The sag detector (section 2.1). `clearedNow` is the model's mark of R22: the detector returned to CLEAR at the
present instant, so no onset is tested at it. -/
structure Detector where
  state : DetectorState
  t : Nat
  dwell : Nat
  record : Option Record
  table : List Record
  nextNumber : Nat
  clearedNow : Bool
  deriving DecidableEq, Repr

/-- The detector after reset (R21). -/
def Detector.reset : Detector := ⟨.clear, 0, 0, none, [], 1, false⟩

/-! ## Generator, store, arbiter -/

/-- The reference generator's state for one feeder (R47); `clamped` is the mark of R55 on the latest record. -/
structure Generator where
  refs : Tri Int
  tag : RecordTag
  clamped : Bool
  draw : Int
  satCount : Nat
  closedW : Nat
  closedQ : Nat
  closedSat : Nat
  deriving DecidableEq, Repr

/-- The generator after reset (R47). -/
def Generator.reset : Generator := ⟨Tri.all 0, .other, false, 0, 0, 0, 0, 0⟩

/-- The store monitor (section 4.1). -/
structure Store where
  volts : Option Nat
  energy : Nat
  quanta : Nat
  warning : Bool
  overVoltage : Bool
  charger : Bool
  delay : Nat
  deriving DecidableEq, Repr

/-- The store monitor after reset (section 4.1). -/
def Store.reset : Store := ⟨none, 0, 0, false, false, false, 0⟩

/-- The forecast and needs of one feeder at an allocation point (R77, R78). -/
structure Forecast where
  feeder : Feeder
  full : Nat
  measured : Bool
  floor : Nat
  deriving DecidableEq, Repr

/-- One unit of a grant list (R85); `members` in ascending feeder number. -/
structure UnitGrant where
  group : Option GroupNo
  level : Nat
  candidate : Bool
  members : List Forecast
  fullNeed : Nat
  floorNeed : Nat
  grant : Grant
  quanta : Nat
  deriving DecidableEq, Repr

/-- The two forms of an allocation point (R73). -/
inductive PointKind where
  | onset (cause : OnsetCause)
  | boundary (t : Nat)
  deriving DecidableEq, Repr

/-- The grant list and summary of the latest allocation point (R85, R91). -/
structure Summary where
  event : Nat
  point : PointKind
  vret : Option Nat
  available : Nat
  policy : Policy
  reserve : Nat
  granted : Nat
  unassigned : Nat
  units : List UnitGrant
  deriving DecidableEq, Repr

/-- The budget of a feeder that holds a grant (R85). -/
structure Budget where
  full : Nat
  floor : Nat
  share : Nat
  measured : Bool
  deriving DecidableEq, Repr

/-- The allocation arbiter (section 4.2). -/
structure Arbiter where
  summary : Option Summary
  budgets : Six (Option Budget)
  flags : FeederSet
  deriving DecidableEq, Repr

/-- The arbiter after reset (R73). -/
def Arbiter.reset : Arbiter := ⟨none, Six.all none, FeederSet.empty⟩

/-! ## Sequencers, ports, groups -/

/-- A running sequence timer (R93). `remaining` 0 is an expiry not yet taken. `fresh` is the model's mark "started by
a command since the latest sample instant" (notes/assumptions/5.md). -/
structure Timer where
  kind : TimerKind
  remaining : Nat
  fresh : Bool
  deriving DecidableEq, Repr

/-- One feeder sequencer (R92). -/
structure Sequencer where
  state : FeederState
  phase : Option SeqPhase
  mode : Option Mode
  barred : Bool
  timer : Option Timer
  releaseCause : Option Cause
  faultCause : Option Cause
  followOn : Option Cause
  injected : Bool
  deriving DecidableEq, Repr

/-- The sequencer after reset (R92). -/
def Sequencer.reset : Sequencer := ⟨.offline, none, none, false, none, none, none, none, false⟩

/-- The fields of a good status record (R119). -/
structure ModuleStatus where
  module : ModuleState
  bypass : BypassPosition
  derate : Bool
  fault : FaultKind
  deriving DecidableEq, Repr

/-- A reference record (R118). -/
structure RefRecord where
  command : Command
  bypass : BypassCommand
  refs : Tri Int
  deriving DecidableEq, Repr

/-- One bridge port (R116), with the reference record it sent at the latest sample instant, if it sent one (R57,
notes/assumptions/21.md). `fresh` and `skipSlot` are the model's marks for
the slot of the instant at which the port entered WAITING (R117, notes/assumptions/6.md). -/
structure Port where
  state : PortState
  run : Nat
  miss : Nat
  status : Option ModuleStatus
  sent : Option RefRecord
  fresh : Bool
  skipSlot : Bool
  deriving DecidableEq, Repr

/-- The port after reset (R116). -/
def Port.reset : Port := ⟨.quiet, 0, 0, none, none, false, false⟩

/-- One group record (R131). -/
structure Group where
  members : FeederSet
  level : Nat
  requireAll : Bool
  state : GroupState
  engaged : FeederSet
  acknowledged : FeederSet
  refused : FeederSet
  abandonCause : Option AbandonCause
  deriving DecidableEq, Repr

/-- An unused group record (R131). -/
def Group.default : Group :=
  ⟨.empty, 3, false, .idle, .empty, .empty, .empty, none⟩

/-- One signal line (R152); high is true, active is true. -/
structure LineState where
  binding : EventCode
  sampled : Option Bool
  run : Option Nat
  debounced : Option Bool
  driven : Option Bool
  deriving DecidableEq, Repr

/-- A line after reset, neither driven nor read (R152). -/
def LineState.reset : LineState := ⟨.none, none, none, none, none⟩

/-! ## The supervisory link (chapter 9) -/

/-- The receive assembler (R164). `bytes` are those of kind, tag and payload, in order of arrival. -/
inductive Assembler where
  | hunting
  | length
  | body (len : Nat) (bytes : List Byte)
  | check (len : Nat) (bytes : List Byte) (high : Option Byte)
  deriving DecidableEq, Repr

/-- The request in service (R167). -/
inductive Service where
  | imageRead (tag : Byte) (offset count : Nat)
  | imageWrite (tag : Byte) (offset : Nat) (bytes : List Byte)
  | restart (tag : Byte)
  deriving DecidableEq, Repr

/-- A reply: kind and tag of its request, status, and the payload after the status byte (R189). -/
structure Reply where
  kind : Byte
  tag : Byte
  status : Status
  body : List Byte
  deriving DecidableEq, Repr

/-- The reports of section 9.5 with their contents (section 11.4). -/
inductive Report where
  | eventOnset (number : Nat) (cause : OnsetCause) (comp : Compensability) (onset : Option Reading)
      (entries : Nat)
  | eventEnd (number : Nat) (cause : EndCause) (duration : Nat) (minimum : Option Reading) (total : Nat)
      (violated : Nat)
  | feederState (f : Feeder) (state : FeederState) (phase : Option SeqPhase) (mode : Option Mode)
      (cause : Option Cause)
  | feederFault (f : Feeder) (cause : Cause) (followOn : Bool) (left : Option FeederState)
      (status : Option ModuleStatus) (event : Option Nat)
  | tracker (state : TrackerState) (cause : TrackerCause)
  | store (cause : StoreCause) (volts : Option Nat) (quanta : Nat) (charger : Bool)
  | port (f : Feeder) (state : PortState) (cause : PortCause) (status : Option ModuleStatus)
  deriving DecidableEq, Repr

/-- What the transmitter is sending: a reply, or a report with its settled overflow flag (R176, R177). -/
inductive Outgoing where
  | reply (r : Reply)
  | report (r : Report) (overflow : Bool)
  deriving DecidableEq, Repr

/-- The link interface (chapter 9). `mask` holds bit n for report kind 0x40 + n. `tx` absent is the idle transmitter.
`choiceOpen` is the model's mark that a reply of the present instant is still to come, so that an idle transmitter's
choice between it and the reports of the instant waits (R177, notes/assumptions/22.md). -/
structure Link where
  asm : Assembler
  service : Option Service
  replies : List Reply
  reports : List Report
  overflow : Bool
  mask : BitVec 7
  tx : Option Outgoing
  choiceOpen : Bool
  deriving DecidableEq, Repr

/-- The default mask: all kinds except FEEDER_STATE, which is bit 2 (R173, section 11.2). -/
def Link.defaultMask : BitVec 7 := 0b1111011

/-- The link after reset (R162). -/
def Link.reset : Link := ⟨.hunting, none, [], [], false, Link.defaultMask, none, false⟩

/-- The image loader (R179). -/
structure Loader where
  op : OpState
  imageFault : Bool
  memOp : MemOp
  deriving DecidableEq, Repr

/-- The strap levels read at the latest reset, true for high (R180). -/
structure Straps where
  linkRate : Bool
  imageSrc : Bool
  deriving DecidableEq, Repr

/-! ## The whole part -/

/-- The state of the Z640, with the queue of the commands that wait. `inForce` holds the values that the latest sample
instant used, and `written` those stored just before the latest request since that wrote one (R167,
notes/assumptions/25.md). `groupRequests` and `refusals` hold the GROUP_ABANDON requests and the refusals on their way
(R141, notes/assumptions/16.md). -/
structure State where
  inReset : Bool
  straps : Straps
  loader : Loader
  globals : Globals
  feeders : Six FeederSettings
  classes : ClassTable
  inForce : Values
  written : Option Values
  sample : Option SampleSet
  tracker : Tracker
  magnitude : Magnitude
  comparator : Comparator
  detector : Detector
  gen : Six Generator
  store : Store
  arbiter : Arbiter
  seq : Six Sequencer
  port : Six Port
  groups : Four Group
  groupRequests : FeederSet
  refusals : List (Feeder × AbandonCause)
  holds : Six Nat
  lines : Twelve LineState
  link : Link
  image : List Host.Cell
  freeCount : Nat
  pending : List Instr
  deriving DecidableEq, Repr

/-- The part held in reset, every block at its reset values and every setting at its default (R180; the reset tables
of each chapter). The image memory lists nothing (notes/assumptions/7.md) and the straps are not yet read
(notes/assumptions/10.md). -/
def State.reset : State where
  inReset := true
  straps := ⟨false, false⟩
  loader := ⟨.loading, false, .none⟩
  globals := Globals.default
  feeders := Six.all FeederSettings.default
  classes := ClassTable.default
  inForce := Values.default
  written := none
  sample := none
  tracker := Tracker.reset
  magnitude := Magnitude.reset
  comparator := ⟨Tri.all 0, Tri.all false⟩
  detector := Detector.reset
  gen := Six.all Generator.reset
  store := Store.reset
  arbiter := Arbiter.reset
  seq := Six.all Sequencer.reset
  port := Six.all Port.reset
  groups := Four.all Group.default
  groupRequests := FeederSet.empty
  refusals := []
  holds := Six.all 0
  lines := Twelve.all LineState.reset
  link := Link.reset
  image := []
  freeCount := 0
  pending := []

/-- Why the machine stops with a fault: never. The document names no event that stops the part, and every command
has a next state, so the type has no constructor (safe: notes/assumptions/27.md). -/
inductive Fault where
  deriving DecidableEq, Repr

/-- Why a command is refused. -/
inductive Refusal where
  /-- A command the model gives no meaning, by its mnemonic; raised by an arm of `exec` alone (safe). No arm raises it. -/
  | notModelled (mnemonic : String)
  deriving DecidableEq, Repr

end Sys2Proof.Machine
end

