-- ==== Sys2Proof/Machine/Ops.lean ====
section
/-! DEFINITION. The named operations over the state that every block shares: the image memory, posting a report,
forming a reply, the transmitter's choice, the sequence timers, and the per-feeder updates. -/

namespace Sys2Proof.Machine

open Sys2Proof

/-! ## The image memory (chapter 10) -/

/-- The byte at an address of a memory: the listed one, or what an unlisted address reads as. -/
def memRead : List Host.Cell → Nat → Byte
  | [], _ => Config.imageDefault
  | (a, b) :: rest, addr => if a = addr then b else memRead rest addr

/-- Insert, replace or remove (for the unlisted byte) one cell of a memory, in rising order of address. -/
def memWrite : List Host.Cell → Nat → Byte → List Host.Cell
  | [], addr, v => if v = Config.imageDefault then [] else [(addr, v)]
  | (a, b) :: rest, addr, v =>
    if addr < a then (if v = Config.imageDefault then (a, b) :: rest else (addr, v) :: (a, b) :: rest)
    else if addr = a then (if v = Config.imageDefault then rest else (addr, v) :: rest)
    else (a, b) :: memWrite rest addr v

/-- Every address of a memory lies above a bound. -/
def memAbove (bound : Nat) (m : List Host.Cell) : Bool := m.all fun c => bound < c.1

/-- The canonical form: addresses strictly rising, no entry equal to the unlisted byte. -/
def memWf : List Host.Cell → Bool
  | [] => true
  | (a, b) :: rest => memAbove a rest && b != Config.imageDefault && memWf rest

/-- Bytes stored in order from an offset on (R187); an address beyond the 4096 bytes does not exist and takes nothing. -/
def memStore (m : List Host.Cell) (offset : Nat) : List Byte → List Host.Cell
  | [] => m
  | b :: rest =>
    memStore (if offset < Config.imageSize then memWrite m offset b else m) (offset + 1) rest

/-- The count bytes from an offset on, in order (R186). -/
def memLoad (m : List Host.Cell) (offset : Nat) : Nat → List Byte
  | 0 => []
  | n + 1 => memRead m offset :: memLoad m (offset + 1) n

/-- A memory after changes that do not come from the part (notes/assumptions/7.md). -/
def memChange (m : List Host.Cell) (changed : Changed) : List Host.Cell :=
  changed.foldl (fun m c => if c.1 < Config.imageSize then memWrite m c.1 c.2 else m) m

/-! ## Reports, replies and the transmitter (sections 9.5, 9.6) -/

/-- The bit of the report mask that a report's kind has: kind 0x40 + n is bit n (section 11.2). -/
def Report.bit : Report → Nat
  | .eventOnset .. => 0
  | .eventEnd .. => 1
  | .feederState .. => 2
  | .feederFault .. => 3
  | .tracker .. => 4
  | .store .. => 5
  | .port .. => 6

/-- R175: a report offered to the queue is appended, or with 32 held discarded with the marker set. -/
def Link.offer (l : Link) (r : Report) : Link :=
  if l.reports.length < Config.reportCapacity then { l with reports := l.reports ++ [r] }
  else { l with overflow := true }

/-- R177: an idle transmitter takes the oldest reply, else the oldest report with its overflow flag settled (R176),
else stays idle. A transmitter that is sending chooses nothing. -/
def Link.choose (l : Link) : Link :=
  match l.tx with
  | some _ => l
  | none =>
    match l.replies, l.reports with
    | r :: rest, _ => { l with replies := rest, tx := some (.reply r) }
    | [], r :: rest => { l with reports := rest, tx := some (.report r l.overflow), overflow := false }
    | [], [] => l

/-- R173: a posted report is dropped if its kind is masked off, and else offered; an idle transmitter then chooses
at once (R177), but while a reply of the instant is still to come the choice waits for it (notes/assumptions/22.md). -/
def Link.post (l : Link) (r : Report) : Link :=
  if l.mask.getLsbD r.bit then (if l.choiceOpen then l.offer r else (l.offer r).choose) else l

/-- A block posts a report (R173). -/
def State.post (s : State) (r : Report) : State := { s with link := s.link.post r }

/-- R166, R177: a reply is appended to the reply queue, and an idle transmitter chooses at once. -/
def State.queueReply (s : State) (r : Reply) : State :=
  { s with link := Link.choose { s.link with replies := s.link.replies ++ [r], choiceOpen := false } }

/-- R177: the choice left open for a reply of this instant. -/
def State.openChoice (s : State) : State := { s with link := { s.link with choiceOpen := true } }

/-- R177: a choice left open for which no reply came is made. -/
def Link.closeChoice (l : Link) : Link := if l.choiceOpen then Link.choose { l with choiceOpen := false } else l

/-- R177: a choice left open is made, or left open further. -/
def State.settleChoice (s : State) (left : Bool) : State :=
  if left then s.openChoice else { s with link := s.link.closeChoice }

/-- R177: the transmitter is idle and its choice is open: the reports queued wait for a reply of their instant. -/
def Link.waits (l : Link) : Bool := l.choiceOpen && l.tx.isNone

/-- The link as an earlier instant shows it: no choice open, and without the reports that wait for one. -/
def Link.withoutWaiting (l : Link) : Link :=
  if l.waits then { l with reports := [], overflow := false, choiceOpen := false } else { l with choiceOpen := false }

/-- R175: the reports that waited in `before` offered again behind those the link holds, the choice open as it was. -/
def Link.resume (l before : Link) : Link :=
  let m := (if before.waits then before.reports else []).foldl Link.offer l
  { m with overflow := m.overflow || (before.waits && before.overflow), choiceOpen := true }

/-- R177: events of an instant now over. The transmitter's choice is closed for them, so an idle one chooses at once; a
choice that the present instant leaves open (`choiceLeft`) is open again after them, its reports behind theirs
(notes/assumptions/22.md). -/
def State.beforeChoice (s : State) (choiceLeft : Bool) (event : State → State) : State :=
  if choiceLeft then
    let t := event { s with link := s.link.withoutWaiting }
    { t with link := t.link.resume s.link }
  else event { s with link := s.link.closeChoice }

/-- R177: an event that may post reports; where a reply is formed at the same instant, an idle transmitter's choice waits
for it. -/
def State.asEvent (s : State) (choiceLeft : Bool) (event : State → State) : State :=
  (event (if choiceLeft then s.openChoice else s)).settleChoice choiceLeft

/-! ## Values in force (R167) -/

/-- The values as they are stored. -/
def State.stored (s : State) : Values :=
  ⟨s.globals, s.feeders, s.classes.classes, s.classes.banks, s.classes.activeBank⟩

/-- R3, R32, R35, R36, R167: a request is about to write a value. -/
def State.markWrite (s : State) : State := { s with written := some s.stored }

/-- R3, R29, R32, R35, R36, R56, R67, R167: the values a sample instant uses: those stored, or, where the latest write was
served at that very instant, those stored before it (notes/assumptions/25.md). -/
def State.valuesAt (s : State) (writtenNow : Bool) : Values := if writtenNow then s.written.getD s.stored else s.stored

/-- R36, R167: the values of a sample instant come into force at it, an event being open or not. So a bank switch taken at the
instant of an onset, just before it, comes into force at the next instant, inside the event: R36 has the named bank active
from the next sample instant and also fixed from onset to end, and for this order the model follows the first (DESIGN
CHOICE, notes/assumptions/34.md). -/
def State.adopt (s : State) (writtenNow : Bool) : State := { s with inForce := s.valuesAt writtenNow, written := none }

/-! ## Per-feeder updates and sequence timers -/

/-- The sequencer of a feeder changed. -/
def State.setSeq (s : State) (f : Feeder) (q : Sequencer) : State := { s with seq := s.seq.set f q }

/-- The bridge port of a feeder changed. -/
def State.setPort (s : State) (f : Feeder) (p : Port) : State := { s with port := s.port.set f p }

/-- The generator's state for a feeder changed. -/
def State.setGen (s : State) (f : Feeder) (g : Generator) : State := { s with gen := s.gen.set f g }

/-- A group record changed. -/
def State.setGroup (s : State) (g : GroupNo) (r : Group) : State := { s with groups := s.groups.set g r }

/-- A signal line changed. -/
def State.setLine (s : State) (l : Line) (x : LineState) : State := { s with lines := s.lines.set l x }

/-- The setting a timer kind is loaded with (R93). -/
def Globals.timeout (g : Globals) : TimerKind → Nat
  | .arm => g.armTimeout
  | .bypass => g.bypassTimeout
  | .handover => g.handover
  | .stop => g.stopTimeout

/-- R93: a timer started, its count the setting of its kind. -/
def Globals.startTimer (g : Globals) (k : TimerKind) : Option Timer := some ⟨k, g.timeout k, true⟩

/-- R93: a sample set taken after the instant at which the timer was started decreases its count by 1; `sameInstant`
says that a fresh timer was started at the instant of this very sample set (notes/assumptions/5.md). -/
def Timer.tick (t : Timer) (sameInstant : Bool) : Timer :=
  if t.fresh && sameInstant then { t with fresh := false }
  else { t with remaining := t.remaining - 1, fresh := false }

/-- A step applied to each feeder in ascending number. -/
def forFeeders (step : Feeder → State → State) (s : State) : State :=
  Feeder.list.foldl (fun s f => step f s) s

/-- A step applied to each signal line in ascending number. -/
def forLines (step : Line → State → State) (s : State) : State :=
  Line.list.foldl (fun s l => step l s) s

/-- A step applied to each tool group in ascending number. -/
def forGroups (step : GroupNo → State → State) (s : State) : State :=
  GroupNo.list.foldl (fun s g => step g s) s

end Sys2Proof.Machine
end

