-- ==== Sys2Proof/Machine/Operands.lean ====
section
/-! DEFINITION. The field encodings of chapter 11: how operands are read from received bytes and how replies, reports
and bridge records are laid out. -/

namespace Sys2Proof.Machine

open Sys2Proof

/-! ## Codes (section 11.2) -/

/-- Section 11.2. -/
def Status.code : Status → Nat
  | .ok => 0
  | .clamped => 1
  | .busy => 2
  | .unknown => 3
  | .length => 4
  | .value => 5
  | .notNow => 6
  | .refused => 7
  | .imageFault => 8

/-- Section 11.2. -/
def OpState.code : OpState → Nat
  | .loading => 0
  | .configuring => 1
  | .running => 2

/-- Section 11.2. -/
def TrackerState.code : TrackerState → Nat
  | .seeking => 0
  | .locked => 1
  | .holding => 2

/-- Section 11.2. -/
def TrackerCause.code : TrackerCause → Nat
  | .lockedOn => 0
  | .misses => 1
  | .silence => 2
  | .eventOnset => 3
  | .eventEnd => 4
  | .freqChange => 5

/-- Section 11.2. -/
def DetectorState.code : DetectorState → Nat
  | .clear => 0
  | .active => 1
  | .dwell => 2
  | .lockout => 3

/-- Section 11.2. -/
def OnsetCause.code : OnsetCause → Nat
  | .fast => 0
  | .rms => 1
  | .external => 2

/-- Section 11.2. -/
def Compensability.code : Compensability → Nat
  | .compensable => 0
  | .notRunning => 1
  | .trackerNotLocked => 2

/-- Section 11.2. -/
def EndCause.code : EndCause → Nat
  | .recovered => 0
  | .limit => 1

/-- Section 11.2. -/
def FeederState.code : FeederState → Nat
  | .offline => 0
  | .standby => 1
  | .held => 2
  | .arming => 3
  | .injecting => 4
  | .releasing => 5
  | .faulted => 6

/-- Section 11.2. -/
def SeqPhase.code : SeqPhase → Nat
  | .closing => 0
  | .handingOver => 1
  | .stopping => 2
  | .settled => 3

/-- Section 11.2. -/
def Mode.code : Mode → Nat
  | .full => 0
  | .floor => 1

/-- Section 11.2. -/
def Grant.code : Grant → Nat
  | .full => 0
  | .floor => 1
  | .none => 2

/-- Section 11.2. -/
def Cause.code : Cause → Nat
  | .recovered => 0
  | .limit => 1
  | .starved => 2
  | .notNeeded => 3
  | .held => 4
  | .bridgeFault => 5
  | .bridgeLost => 6
  | .armTimeout => 7
  | .bypassStuck => 8
  | .groupAbandon => 9
  | .stopTimeout => 10

/-- Section 11.2. -/
def StoodBy.code : StoodBy → Nat
  | .held => 0
  | .faulted => 1
  | .notNeeded => 2
  | .starvedAtEntry => 3
  | .groupIncomplete => 4
  | .barred => 5

/-- Section 11.2. -/
def GroupState.code : GroupState → Nat
  | .idle => 0
  | .engaging => 1
  | .active => 2
  | .abandoned => 3

/-- Section 11.2. -/
def AbandonCause.code : AbandonCause → Nat
  | .starved => 0
  | .memberRefused => 1
  | .memberReleased => 2

/-- Section 11.2. -/
def PortState.code : PortState → Nat
  | .quiet => 0
  | .waiting => 1
  | .up => 2
  | .lost => 3

/-- Section 11.2. -/
def PortCause.code : PortCause → Nat
  | .waiting => 0
  | .up => 1
  | .lost => 2
  | .recovered => 3
  | .down => 4
  | .derateSet => 5
  | .derateClear => 6

/-- Section 11.2. -/
def StoreCause.code : StoreCause → Nat
  | .warningSet => 0
  | .warningClear => 1
  | .overvoltageSet => 2
  | .overvoltageClear => 3

/-- Section 11.2. -/
def HoldOp.code : HoldOp → Nat
  | .take => 0
  | .drop => 1
  | .takeIfFree => 2
  | .takeIfHeld => 3
  | .forceClear => 4
  | .forceFull => 5
  | .peek => 6

/-- Section 11.2. -/
def Policy.code : Policy → Nat
  | .floorFirst => 0
  | .priorityFull => 1

/-- Section 11.2. -/
def Command.code : Command → Nat
  | .idle => 0
  | .start => 1
  | .run => 2
  | .stop => 3

/-- Section 11.2. -/
def BypassCommand.code : BypassCommand → Nat
  | .close => 0
  | .open => 1

/-- Section 11.2. -/
def ModuleState.code : ModuleState → Nat
  | .idle => 0
  | .starting => 1
  | .running => 2
  | .stopping => 3
  | .fault => 4

/-- Section 11.2. -/
def BypassPosition.code : BypassPosition → Nat
  | .closed => 0
  | .open => 1
  | .moving => 2

/-- Section 11.2. -/
def FaultKind.code : FaultKind → Nat
  | .none => 0
  | .overcurrent => 1
  | .overtemp => 2
  | .gate => 3
  | .dcLink => 4

/-- Section 11.2. -/
def RecordTag.code : RecordTag → Nat
  | .other => 0
  | .arming => 1
  | .injecting => 2

/-- Section 11.2; none outside the codes (R189). -/
def HoldOp.ofCode? : Nat → Option HoldOp
  | 0 => some .take
  | 1 => some .drop
  | 2 => some .takeIfFree
  | 3 => some .takeIfHeld
  | 4 => some .forceClear
  | 5 => some .forceFull
  | 6 => some .peek
  | _ => none

/-- Section 11.2; none outside the codes (R189). -/
def Policy.ofCode? : Nat → Option Policy
  | 0 => some .floorFirst
  | 1 => some .priorityFull
  | _ => none

/-- Section 11.2; none outside the codes (R189). -/
def ModuleState.ofCode? : Nat → Option ModuleState
  | 0 => some .idle
  | 1 => some .starting
  | 2 => some .running
  | 3 => some .stopping
  | 4 => some .fault
  | _ => none

/-- Section 11.2; none outside the codes (R189). -/
def BypassPosition.ofCode? : Nat → Option BypassPosition
  | 0 => some .closed
  | 1 => some .open
  | 2 => some .moving
  | _ => none

/-- Section 11.2; none outside the codes (R189). -/
def FaultKind.ofCode? : Nat → Option FaultKind
  | 0 => some .none
  | 1 => some .overcurrent
  | 2 => some .overtemp
  | 3 => some .gate
  | 4 => some .dcLink
  | _ => Option.none

/-- The timer kind of a reply, 0 for stopped (section 11.2). -/
def timerCode : Option Timer → Nat
  | none => 0
  | some t => match t.kind with
    | .arm => 1
    | .bypass => 2
    | .handover => 3
    | .stop => 4

/-- LINE_FREQ as its value (R189). -/
def LineFreq.code : LineFreq → Nat
  | .hz50 => 50
  | .hz60 => 60

/-- LINE_FREQ of its value (R3). -/
def LineFreq.ofCode? : Nat → Option LineFreq
  | 50 => some .hz50
  | 60 => some .hz60
  | _ => none

/-- The event code of a binding (R154). -/
def EventCode.code : EventCode → Nat
  | .none => 0
  | .hold f => f.number
  | .extTrigger => 7
  | .bankSelect => 8
  | .feederInjecting f => 15 + f.number
  | .eventActive => 22
  | .storeWarning => 23
  | .chargerEnable => 24
  | .ready => 25
  | .faultSummary => 26
  | .trackerLocked => 27
  | .groupActive g => 27 + g.number

/-- The binding of an event code; none for 9..15 and 32..255 (R154). -/
def EventCode.ofCode? (n : Nat) : Option EventCode :=
  if n = 0 then some .none
  else if n ≤ 6 then (Feeder.ofNumber? n).map .hold
  else if n = 7 then some .extTrigger
  else if n = 8 then some .bankSelect
  else if n ≤ 15 then Option.none
  else if n ≤ 21 then (Feeder.ofNumber? (n - 15)).map .feederInjecting
  else if n = 22 then some .eventActive
  else if n = 23 then some .storeWarning
  else if n = 24 then some .chargerEnable
  else if n = 25 then some .ready
  else if n = 26 then some .faultSummary
  else if n = 27 then some .trackerLocked
  else if n ≤ 31 then (GroupNo.ofNumber? (n - 27)).map .groupActive
  else Option.none

/-- Output codes are 16..31 (R152). -/
def EventCode.isOutput : EventCode → Bool
  | .none | .hold _ | .extTrigger | .bankSelect => false
  | .feederInjecting _ | .eventActive | .storeWarning | .chargerEnable | .ready | .faultSummary
  | .trackerLocked | .groupActive _ => true

/-- A received truth value: 0 or 1 (R189). -/
def truthOf? : Nat → Option Bool
  | 0 => some false
  | 1 => some true
  | _ => none

/-! ## Setting identifiers (section 11.7) -/

/-- The settings of section 11.7. -/
inductive SettingId where
  | lineFreq | nominalPeak | onsetLevel | recoveryLevel | recoveryDwell | fastFraction | fastConfirm | eventLimit
  | targetFull | storeCapacitance | storeFloor | storeRated | storeWarnSel | storeMax | quantum | reserve
  | allocPolicy | armTimeout | bypassTimeout | handover | stopTimeout | rechargeDelay
  | enabled | injLimit | energyScale | onsetForecast | startHeld
  | bankClass (b : Bank) | bankLevel (b : Bank)
  deriving DecidableEq, Repr

/-- The setting of an identifier (section 11.7). -/
def SettingId.ofCode? : Nat → Option SettingId
  | 0x01 => some .lineFreq
  | 0x02 => some .nominalPeak
  | 0x03 => some .onsetLevel
  | 0x04 => some .recoveryLevel
  | 0x05 => some .recoveryDwell
  | 0x06 => some .fastFraction
  | 0x07 => some .fastConfirm
  | 0x08 => some .eventLimit
  | 0x09 => some .targetFull
  | 0x0A => some .storeCapacitance
  | 0x0B => some .storeFloor
  | 0x0C => some .storeRated
  | 0x0D => some .storeWarnSel
  | 0x0E => some .storeMax
  | 0x0F => some .quantum
  | 0x10 => some .reserve
  | 0x11 => some .allocPolicy
  | 0x12 => some .armTimeout
  | 0x13 => some .bypassTimeout
  | 0x14 => some .handover
  | 0x15 => some .stopTimeout
  | 0x16 => some .rechargeDelay
  | 0x20 => some .enabled
  | 0x21 => some .injLimit
  | 0x22 => some .energyScale
  | 0x23 => some .onsetForecast
  | 0x24 => some .startHeld
  | 0x25 => some (.bankClass .b0)
  | 0x26 => some (.bankLevel .b0)
  | 0x27 => some (.bankClass .b1)
  | 0x28 => some (.bankLevel .b1)
  | _ => none

/-- Whether a setting is per-feeder (section 11.7). -/
def SettingId.perFeeder : SettingId → Bool
  | .enabled | .injLimit | .energyScale | .onsetForecast | .startHeld | .bankClass _ | .bankLevel _ => true
  | .lineFreq | .nominalPeak | .onsetLevel | .recoveryLevel | .recoveryDwell | .fastFraction | .fastConfirm | .eventLimit | .targetFull
  | .storeCapacitance | .storeFloor | .storeRated | .storeWarnSel | .storeMax | .quantum | .reserve | .allocPolicy
  | .armTimeout | .bypassTimeout | .handover | .stopTimeout | .rechargeDelay => false

/-! ## Fields (R189) -/

/-- A one-byte field. -/
def byteOf (n : Nat) : Byte := BitVec.ofNat 8 n

/-- A two-byte field, high byte first. -/
def half (n : Nat) : List Byte := [byteOf (n / 256), byteOf n]

/-- A four-byte field, high byte first. -/
def quad (n : Nat) : List Byte := half (n / 65536) ++ half n

/-- A signed two-byte field, two's complement. -/
def signedHalf (x : Int) : List Byte :=
  let v := (BitVec.ofInt 16 x).toNat
  half v

/-- A truth value. -/
def truth (b : Bool) : Byte := if b then 1 else 0

/-- An absent one-byte field reads 0xFF. -/
def optByte : Option Nat → Byte
  | some n => byteOf n
  | none => 0xFF

/-- An absent magnitude or voltage reads 0xFFFF. -/
def optHalf : Option Nat → List Byte
  | some n => half n
  | none => [0xFF, 0xFF]

/-- Two received bytes as a number, high byte first. -/
def halfValue (hi lo : Byte) : Nat := hi.toNat * 256 + lo.toNat

/-- The two bytes of a two-byte operand, high byte first. -/
def halfBytes (h : Half) : List Byte := half h.toNat

/-- A feeder set: bit 0 is feeder 1 and bit 5 is feeder 6. -/
def setByte (s : FeederSet) : Byte :=
  byteOf ((Feeder.list.map fun f => if s.get f then 2 ^ (f.number - 1) else 0).sum)

/-- The feeders a set byte names, bits 6 and 7 left out (R133 step 1). -/
def setOf (b : Byte) : FeederSet := Six.of fun f => b.getLsbD (f.number - 1)

/-- A received feeder set; one with bit 6 or 7 set is outside its codes. -/
def setOf? (b : Byte) : Option FeederSet := if b.toNat < 64 then some (setOf b) else none

/-- A reading's magnitude and worst phase, 0xFFFF and 0xFF when invalid. -/
def readingBytes (r : Option Reading) : List Byte :=
  optHalf (r.map (·.vret)) ++ [optByte (r.map (·.worst.number))]

/-! ## Bridge records (R190) -/

/-- The sum of bytes modulo 256 (R119, R190). -/
def byteSum (l : List Byte) : Byte := l.foldl (· + ·) 0

/-- The 9 bytes of a reference record, the check byte making the sum 0 modulo 256. -/
def RefRecord.bytes (r : RefRecord) : List Byte :=
  let body := [byteOf r.command.code, byteOf r.bypass.code] ++ signedHalf r.refs.a ++ signedHalf r.refs.b ++
    signedHalf r.refs.c
  body ++ [-byteSum body]

/-- The six tests of a good status record (R119): length, check, and the codes of its four fields. -/
def parseStatus (l : List Byte) : Option ModuleStatus :=
  match l with
  | [m, b, d, k, c] =>
    if byteSum [m, b, d, k, c] = 0 then
      match ModuleState.ofCode? m.toNat, BypassPosition.ofCode? b.toNat, truthOf? d.toNat, FaultKind.ofCode? k.toNat with
      | some m, some b, some d, some k => some ⟨m, b, d, k⟩
      | _, _, _, _ => none
    else none
  | _ => none

/-- R119, R120: what the examination of a slot finds. Records not wholly received in the slot form no record; of
several, the last is examined. -/
def goodRecord (rs : List SlotRecord) : Option ModuleStatus :=
  match (rs.filter (·.whole)).getLast? with
  | some r => parseStatus r.bytes
  | none => none

/-- A status record's module state, bypass position and fault kind, 0xFF when absent (R114). -/
def statusShort (st : Option ModuleStatus) : List Byte :=
  [optByte (st.map (·.module.code)), optByte (st.map (·.bypass.code)), optByte (st.map (·.fault.code))]

/-- A status record's four fields, 0xFF when absent (R129). -/
def statusBytes (st : Option ModuleStatus) : List Byte :=
  [optByte (st.map (·.module.code)), optByte (st.map (·.bypass.code)),
    optByte (st.map fun x => if x.derate then 1 else 0), optByte (st.map (·.fault.code))]

/-! ## Reports and frames (sections 11.3, 11.4) -/

/-- The kind byte of a report (section 11.2). -/
def Report.kind (r : Report) : Byte := byteOf (0x40 + r.bit)

/-- A report's own fields, after the overflow flag (section 11.4). -/
def Report.fields : Report → List Byte
  | .eventOnset n c k v e => half n ++ [byteOf c.code, byteOf k.code] ++ readingBytes v ++ [byteOf e]
  | .eventEnd n c d v t x => half n ++ [byteOf c.code, byteOf d] ++ readingBytes v ++ quad t ++ [byteOf x]
  | .feederState f st ph md c =>
    [byteOf f.number, byteOf st.code, optByte (ph.map (·.code)), optByte (md.map (·.code)), optByte (c.map (·.code))]
  | .feederFault f c fo left st ev =>
    [byteOf f.number, byteOf c.code, truth fo, optByte (left.map (·.code))] ++ statusShort st ++ half (ev.getD 0)
  | .tracker st c => [byteOf st.code, byteOf c.code]
  | .store c v q ch => [byteOf c.code] ++ optHalf v ++ half q ++ [truth ch]
  | .port f st c ms => [byteOf f.number, byteOf st.code, byteOf c.code] ++ statusBytes ms

/-- A frame: start byte, length, kind, tag, payload and CRC-16 (R163). -/
def frame (kind tag : Byte) (payload : List Byte) : List Byte :=
  let body := byteOf (payload.length + 2) :: kind :: tag :: payload
  let c := crc16 body
  0xA5 :: body ++ half c.toNat

/-- The bytes of what the transmitter sends (R163, R176, R189). -/
def Outgoing.bytes : Outgoing → List Byte
  | .reply r => frame r.kind r.tag (byteOf r.status.code :: r.body)
  | .report r o => frame r.kind 0 (truth o :: r.fields)

end Sys2Proof.Machine
end

