-- ==== Sys2Proof/Machine/Flags.lean ====
section
/-! DEFINITION. The flags and conditions the blocks read of one another: V_ret against a level, an open event, an
engaged or available feeder, the store's warning, over-voltage and charger, the condition of each output line, and
the conditions under which a timer or a line has an event due. -/

namespace Sys2Proof.Machine

open Sys2Proof

/-! ## Magnitudes (R15, R16) -/

/-- V_ret and the worst phase: the least of m_A, m_B, m_C, and the first that gives it (R15). -/
def readingOf (m : Tri Nat) : Reading :=
  if m.a ≤ m.b ∧ m.a ≤ m.c then ⟨m.a, .a⟩
  else if m.b ≤ m.c then ⟨m.b, .b⟩
  else ⟨m.c, .c⟩

/-- V_ret and the worst phase of the latest sample instant, absent while invalid (R15, R16). -/
def State.reading (s : State) : Option Reading := s.magnitude.mags.map readingOf

/-- V_ret of the latest sample instant, absent while invalid. -/
def State.vret (s : State) : Option Nat := s.reading.map (·.vret)

/-- V_ret at or above a level; an invalid one is not (R16). -/
def atOrAbove (v : Option Nat) (level : Nat) : Bool :=
  match v with
  | some v => level ≤ v
  | none => false

/-- V_ret below a level; an invalid one is not (R16). -/
def below (v : Option Nat) (level : Nat) : Bool :=
  match v with
  | some v => v < level
  | none => false

/-! ## Event, feeders, ports -/

/-- An event is open: the detector in ACTIVE or DWELL (R30). -/
def DetectorState.eventOpen : DetectorState → Bool
  | .active | .dwell => true
  | .clear | .lockout => false

/-- An event is open (R30). -/
def State.eventOpen (s : State) : Bool := s.detector.state.eventOpen

/-- The number of the open event (R30). -/
def State.openNumber (s : State) : Option Nat := s.detector.record.map (·.number)

/-- In ARMING or INJECTING: a participant (R74). -/
def FeederState.engaged : FeederState → Bool
  | .arming | .injecting => true
  | .offline | .standby | .held | .releasing | .faulted => false

/-- A feeder is a participant (R74). -/
def State.participant (s : State) (f : Feeder) : Bool := (s.seq.get f).state.engaged

/-- A feeder is available: STANDBY, not barred, port UP (R75). -/
def State.available (s : State) (f : Feeder) : Bool :=
  (s.seq.get f).state == .standby && !(s.seq.get f).barred && (s.port.get f).state == .up

/-- A port sends and examines in WAITING, UP and LOST (R117). -/
def PortState.sends : PortState → Bool
  | .quiet => false
  | .waiting | .up | .lost => true

/-- Derate as the latest good status record gives it; an absent record reads as no derate (R122). -/
def Port.derate (p : Port) : Bool :=
  match p.status with
  | some st => st.derate
  | none => false

/-- R54: the limit that a port's derate leaves of an INJ_LIMIT. -/
def Port.limit (p : Port) (injLimit : Nat) : Nat := if p.derate then injLimit / 2 else injLimit

/-- The effective limit L_eff that a record formed now keeps (R54, R56). -/
def State.effectiveLimit (s : State) (f : Feeder) : Nat := (s.port.get f).limit (s.inForce.feeders.get f).injLimit

/-- The group a feeder is a member of (R131; R132 and R133 keep it unique). -/
def State.groupOf (s : State) (f : Feeder) : Option GroupNo :=
  GroupNo.list.find? fun g => (s.groups.get g).members.get f

/-- The part takes commands of its own blocks: not held in reset (R180). -/
def State.live (s : State) : Bool := !s.inReset

/-- Sample sets are taken: outside LOADING, and not while held in reset (R1, R180). -/
def State.sampling (s : State) : Bool := !s.inReset && s.loader.op != .loading

/-! ## Sequence timers -/

/-- The feeder's sequence timer of a kind has expired and its expiry is not yet taken (R93). -/
def State.expiryDue (s : State) (f : Feeder) (k : TimerKind) : Bool :=
  match (s.seq.get f).timer with
  | some t => t.kind == k && t.remaining == 0
  | none => false

/-- Some expiry of the feeder's sequence timer is not yet taken (R93). -/
def State.anyExpiryDue (s : State) (f : Feeder) : Bool :=
  match (s.seq.get f).timer with
  | some t => t.remaining == 0
  | none => false

/-! ## Store conditions (R68 to R70) -/

/-- P of STORE_WARN_SEL (R68). -/
def warnPercent (sel : Nat) : Nat := 55 + 5 * min sel 7

/-- The warning threshold in volts (R68). -/
def Globals.warnThreshold (g : Globals) : Nat := g.storeRated * warnPercent g.storeWarnSel / 100

/-- The clearing level in volts (R68). -/
def Globals.warnClear (g : Globals) : Nat := g.warnThreshold + g.storeRated / 50

/-- The warning after a sample set (R68). -/
def Globals.warningNext (g : Globals) (warning : Bool) (v : Nat) : Bool :=
  if warning then v < g.warnClear else v < g.warnThreshold

/-- The over-voltage state after a sample set (R69). -/
def Globals.overNext (g : Globals) (ov : Bool) (v : Nat) : Bool :=
  if ov then !(v ≤ g.storeMax - 10) else g.storeMax < v

/-- Charger enable (R70), from V and the over-voltage of the instant. -/
def State.chargerNext (s : State) (v : Nat) (ov : Bool) : Bool :=
  !s.eventOpen && s.store.delay == 0 && v < s.inForce.globals.storeRated && !ov && s.loader.op == .running

/-! ## Signal lines -/

/-- R153: the line's level is accepted: its run count is 4 and its sampled level differs from its debounced level,
or it has no debounced level. -/
def LineState.acceptanceDue (l : LineState) : Bool :=
  !l.binding.isOutput && l.run == some 4 && l.sampled.isSome && l.sampled != l.debounced

/-- R69, R115, R128: FAULT_SUMMARY's condition. -/
def State.faultSummary (s : State) : Bool :=
  (Feeder.list.any fun f => (s.seq.get f).state == .faulted) ||
    (Feeder.list.any fun f => (s.port.get f).state == .lost) || s.store.overVoltage

/-- R160: the condition for active of each output code, and none for the other codes. -/
def State.condition (s : State) : EventCode → Bool
  | .feederInjecting f => (s.seq.get f).state == .injecting
  | .eventActive => s.eventOpen
  | .storeWarning => s.store.warning
  | .chargerEnable => s.store.charger
  | .ready => s.loader.op == .running
  | .faultSummary => s.faultSummary
  | .trackerLocked => s.tracker.state != .seeking
  | .groupActive g => (s.groups.get g).state == .active
  | .none | .hold _ | .extTrigger | .bankSelect => false

/-- R160: the stage that an instant's orders give an output code; none for the other codes. -/
def stageOf (v : OutputStages) : EventCode → Option Stage
  | .feederInjecting f => some (v.feederInjecting.get f)
  | .eventActive => some v.eventActive
  | .storeWarning => some v.storeWarning
  | .chargerEnable => some v.chargerEnable
  | .ready => some v.ready
  | .faultSummary => some v.faultSummary
  | .trackerLocked => some v.trackerLocked
  | .groupActive g => some (v.groupActive.get g)
  | .none | .hold _ | .extTrigger | .bankSelect => none

end Sys2Proof.Machine
end

