-- ==== Sys2Proof/Machine/Envelope.lean ====
section
/-! DEFINITION. The class table: envelope lookups (R34), storing and loading classes (R32, R33), and the profile
banks with their switching (R35, R36). -/

namespace Sys2Proof.Machine

open Sys2Proof

/-- floor(t): the floor of the first segment whose duration limit is greater than t, else the immunity (R34). -/
def EnvClass.floorAt (c : EnvClass) (t : Nat) : Nat :=
  match c.segments.find? fun g => t < g.limit with
  | some g => g.floor
  | none => c.immunity

/-- The entry of a feeder in the active bank (R35). -/
def Values.bankEntry (v : Values) (f : Feeder) : BankEntry := (v.banks.get v.activeBank).get f

/-- The class of a feeder in the active bank (R34). -/
def Values.classOf (v : Values) (f : Feeder) : EnvClass := v.classes.get (v.bankEntry f).cls

/-- The entry of a feeder in the active bank, as the latest sample instant uses it (R35). -/
def State.bankEntry (s : State) (f : Feeder) : BankEntry := s.inForce.bankEntry f

/-- The class of a feeder in the active bank, as the latest sample instant uses it (R34). -/
def State.classOf (s : State) (f : Feeder) : EnvClass := s.inForce.classOf f

/-- The class immunity of a feeder in the active bank (R34). -/
def State.immunity (s : State) (f : Feeder) : Nat := (s.classOf f).immunity

/-- The class floor of a feeder at the t in force (R34). -/
def State.floorNow (s : State) (f : Feeder) : Nat := (s.classOf f).floorAt s.detector.t

/-- R32 step 2: every field clamped into its range. -/
def EnvClass.clampRanges (c : EnvClass) : EnvClass :=
  ⟨clampNat 500 1000 c.immunity, c.segments.map fun g => ⟨clampNat 1 250 g.limit, clampNat 0 1000 g.floor⟩⟩

/-- R32 step 3: the duration limits are strictly ascending. -/
def limitsAscend : List Segment → Bool
  | a :: b :: rest => a.limit < b.limit && limitsAscend (b :: rest)
  | _ => true

/-- R32 step 4: each floor raised to its predecessor's, then lowered to the immunity. -/
def clampFloors (immunity : Nat) : Nat → List Segment → List Segment
  | _, [] => []
  | previous, g :: rest =>
    let raised := max previous g.floor
    ⟨g.limit, min raised immunity⟩ :: clampFloors immunity raised rest

/-- R32 step 4 on a class. -/
def EnvClass.clampOrder (c : EnvClass) : EnvClass := ⟨c.immunity, clampFloors c.immunity 0 c.segments⟩

/-- R33: the segment list cut at the first segment whose limit is not greater than the one before it. -/
def cutAscending : Option Nat → List Segment → List Segment
  | _, [] => []
  | none, g :: rest => g :: cutAscending (some g.limit) rest
  | some p, g :: rest => if p < g.limit then g :: cutAscending (some g.limit) rest else []

/-- R33: a class record as an image load stores it. -/
def EnvClass.load (c : EnvClass) : EnvClass :=
  let c := EnvClass.clampRanges ⟨c.immunity, c.segments.take 6⟩
  EnvClass.clampOrder ⟨c.immunity, cutAscending none c.segments⟩

/-- R36: a bank switch request from a Bank Select request or a BANK_SELECT line: made pending while an event is open,
else stored with any pending bank removed, and used from the next sample instant (notes/assumptions/12.md), also where an
onset of the same instant comes after it (DESIGN CHOICE, notes/assumptions/34.md). -/
def State.switchBank (s : State) (b : Bank) : State :=
  if s.eventOpen then { s with classes := { s.classes with pendingBank := some b } }
  else { s with classes := { s.classes with activeBank := b, pendingBank := none } }

/-- R36: at the end of an event a pending bank becomes active and is removed. -/
def State.applyPendingBank (s : State) : State :=
  { s with classes := { s.classes with
      activeBank := s.classes.pendingBank.getD s.classes.activeBank, pendingBank := none } }

end Sys2Proof.Machine
end

