-- ==== Sys2Proof/Machine/Sequencer.lean ====
section
/-! DEFINITION. The feeder sequencers and the tool groups they answer to (chapters 5 and 7): grants, releases, faults,
departures and refusals, engagement and acknowledgement, status records, timer expiries and Fault Clear's effect. -/

namespace Sys2Proof.Machine

open Sys2Proof

/-! ## Facts written into the open record (R40 to R42) -/

/-- The entry of a listed feeder in the open record changed; nothing when there is no open record. -/
def State.updateEntry (s : State) (f : Feeder) (change : Entry → Entry) : State :=
  match s.detector.record with
  | some r =>
    { s with detector := { s.detector with
        record := some { r with entries := r.entries.map fun e => if e.feeder = f then change e else e } } }
  | none => s

/-- R42: the cause of leaving engagement, written if the entry has none. -/
def Entry.withRelease (e : Entry) (c : Cause) : Entry :=
  match e.release with
  | some _ => e
  | none => { e with release := some c }

/-- R42, R105: a feeder's cause delivered to the open record. -/
def State.noteRelease (s : State) (f : Feeder) (c : Cause) : State := s.updateEntry f fun e => e.withRelease c

/-- R41: a participant's mode change delivered to the open record. -/
def State.noteMode (s : State) (f : Feeder) (m : Mode) : State :=
  s.updateEntry f fun e => { e with lastMode := some m }

/-! ## Reports of a sequencer (R113, R114) -/

/-- R113: FEEDER_STATE at a change of state, with the cause of the entry. -/
def State.postFeederState (s : State) (f : Feeder) (c : Option Cause) : State :=
  let q := s.seq.get f
  s.post (.feederState f q.state q.phase q.mode c)

/-- R114: FEEDER_FAULT, primary with the state left or follow-on. -/
def State.postFeederFault (s : State) (f : Feeder) (c : Cause) (left : Option FeederState) : State :=
  s.post (.feederFault f c left.isNone left (s.port.get f).status s.openNumber)

/-! ## Changes of state -/

/-- The state a feeder enters where it enters STANDBY or HELD by its hold count (R95, R104, R110). -/
def State.readyState (s : State) (f : Feeder) : FeederState :=
  if s.holds.get f = 0 then .standby else .held

/-- R95, R104, R110, R111: the feeder enters STANDBY if its hold count is 0, or HELD if it is nonzero, with no phase and
the timer stopped. -/
def State.enterReady (s : State) (f : Feeder) : State :=
  let st := s.readyState f
  (s.setSeq f { s.seq.get f with state := st, phase := none, timer := none }).postFeederState f
    (if st = .held then some .held else none)

/-- R101, R102, R105: a release taken by the sequencer, its cause delivered to the record but not yet to the group
table. Ignored outside ARMING and INJECTING. -/
def State.releaseAlone (s : State) (f : Feeder) (c : Cause) : State :=
  let q := s.seq.get f
  if q.state.engaged then
    ((s.setSeq f { q with
        state := .releasing, phase := some .closing, releaseCause := some c,
        timer := s.globals.startTimer .bypass, barred := q.barred || s.eventOpen }).noteRelease f c).postFeederState f
      (some c)
  else s

/-- R107, R108, R109, R98, R103, R104: entry into FAULTED in a phase, with a timer started or stopped; leaving engagement
bars the feeder during an event (R102) and delivers the cause to the record (R105). R173 gives no order between the two
reports: the model posts FEEDER_STATE before FEEDER_FAULT (notes/assumptions/13.md). -/
def State.faultAlone (s : State) (f : Feeder) (c : Cause) (ph : SeqPhase) (timer : Option TimerKind) : State :=
  let q := s.seq.get f
  let s' := s.setSeq f { q with
    state := .faulted, phase := some ph, faultCause := some c,
    timer := timer.bind s.globals.startTimer, barred := q.barred || (q.state.engaged && s.eventOpen) }
  let s' := if q.state.engaged then s'.noteRelease f c else s'
  (s'.postFeederState f (some c)).postFeederFault f c (some q.state)

/-- R109: a follow-on cause recorded, replacing any held, and reported. -/
def State.followOn (s : State) (f : Feeder) (c : Cause) : State :=
  (s.setSeq f { s.seq.get f with followOn := some c }).postFeederFault f c none

/-! ## Groups: departures, refusals, abandonment (R138 to R141) -/

/-- R138: a refusal that abandons a group, and with which abandon cause; none for a group-wide departure. -/
def Cause.refusal : Cause → Option AbandonCause
  | .armTimeout | .bridgeFault | .bridgeLost => some .memberRefused
  | .held | .bypassStuck => some .memberReleased
  | .starved | .notNeeded | .groupAbandon | .recovered | .limit | .stopTimeout => none

/-- The waiting GROUP_ABANDON requests taken by the sequencers, in ascending feeder number (R140). -/
def State.takeGroupRequests (s : State) : State :=
  let waiting := s.groupRequests
  forFeeders (fun h s => if waiting.get h then s.releaseAlone h .groupAbandon else s)
    { s with groupRequests := FeederSet.empty }

/-- R140, R141: a refusal taken by the group table. In ENGAGING or ACTIVE the group is abandoned and every other member of
the engaged set is sent GROUP_ABANDON; in ABANDONED or IDLE the member joins the refused set and nothing else. -/
def State.refuse (s : State) (g : GroupNo) (f : Feeder) (a : AbandonCause) : State :=
  let r := s.groups.get g
  match r.state with
  | .engaging | .active =>
    { s.setGroup g { r with refused := r.refused.insert f, abandonCause := some a, state := .abandoned } with
      groupRequests := Six.of fun h => s.groupRequests.get h || (r.engaged.get h && h != f) }
  | .abandoned | .idle => s.setGroup g { r with refused := r.refused.insert f }

/-- R138, R141, R146: whether a refusal is one for a group: by a member of its engaged set, or, in a group in ABANDONED
whose sets have been cleared, by a member that the clear took out of it. -/
def Group.takesRefusal (r : Group) (f : Feeder) : Bool :=
  r.engaged.get f || (r.state == .abandoned && r.engaged == FeederSet.empty)

/-- R138: one refusal delivered to the group table; a feeder of no group, or outside its group's engaged set, changes
nothing. -/
def State.takeRefusal (s : State) (f : Feeder) (a : AbandonCause) : State :=
  match s.groupOf f with
  | some g => if (s.groups.get g).takesRefusal f then s.refuse g f a else s
  | none => s

/-- The refusals on their way taken by the group table, one after the other in the order of the departures (R141). -/
def State.takeRefusals (s : State) : State :=
  s.refusals.foldl (fun s r => s.takeRefusal r.1 r.2) { s with refusals := [] }

/-- The group table takes the refusals on their way, and the sequencers the GROUP_ABANDON requests, but for what is left
(R141). -/
def State.settleGroups (s : State) (lv : Leave) : State :=
  if lv.refusal then s
  else if lv.requests then s.takeRefusals
  else s.takeRefusals.takeGroupRequests

/-- R105, R138: a departure delivered to the group table, which takes it at once or, where it is left, after another event
of the instant (R141, R142, R145, notes/assumptions/16.md). A group-wide departure changes nothing. -/
def State.depart (s : State) (lv : Leave) (f : Feeder) (c : Cause) : State :=
  match c.refusal with
  | some a => State.settleGroups { s with refusals := s.refusals ++ [(f, a)] } lv
  | none => s

/-- R101: a release request taken by a sequencer, with its departure. -/
def State.release (s : State) (lv : Leave) (f : Feeder) (c : Cause) : State :=
  if s.participant f then (s.releaseAlone f c).depart lv f c else s

/-- Entry into FAULTED with its departure, if the feeder leaves engagement (R105). -/
def State.fault (s : State) (lv : Leave) (f : Feeder) (c : Cause) (ph : SeqPhase) (timer : Option TimerKind) : State :=
  if s.participant f then (s.faultAlone f c ph timer).depart lv f c else s.faultAlone f c ph timer

/-! ## Groups: engagement, acknowledgement, notices (R136, R137, R142, R143, R145) -/

/-- R136, R137: with the acknowledged set equal to the engaged set, an ENGAGING group enters ACTIVE. -/
def Group.settle (r : Group) : Group :=
  if r.state = .engaging ∧ r.acknowledged = r.engaged then { r with state := .active } else r

/-- R136: engagement with the set delivered. -/
def State.engageGroup (s : State) (g : GroupNo) (engaged : FeederSet) : State :=
  let r := s.groups.get g
  s.setGroup g (Group.settle { r with
    state := .engaging, engaged := engaged, refused := FeederSet.empty, abandonCause := none,
    acknowledged := Six.of fun f => engaged.get f && (s.seq.get f).state == .injecting })

/-- R137: the acknowledgement of a feeder that has entered INJECTING. -/
def State.acknowledge (s : State) (f : Feeder) : State :=
  match s.groupOf f with
  | some g =>
    let r := s.groups.get g
    if r.engaged.get f then s.setGroup g (Group.settle { r with acknowledged := r.acknowledged.insert f }) else s
  | none => s

/-- R142: the arbiter's notice that the group's participant unit was granted NONE. -/
def State.starveGroup (s : State) (g : GroupNo) : State :=
  let r := s.groups.get g
  match r.state with
  | .engaging | .active => s.setGroup g { r with state := .abandoned, abandonCause := some .starved }
  | .idle | .abandoned => s

/-- R143: the arbiter's notice that the group's participants were released together with NOT_NEEDED. It may meet a group
that a refusal has just abandoned (R138), and then changes nothing: R143 speaks of a group in ENGAGING or ACTIVE
(notes/assumptions/16.md). -/
def State.groupNotNeeded (s : State) (g : GroupNo) : State :=
  let r := s.groups.get g
  match r.state with
  | .engaging | .active => s.setGroup g { r with state := .idle }
  | .idle | .abandoned => s

/-- The feeder cause of an end cause (R28). -/
def EndCause.cause : EndCause → Cause
  | .recovered => .recovered
  | .limit => .limit

/-- R145: the end notice at one group; an engaged group releases the members of its engaged set. -/
def State.groupEventEnd (s : State) (g : GroupNo) (e : EndCause) : State :=
  let r := s.groups.get g
  match r.state with
  | .engaging | .active =>
    forFeeders (fun f s => if r.engaged.get f then s.release .nothing f e.cause else s)
      (s.setGroup g { r with state := .idle })
  | .abandoned => s.setGroup g { r with state := .idle }
  | .idle => s

/-! ## Grants (R96, R97) -/

/-- R96: a candidate grant of FULL or FLOOR. -/
def State.candidateGrant (s : State) (f : Feeder) (m : Mode) : State :=
  let q := s.seq.get f
  if q.state = .standby then
    (s.setSeq f { q with
      state := .arming, mode := some m, releaseCause := none, timer := s.globals.startTimer .arm }).postFeederState f none
  else s

/-- R97: a participant grant of FULL or FLOOR; a changed mode is delivered to the record. -/
def State.participantGrant (s : State) (f : Feeder) (m : Mode) : State :=
  let q := s.seq.get f
  if q.state.engaged then
    (let s' := s.setSeq f { q with mode := some m }
     if q.mode = some m then s' else s'.noteMode f m)
  else s

/-! ## Status records (R98, R99, R103, R104, R107, R109) -/

/-- R98, R100: the feeder enters INJECTING: the BYPASS timer is started, the injected flag is set and the group table is
told that the feeder has acknowledged. -/
def State.enterInjecting (s : State) (f : Feeder) : State :=
  ((s.setSeq f { s.seq.get f with
      state := .injecting, timer := s.globals.startTimer .bypass, injected := true }).postFeederState f none).acknowledge f

/-- The sequencer's phase and timer changed, with no change of state (no report: R113). -/
def State.toPhase (s : State) (f : Feeder) (ph : SeqPhase) (timer : Option TimerKind) : State :=
  s.setSeq f { s.seq.get f with phase := some ph, timer := timer.bind s.globals.startTimer }

/-- A good status record taken in INJECTING, module RUNNING: the bypass is watched (R99). -/
def State.watchBypass (s : State) (f : Feeder) (b : BypassPosition) : State :=
  let q := s.seq.get f
  match b, q.timer with
  | .open, some _ => s.setSeq f { q with timer := none }
  | .closed, none | .moving, none => s.setSeq f { q with timer := s.globals.startTimer .bypass }
  | _, _ => s

/-- R109: a good status record taken in FAULTED; `before` is the good status record before it. -/
def State.faultedStatus (s : State) (f : Feeder) (st : ModuleStatus) (before : Option ModuleStatus) : State :=
  if st.module = .fault ∧ before.map (·.module) ≠ some .fault then
    (s.toPhase f .settled none).followOn f .bridgeFault
  else
    match (s.seq.get f).phase with
    | some .closing => if st.bypass = .closed then s.toPhase f .handingOver (some .handover) else s
    | some .stopping =>
      if st.module = .idle ∧ st.bypass = .closed then s.toPhase f .settled none else s
    | some .handingOver | some .settled | none => s

/-- A good status record delivered to the sequencer (R121): R98 in ARMING, R99 in INJECTING, R103 and R104 in RELEASING,
R107 for a module in FAULT, R109 in FAULTED. -/
def State.takeStatus (s : State) (lv : Leave) (f : Feeder) (st : ModuleStatus) (before : Option ModuleStatus) : State :=
  match (s.seq.get f).state with
  | .offline => s
  | .faulted => s.faultedStatus f st before
  | .standby | .held => if st.module = .fault then s.fault lv f .bridgeFault .settled none else s
  | .arming =>
    match st.module with
    | .running => s.enterInjecting f
    | .fault => s.fault lv f .bridgeFault .settled none
    | .idle | .starting | .stopping => s
  | .injecting =>
    match st.module with
    | .running => s.watchBypass f st.bypass
    | .fault | .idle | .starting | .stopping => s.fault lv f .bridgeFault .settled none
  | .releasing =>
    if st.module = .fault then s.fault lv f .bridgeFault .settled none
    else
      match (s.seq.get f).phase with
      | some .closing => if st.bypass = .closed then s.toPhase f .handingOver (some .handover) else s
      | some .stopping => if st.module = .idle ∧ st.bypass = .closed then s.enterReady f else s
      | some .handingOver | some .settled | none => s

/-- R108, R109: the port of the feeder has become LOST. -/
def State.takePortLost (s : State) (lv : Leave) (f : Feeder) : State :=
  match (s.seq.get f).state with
  | .standby | .held | .arming | .injecting | .releasing => s.fault lv f .bridgeLost .stopping (some .stop)
  | .faulted => s.followOn f .bridgeLost
  | .offline => s

/-! ## Timer expiries (R93, R98, R99, R103, R104, R109) -/

/-- The timer stops at its expiry (R93). -/
def State.stopTimer (s : State) (f : Feeder) : State := s.setSeq f { s.seq.get f with timer := none }

/-- R98: the ARM timer expires. -/
def State.armExpiry (s : State) (lv : Leave) (f : Feeder) : State :=
  if (s.seq.get f).state = .arming then s.fault lv f .armTimeout .stopping (some .stop) else s.stopTimer f

/-- R99, R103: the BYPASS timer expires. -/
def State.bypassExpiry (s : State) (lv : Leave) (f : Feeder) : State :=
  match (s.seq.get f).state, (s.seq.get f).phase with
  | .injecting, _ => s.release lv f .bypassStuck
  | .releasing, some .closing => s.fault lv f .bypassStuck .closing none
  | _, _ => s.stopTimer f

/-- R103, R109: the HANDOVER timer expires, in RELEASING or FAULTED. -/
def State.handoverExpiry (s : State) (f : Feeder) : State :=
  if (s.seq.get f).phase = some .handingOver then s.toPhase f .stopping (some .stop) else s.stopTimer f

/-- R104, R109: the STOP timer expires. -/
def State.stopExpiry (s : State) (lv : Leave) (f : Feeder) : State :=
  match (s.seq.get f).state, (s.seq.get f).phase with
  | .releasing, some .stopping => s.fault lv f .stopTimeout .stopping none
  | .faulted, some .stopping => (s.stopTimer f).followOn f .stopTimeout
  | _, _ => s.stopTimer f

/-- R93: an expiry not yet taken is taken by the rule of the state and phase the feeder is in. -/
def State.expire (s : State) (lv : Leave) (f : Feeder) : State :=
  match (s.seq.get f).timer with
  | some t =>
    if t.remaining = 0 then
      match t.kind with
      | .arm => s.armExpiry lv f
      | .bypass => s.bypassExpiry lv f
      | .handover => s.handoverExpiry f
      | .stop => s.stopExpiry lv f
    else s
  | none => s

/-- R93, R100: what a sample set does at one sequencer: the timer counts, and the injected flag is set while
INJECTING. -/
def State.tickSequencer (s : State) (sameInstant : Bool) (f : Feeder) : State :=
  let q := s.seq.get f
  s.setSeq f { q with
    timer := q.timer.map fun t => t.tick sameInstant,
    injected := q.injected || q.state == .injecting }

end Sys2Proof.Machine
end

