-- ==== Sys2Proof/Machine/Holds.lean ====
section
/-! DEFINITION. The hold counters (section 8.1) and the sequencer's answer to a hold (R106). -/

namespace Sys2Proof.Machine

open Sys2Proof

/-- R149: the count after a hold operation, from the previous value. -/
def HoldOp.apply : HoldOp → Nat → Nat
  | .take, c => if c < 255 then c + 1 else 255
  | .drop, c => c - 1
  | .takeIfFree, c => if c = 0 then 1 else c
  | .takeIfHeld, c => if 1 ≤ c ∧ c < 255 then c + 1 else c
  | .forceClear, _ => 0
  | .forceFull, _ => 255
  | .peek, c => c

/-- R106: the sequencer's answer to its hold count becoming nonzero. -/
def State.holdTaken (s : State) (lv : Leave) (f : Feeder) : State :=
  match (s.seq.get f).state with
  | .standby => s.enterReady f
  | .arming | .injecting => s.release lv f .held
  | .offline | .held | .releasing | .faulted => s

/-- R106: the sequencer's answer to its hold count becoming 0. -/
def State.holdFreed (s : State) (f : Feeder) : State :=
  if (s.seq.get f).state = .held then s.enterReady f else s

/-- R149, R150: one hold operation on a feeder's count; a change between zero and nonzero is handed to the sequencer in
the same event. -/
def State.hold (s : State) (lv : Leave) (f : Feeder) (op : HoldOp) : State :=
  let c := s.holds.get f
  let c' := op.apply c
  let s := { s with holds := s.holds.set f c' }
  if c = 0 ∧ c' ≠ 0 then s.holdTaken lv f
  else if c ≠ 0 ∧ c' = 0 then s.holdFreed f
  else s

/-- R147: every count set from START_HELD. -/
def State.setHoldsFromStart (s : State) : State :=
  { s with holds := Six.of fun f => if (s.feeders.get f).startHeld then 1 else 0 }

end Sys2Proof.Machine
end

