-- ==== Sys2Proof/Machine/Expiries.lean ====
section
/-! DEFINITION. The expiries of the sequence timers as commands of their own: ARM_TIMEOUT, BYPASS_TIMER_EXPIRY,
HANDOVER_EXPIRY and STOP_TIMER_EXPIRY. Each takes an expiry that a sample set has brought about and that its orders left
apart; where none of the kind is due the step does not arise (notes/assumptions/2.md, 5.md). -/

namespace Sys2Proof.Machine

open Sys2Proof

/-- ARM_TIMEOUT (R98). -/
def execArmTimeout (f : Feeder) (lv : Leave) (s : State) : Host.Outcome State Fault Refusal :=
  .next (if s.expiryDue f .arm then s.asEvent lv.choice fun s => s.armExpiry lv f else s)

/-- BYPASS_TIMER_EXPIRY (R99, R103). -/
def execBypassTimerExpiry (f : Feeder) (lv : Leave) (s : State) : Host.Outcome State Fault Refusal :=
  .next (if s.expiryDue f .bypass then s.asEvent lv.choice fun s => s.bypassExpiry lv f else s)

/-- HANDOVER_EXPIRY (R103, R109). -/
def execHandoverExpiry (f : Feeder) (s : State) : Host.Outcome State Fault Refusal :=
  .next (if s.expiryDue f .handover then s.handoverExpiry f else s)

/-- STOP_TIMER_EXPIRY (R104, R109). -/
def execStopTimerExpiry (f : Leaving Feeder) (s : State) : Host.Outcome State Fault Refusal :=
  .next (if s.expiryDue f.value .stop then s.asEvent f.leave.choice fun s => s.stopExpiry .nothing f.value else s)

end Sys2Proof.Machine
end

