-- ==== Sys2Proof/Machine/Magnitude.lean ====
section
/-! DEFINITION. The magnitude unit (section 1.5) and the reference generator (chapter 3). -/

namespace Sys2Proof.Machine

open Sys2Proof

/-! ## Bus magnitudes (R14, R15) -/

/-- R14: a sample enters a sliding window of at most 48. -/
def Window.push (w : Window) (x : Int) : Window :=
  match w.samples with
  | old :: rest =>
    if 48 ≤ w.samples.length then ⟨rest ++ [x], w.sum - square old + square x⟩
    else ⟨w.samples ++ [x], w.sum + square x⟩
  | [] => ⟨[x], w.sum + square x⟩

/-- R15 steps 1 to 4: the per-mille magnitude of a sum of n squares, for NOMINAL_PEAK a. -/
def perMille (a sum n : Nat) : Nat := min ((floorSqrt (sum / n) * 1414 + a / 2) / a) 1999

/-- R14 to R16: the windows take the bus samples, and the magnitudes are formed when the windows are full. -/
def Magnitude.takeBus (m : Magnitude) (a : Nat) (bus : Tri Int) : Magnitude :=
  let w := Tri.of fun p => (m.windows.get p).push (bus.get p)
  let full := Phase.list.all fun p => (w.get p).samples.length == 48
  { m with windows := w, mags := if full then some (Tri.of fun p => perMille a (w.get p).sum 48) else none }

/-! ## Delivered magnitudes (R17, R18) -/

/-- R17: the output samples of every feeder, bus plus the reference in force, join the half-cycle sums. -/
def Magnitude.takeOutputs (m : Magnitude) (bus : Tri Int) (refs : Feeder → Tri Int) : Magnitude :=
  { m with sums := Six.of fun f => Tri.of fun p =>
      (m.sums.get f).get p + square (bus.get p + (refs f).get p) }

/-- R18: the least of a feeder's three per-mille values over a half-cycle of n samples. -/
def deliveredOf (a n : Nat) (sums : Tri Nat) : Nat :=
  min (perMille a sums.a n) (min (perMille a sums.b n) (perMille a sums.c n))

/-- R18: at a boundary of length n every feeder's half-cycle closes into D_f and the sums restart at zero. -/
def Magnitude.close (m : Magnitude) (a n : Nat) : Magnitude :=
  { m with delivered := some (Six.of fun f => deliveredOf a n (m.sums.get f)), sums := Six.all (Tri.all 0) }

/-! ## The reference generator (chapter 3) -/

/-- R57, R17: the references in force for a feeder: those of the record its port sent last, 0 when no record is in
force. -/
def State.refsInForce (s : State) (f : Feeder) : Tri Int :=
  match (s.port.get f).sent with
  | some _ => (s.gen.get f).refs
  | none => Tri.all 0

/-- R58, R59: a sample set taken, with the record in force: a clamped record counts, and one formed in INJECTING adds
its draw. -/
def Generator.takeSample (g : Generator) (inForce : Bool) (load : Tri Int) : Generator :=
  if inForce then
    { g with
      satCount := if g.clamped then g.satCount + 1 else g.satCount
      draw := if g.tag = .injecting then
          g.draw + (g.refs.a * load.a + g.refs.b * load.b + g.refs.c * load.c)
        else g.draw }
  else g

/-- R61 step 1: energy in joules; a negative accumulator counts as 0. -/
def joulesOf (draw : Int) (scale : Nat) : Nat := draw.toNat * scale / 16777216

/-- R61 step 2: drawn quanta, at most 65535. -/
def quantaOf (w quantum : Nat) : Nat := min (ceilDiv w quantum) 65535

/-- R58, R61: at a boundary the accumulator and the saturated-sample count close and restart. -/
def Generator.close (g : Generator) (scale quantum : Nat) : Generator :=
  let w := joulesOf g.draw scale
  { g with draw := 0, satCount := 0, closedW := w, closedQ := quantaOf w quantum, closedSat := g.satCount }

/-- R51, R52: the target of a phase. An invalid m_p is taken as 0. -/
def State.target (s : State) (f : Feeder) (p : Phase) : Nat :=
  match (s.seq.get f).mode with
  | some .floor =>
    let m := match s.magnitude.mags with
      | some m => m.get p
      | none => 0
    min s.inForce.globals.targetFull (max (s.floorNow f) m)
  | some .full | none => s.inForce.globals.targetFull

/-- R53 steps 1 and 2: the raw difference of a phase from the bus sample of the instant. -/
def State.rawReference (s : State) (f : Feeder) (bus : Tri Int) (p : Phase) : Int :=
  roundDiv (template s.inForce.globals.nominalPeak s.tracker.index p * (s.target f p : Int)) 1000 - bus.get p

/-- R53 step 3: the live reference of a phase, clamped to ±L_eff. -/
def State.liveReference (s : State) (f : Feeder) (bus : Tri Int) (p : Phase) : Int :=
  clampInt (-(s.effectiveLimit f : Int)) (s.effectiveLimit f) (s.rawReference f bus p)

/-- R55: the clamp changed the value of at least one phase. -/
def State.liveClamped (s : State) (f : Feeder) (bus : Tri Int) : Bool :=
  Phase.list.any fun p => s.liveReference f bus p != s.rawReference f bus p

/-- R94: the command field of a reference record. R126 has a LOST port send STOP or IDLE, while R94 and R109 have a feeder
FAULTED in CLOSING or HANDING_OVER send RUN with CLOSE: the model follows R94 (notes/assumptions/31.md). -/
def Sequencer.command (q : Sequencer) : Command :=
  match q.state, q.phase with
  | .arming, _ => .start
  | .injecting, _ => .run
  | .releasing, some .closing | .releasing, some .handingOver | .faulted, some .closing
  | .faulted, some .handingOver => .run
  | .releasing, some .stopping | .faulted, some .stopping => .stop
  | _, _ => .idle

/-- R94, R118: the bypass field; OPEN for INJECTING alone. -/
def Sequencer.bypassCommand (q : Sequencer) : BypassCommand :=
  if q.state = .injecting then .open else .close

/-- R47: the record state tag. -/
def Sequencer.recordTag (q : Sequencer) : RecordTag :=
  match q.state with
  | .arming => .arming
  | .injecting => .injecting
  | .offline | .standby | .held | .releasing | .faulted => .other

/-- R48, R49: the references of the record a feeder's port assembles now. -/
def State.formReferences (s : State) (f : Feeder) (bus : Tri Int) : Tri Int :=
  if s.participant f then Tri.of (s.liveReference f bus) else Tri.all 0

/-- R50, R118: the port assembles and sends its record from the state as it stands, and the generator keeps it. -/
def State.sendRecord (s : State) (f : Feeder) (bus : Tri Int) : State :=
  let q := s.seq.get f
  let refs := s.formReferences f bus
  let clamped := s.participant f && s.liveClamped f bus
  (s.setGen f { s.gen.get f with refs := refs, tag := q.recordTag, clamped := clamped }).setPort f
    { s.port.get f with sent := some ⟨q.command, q.bypassCommand, refs⟩ }

/-- R117: a record is assembled and sent in WAITING, UP and LOST, and not in QUIET. A port that sends none at this instant
has none in force at the next (R17, R57, R59, notes/assumptions/21.md). -/
def State.sendIfSending (s : State) (f : Feeder) (bus : Tri Int) : State :=
  if (s.port.get f).state.sends then s.sendRecord f bus else s.setPort f { s.port.get f with sent := none }

end Sys2Proof.Machine
end

