-- ==== Sys2Proof/Machine/Arbiter.lean ====
section
/-! DEFINITION. The allocation arbiter (chapter 4, sections 4.2 to 4.7). -/

namespace Sys2Proof.Machine

open Sys2Proof

/-! ## Needs (R77, R78) -/

/-- R78: the floor need fl of a full forecast F, at V_ret v, for a class floor and TARGET_FULL. -/
def floorNeed (full floor v target : Nat) : Nat :=
  if floor ≤ v then 0
  else if v < target then min (ceilDiv (full * (floor - v)) (target - v)) full
  else full

/-- R77: the full forecast of a feeder, and whether it was measured; `boundary` is false at an onset point. -/
def State.fullForecast (s : State) (boundary : Bool) (f : Feeder) : Nat × Bool :=
  if boundary && (s.seq.get f).state == .injecting && s.arbiter.flags.get f then
    (max (s.gen.get f).closedQ 1, true)
  else ((s.feeders.get f).onsetForecast, false)

/-- R77, R78: the forecast and needs of a feeder that enters a unit. V_ret is valid at every allocation point (R73); an
invalid one counts as 0 (notes/assumptions/19.md). -/
def State.forecast (s : State) (boundary : Bool) (f : Feeder) : Forecast :=
  let (full, measured) := s.fullForecast boundary f
  ⟨f, full, measured, floorNeed full (s.floorNow f) (s.vret.getD 0) s.inForce.globals.targetFull⟩

/-! ## Candidates and units (R75, R80, R81) -/

/-- Whether an allocation point is a boundary (R73). -/
def PointKind.isBoundary : PointKind → Bool
  | .boundary _ => true
  | .onset _ => false

/-- R75: an available feeder is a candidate at a FAST or EXTERNAL onset, and at an RMS onset or a boundary when its
class immunity is above V_ret. -/
def State.candidate (s : State) (k : PointKind) (f : Feeder) : Bool :=
  s.available f &&
    match k with
    | .onset .fast | .onset .external => true
    | .onset .rms | .boundary _ => below s.vret (s.immunity f)

/-- A unit before the division: its group, level, kind and members with their forecasts (R80, R81). -/
structure Claim where
  group : Option GroupNo
  level : Nat
  candidate : Bool
  members : List Forecast
  deriving DecidableEq, Repr

/-- R81: the full need, the sum of F over the engaged feeders. -/
def Claim.fullNeed (c : Claim) : Nat := (c.members.map (·.full)).sum

/-- R81: the floor need, the sum of fl over the engaged feeders. -/
def Claim.floorNeed (c : Claim) : Nat := (c.members.map (·.floor)).sum

/-- R81: the lowest feeder number among the engaged feeders (they stand in ascending number). -/
def Claim.lowest (c : Claim) : Nat :=
  match c.members with
  | m :: _ => m.feeder.number
  | [] => 7

/-- R81: the unit order: by level, then by lowest feeder number. -/
def Claim.before (a b : Claim) : Bool := a.level < b.level || (a.level == b.level && a.lowest ≤ b.lowest)

/-- One claim put in its place in the unit order. -/
def insertClaim (c : Claim) : List Claim → List Claim
  | [] => [c]
  | d :: rest => if c.before d then c :: d :: rest else d :: insertClaim c rest

/-- R81: the claims in unit order. -/
def orderClaims (l : List Claim) : List Claim := l.foldr insertClaim []

/-- R80: a group stands by under REQUIRE_ALL when some member is not available. -/
def State.standsBy (s : State) (g : GroupNo) : Bool :=
  (s.groups.get g).requireAll && (s.groups.get g).members.members.any fun f => !s.available f

/-- R80: the unit of an ungrouped feeder, if it is a candidate or a participant. -/
def State.feederClaim (s : State) (k : PointKind) (f : Feeder) : List Claim :=
  match s.groupOf f with
  | some _ => []
  | none =>
    if s.candidate k f then [⟨none, (s.bankEntry f).level, true, [s.forecast k.isBoundary f]⟩]
    else if s.participant f then [⟨none, (s.bankEntry f).level, false, [s.forecast k.isBoundary f]⟩]
    else []

/-- R80: the unit of a group, read in the state it held when the point began. A group in ENGAGING or ACTIVE none of whose
engaged members is a participant (the last has departed and its refusal is not yet taken) forms no unit: the model's choice,
since a unit of no feeder needs nothing and gives nothing (notes/assumptions/32.md). -/
def State.groupClaim (s : State) (k : PointKind) (began : Four Group) (released : GroupNo → Bool) (g : GroupNo) :
    List Claim :=
  let r := s.groups.get g
  match (began.get g).state with
  | .idle =>
    if (r.members.members.any fun f => s.candidate k f) && !s.standsBy g then
      [⟨some g, r.level, true, (r.members.members.filter s.available).map (s.forecast k.isBoundary)⟩]
    else []
  | .engaging | .active =>
    let parts := r.engaged.members.filter s.participant
    if released g || parts.isEmpty then []
    else [⟨some g, r.level, false, parts.map (s.forecast k.isBoundary)⟩]
  | .abandoned => []

/-- R80, R81: the units of an allocation point, in unit order. -/
def State.claims (s : State) (k : PointKind) (began : Four Group) (released : GroupNo → Bool) : List Claim :=
  orderClaims (Feeder.list.flatMap (s.feederClaim k) ++ GroupNo.list.flatMap (s.groupClaim k began released))

/-! ## Dividing the store (R82 to R84) -/

/-- What the arbiter keeps while it divides: the remaining quanta and those granted to level-0 units (R82). -/
structure Purse where
  remaining : Nat
  levelZero : Nat
  deriving DecidableEq, Repr

/-- R82: the effective reserve. -/
def Purse.effectiveReserve (p : Purse) (reserve : Nat) : Nat := reserve - p.levelZero

/-- R82: the usable quanta of a unit of a level. -/
def Purse.usable (p : Purse) (reserve level : Nat) : Nat :=
  if level = 0 then p.remaining else p.remaining - p.effectiveReserve reserve

/-- R82: a need taken. -/
def Purse.take (p : Purse) (level need : Nat) : Purse :=
  ⟨p.remaining - need, if level = 0 then p.levelZero + need else p.levelZero⟩

/-- R83 step 1: the floor pass. -/
def floorPass (reserve : Nat) : Purse → List Claim → Purse × List (Claim × Grant)
  | p, [] => (p, [])
  | p, c :: rest =>
    if c.floorNeed ≤ p.usable reserve c.level then
      let (p', l) := floorPass reserve (p.take c.level c.floorNeed) rest
      (p', (c, .floor) :: l)
    else
      let (p', l) := floorPass reserve p rest
      (p', (c, .none) :: l)

/-- R83 step 2: the upgrade pass over the units granted FLOOR. -/
def upgradePass (reserve : Nat) : Purse → List (Claim × Grant) → List (Claim × Grant)
  | _, [] => []
  | p, (c, .floor) :: rest =>
    if c.fullNeed - c.floorNeed ≤ p.usable reserve c.level then
      (c, .full) :: upgradePass reserve (p.take c.level (c.fullNeed - c.floorNeed)) rest
    else (c, .floor) :: upgradePass reserve p rest
  | p, x :: rest => x :: upgradePass reserve p rest

/-- R83: FLOOR_FIRST. -/
def floorFirst (reserve available : Nat) (l : List Claim) : List (Claim × Grant) :=
  let (p, g) := floorPass reserve ⟨available, 0⟩ l
  upgradePass reserve p g

/-- R84: PRIORITY_FULL, one pass. -/
def priorityPass (reserve : Nat) : Purse → List Claim → List (Claim × Grant)
  | _, [] => []
  | p, c :: rest =>
    if c.fullNeed ≤ p.usable reserve c.level then
      (c, .full) :: priorityPass reserve (p.take c.level c.fullNeed) rest
    else if c.floorNeed ≤ p.usable reserve c.level then
      (c, .floor) :: priorityPass reserve (p.take c.level c.floorNeed) rest
    else (c, .none) :: priorityPass reserve p rest

/-- R83, R84: the division of the available quanta by the policy in force. -/
def divide (policy : Policy) (reserve available : Nat) (l : List Claim) : List (Claim × Grant) :=
  match policy with
  | .floorFirst => floorFirst reserve available l
  | .priorityFull => priorityPass reserve ⟨available, 0⟩ l

/-- R85: the granted quanta of a unit. -/
def Claim.granted (c : Claim) : Grant → Nat
  | .full => c.fullNeed
  | .floor => c.floorNeed
  | .none => 0

/-- R85: a grant list entry. -/
def Claim.entry (c : Claim) (g : Grant) : UnitGrant :=
  ⟨c.group, c.level, c.candidate, c.members, c.fullNeed, c.floorNeed, g, c.granted g⟩

/-- The mode of a grant (R86, R87). -/
def Grant.mode : Grant → Option Mode
  | .full => some .full
  | .floor => some .floor
  | .none => Option.none

/-! ## Budgets (R85, R89) -/

/-- R85: the budget of a feeder of a unit granted FULL or FLOOR. -/
def Forecast.budget (m : Forecast) : Grant → Option Budget
  | .full => some ⟨m.full, m.floor, m.full, m.measured⟩
  | .floor => some ⟨m.full, m.floor, m.floor, m.measured⟩
  | .none => Option.none

/-- R85: the budgets of a grant list. -/
def budgetsOf (units : List UnitGrant) : Six (Option Budget) :=
  Six.of fun f => units.findSome? fun u => (u.members.find? fun m => m.feeder = f).bind fun m => m.budget u.grant

/-- R89: an overdraw: a measured forecast, and drawn quanta above the share. -/
def Budget.overdrawn (b : Budget) (q : Nat) : Bool := b.measured && b.share < q

/-- R89, R41: at a boundary of the open event the budgets are closed, each overdraw delivered to the record, and spent. -/
def State.closeBudgets (s : State) : State :=
  let s := forFeeders (fun f s =>
    match s.arbiter.budgets.get f with
    | some b =>
      if b.overdrawn (s.gen.get f).closedQ then s.updateEntry f fun e => { e with overdraw := e.overdraw + 1 } else s
    | none => s) s
  { s with arbiter := { s.arbiter with budgets := Six.all none } }

/-! ## Releases of participants no longer needed (R74) -/

/-- R74: V_ret at or above the feeder's class immunity. -/
def State.notNeeded (s : State) (f : Feeder) : Bool := atOrAbove s.vret (s.immunity f)

/-- R74: the participants of an engaged group that are to be released together; none where it has none
(notes/assumptions/32.md). -/
def State.groupReleased (s : State) (g : GroupNo) : Bool :=
  let r := s.groups.get g
  let parts := r.engaged.members.filter s.participant
  (r.state == .engaging || r.state == .active) && !parts.isEmpty && parts.all s.notNeeded

/-- R74: a group's participants released together. The group table is told by `tellNotNeeded`, which a refusal may come
before or after (R138, notes/assumptions/16.md). -/
def State.releaseGroup (s : State) (g : GroupNo) : State :=
  let parts := (s.groups.get g).engaged.members.filter s.participant
  parts.foldl (fun s f => s.release .nothing f .notNeeded) s

/-- R74: an ungrouped participant released. -/
def State.releaseUngrouped (s : State) (f : Feeder) : State :=
  if (s.groupOf f).isNone && s.participant f && s.notNeeded f then s.release .nothing f .notNeeded else s

/-- R74: the releases of a boundary allocation point; `which` are the groups released together. -/
def State.releaseNotNeeded (s : State) (which : GroupNo → Bool) : State :=
  forGroups (fun g s => if which g then s.releaseGroup g else s) (forFeeders (fun f s => s.releaseUngrouped f) s)

/-- R74, R143: the group table told of the groups released together. -/
def State.tellNotNeeded (s : State) (which : GroupNo → Bool) : State :=
  forGroups (fun g s => if which g then s.groupNotNeeded g else s) s

/-! ## Facts delivered to the record (R40, R76) -/

/-- R76: the unit of this point that a feeder is a member of. -/
def unitOf (units : List UnitGrant) (f : Feeder) : Option UnitGrant :=
  units.find? fun u => u.members.any fun m => m.feeder = f

/-- R76: the stood-by reason of a feeder, the rows of the rule's table in order; none where the table has no row for it
(a participant, a feeder granted as a candidate). -/
def State.stoodBy (s : State) (k : PointKind) (began : Four Group) (units : List UnitGrant) (f : Feeder) :
    Option StoodBy :=
  let q := s.seq.get f
  match q.state with
  | .held => some .held
  | .faulted => some .faulted
  | .releasing => some .barred
  | .offline | .arming | .injecting => none
  | .standby =>
    if (s.port.get f).state ≠ .up then some .faulted
    else if q.barred then some .barred
    else
      match unitOf units f with
      | some u => if u.grant = .none then some .starvedAtEntry else none
      | none =>
        match s.groupOf f with
        | none => some .notNeeded
        | some g =>
          if (began.get g).state = .idle then
            (if s.candidate k f then some .groupIncomplete else some .notNeeded)
          else some .groupIncomplete

/-- R40: a stood-by fact written into an entry still STOOD_BY. -/
def Entry.standBy (e : Entry) (r : StoodBy) : Entry := if e.engaged then e else { e with reason := some r }

/-- R40: the engaged fact with the granted mode. -/
def Entry.engage (e : Entry) (m : Mode) : Entry :=
  if e.engaged then e
  else { e with engaged := true, firstMode := some m, lastMode := some m, reason := none }

/-- R76: the stood-by facts of an allocation point, settled from the feeders as `s` shows them and written into the
record. -/
def State.deliverStoodBy (s : State) (k : PointKind) (began : Four Group) (units : List UnitGrant) : State :=
  forFeeders (fun f s' =>
    match s.stoodBy k began units f with
    | some r => s'.updateEntry f fun e => e.standBy r
    | none => s') s

/-! ## Delivering the grants (R86, R87) -/

/-- The feeders of a unit, in ascending number. -/
def UnitGrant.feeders (u : UnitGrant) : List Feeder := u.members.map (·.feeder)

/-- The feeder set of a unit. -/
def UnitGrant.feederSet (u : UnitGrant) : FeederSet := Six.of fun f => u.feeders.contains f

/-- R86: a candidate unit granted a mode. -/
def State.deliverCandidate (s : State) (u : UnitGrant) (m : Mode) : State :=
  let s := u.feeders.foldl (fun s f => (s.candidateGrant f m).updateEntry f fun e => e.engage m) s
  match u.group with
  | some g => s.engageGroup g u.feederSet
  | none => s

/-- R87: a participant unit granted NONE: for a group the group table is told first, then every member is released. -/
def State.deliverStarved (s : State) (u : UnitGrant) : State :=
  let s := match u.group with
    | some g => s.starveGroup g
    | none => s
  u.feeders.foldl (fun s f => s.release .nothing f .starved) s

/-- R86, R87: one unit's grant delivered. A candidate unit granted NONE changes nothing here. -/
def State.deliverUnit (s : State) (u : UnitGrant) : State :=
  match u.candidate, u.grant.mode with
  | true, some m => s.deliverCandidate u m
  | true, none => s
  | false, some m => u.feeders.foldl (fun s f => s.participantGrant f m) s
  | false, none => s.deliverStarved u

/-! ## The allocation point (R73) -/

/-- R85, R91: the grant list, the summary and the budgets of an allocation point. -/
def State.keepGrants (s : State) (k : PointKind) (units : List UnitGrant) : State :=
  let granted := (units.map (·.quanta)).sum
  { s with arbiter := { s.arbiter with
      summary := some ⟨s.openNumber.getD 0, k, s.vret, s.store.quanta, s.globals.allocPolicy, s.globals.reserve,
        granted, s.store.quanta - granted, units⟩
      budgets := budgetsOf units } }

/-- R73, R77: the boundary injecting flags: cleared at an onset, at a boundary set for the feeders found INJECTING. -/
def State.setFlags (s : State) (k : PointKind) : State :=
  { s with arbiter := { s.arbiter with
      flags := Six.of fun f => k.isBoundary && (s.seq.get f).state == .injecting } }

/-- The grant list of an allocation point, from the state after the releases of R74. -/
def State.grantList (s : State) (k : PointKind) (began : Four Group) (released : GroupNo → Bool) : List UnitGrant :=
  (divide s.globals.allocPolicy s.globals.reserve s.store.quanta (s.claims k began released)).map fun x => x.1.entry x.2

/-- R73: an allocation point, as one event: releases (at a boundary), candidates, forecasts, units, division, delivery.
The budgets of a boundary have been closed before (R89). `between` is what the group table takes once the store is divided
and before the notices, of releases as of grants, and the grants reach it (R138, R142); no feeder takes an event there
(R73, R88). -/
def State.allocate (s : State) (k : PointKind) (between : State → State) : State :=
  let began := s.groups
  let released := fun g => k.isBoundary && s.groupReleased g
  let s := if k.isBoundary then s.releaseNotNeeded released else s
  let units := s.grantList k began released
  let s := between (((s.deliverStoodBy k began units).setFlags k).keepGrants k units)
  units.foldl (fun s u => s.deliverUnit u) (s.tellNotNeeded released)

end Sys2Proof.Machine
end

