-- ==== Sys2Proof/Machine/StoreMonitor.lean ====
section
/-! DEFINITION. The store monitor (section 4.1). -/

namespace Sys2Proof.Machine

open Sys2Proof

/-- R66: available energy in joules at store voltage v. -/
def Globals.energyAt (g : Globals) (v : Nat) : Nat :=
  g.storeCapacitance * (v * v - g.storeFloor * g.storeFloor) / 2000

/-- R66: available quanta at store voltage v. -/
def Globals.quantaAt (g : Globals) (v : Nat) : Nat := min (g.energyAt v / g.quantum) 65535

/-- R66: V, E and Q_avail formed from a sample set; E is 0 when V is at or below STORE_FLOOR. -/
def State.measureStore (s : State) (v : Nat) : State :=
  { s with store := { s.store with
      volts := some v, energy := s.inForce.globals.energyAt v, quanta := s.inForce.globals.quantaAt v } }

/-- R68: the report of a change of the warning. -/
def warningReport (before after : Bool) : Option StoreCause :=
  if before = after then none else if after then some .warningSet else some .warningClear

/-- R69: the report of a change of the over-voltage state. -/
def overReport (before after : Bool) : Option StoreCause :=
  if before = after then none else if after then some .overvoltageSet else some .overvoltageClear

/-- R72: one STORE report, with V, Q_avail and charger enable as at this instant. -/
def State.postStore (s : State) (c : Option StoreCause) : State :=
  match c with
  | some c => s.post (.store c s.store.volts s.store.quanta s.store.charger)
  | none => s

/-- R68 to R70, R72: warning, over-voltage and charger enable of a sample set with store voltage v, and the reports of
their changes, the warning's first. -/
def State.updateStore (s : State) (v : Nat) : State :=
  let warning := s.inForce.globals.warningNext s.store.warning v
  let ov := s.inForce.globals.overNext s.store.overVoltage v
  let s' := { s with store := { s.store with
      warning := warning, overVoltage := ov, charger := s.chargerNext v ov } }
  (s'.postStore (warningReport s.store.warning warning)).postStore (overReport s.store.overVoltage ov)

/-- R71: at a boundary the recharge delay decreases by 1 if it is above 0. -/
def State.countRecharge (s : State) : State := { s with store := { s.store with delay := s.store.delay - 1 } }

/-- R71: the end notice loads the recharge delay, whatever it holds. -/
def State.loadRecharge (s : State) : State := { s with store := { s.store with delay := s.globals.rechargeDelay } }

end Sys2Proof.Machine
end

