-- ==== Sys2Proof/Machine/Tracker.lean ====
section
/-! DEFINITION. The line tracker and its half-cycle boundaries (sections 1.3 and 1.4), and the fast comparator (section
1.6). -/

namespace Sys2Proof.Machine

open Sys2Proof

/-! ## The tracker's own handling of a sample set -/

/-- R6: the candidate index, the index of the previous instant plus 1, modulo 96. -/
def Tracker.candidate (t : Tracker) : Nat := (t.index + 1) % 96

/-- R6: a positive-going crossing of phase A. -/
def Tracker.crossing (t : Tracker) (busA : Int) : Bool :=
  match t.prevA with
  | some p => p < 0 && 0 ≤ busA
  | none => false

/-- R6: what every sample set does before the state rule: the candidate index, the spacing counts (R13 for the boundary
spacing) and the stored phase A sample. -/
def Tracker.advance (t : Tracker) (busA : Int) : Tracker :=
  { t with index := t.candidate, prevA := some busA, spacing := min (t.spacing + 1) 255,
           boundarySpacing := min (t.boundarySpacing + 1) 255 }

/-- R8: the resynchronisation window, candidate index 93, 94, 95, 0, 1, 2 or 3. -/
def inWindow (k : Nat) : Bool := 93 ≤ k || k ≤ 3

/-- What the state rule made of a sample set, as a TRACKER report would name it. -/
def Tracker.outcome (t : Tracker) (busA : Int) : Option TrackerCause :=
  let a := t.advance busA
  match t.state with
  | .seeking =>
    if t.crossing busA && t.remembered && 93 ≤ a.spacing && a.spacing ≤ 99 then some .lockedOn else none
  | .locked =>
    if t.crossing busA then
      (if inWindow a.index then none else if 1 ≤ t.miss then some .misses else none)
    else if 144 ≤ a.spacing then some .silence else none
  | .holding => none

/-- R7, R8, R9, R11: the tracker after a sample set, its own handling alone. -/
def Tracker.handle (t : Tracker) (busA : Int) : Tracker :=
  let a := t.advance busA
  match t.state with
  | .seeking =>
    if t.crossing busA then
      (if t.outcome busA = some .lockedOn then { a with state := .locked, index := 0, miss := 0, spacing := 0 }
       else { a with index := 0, spacing := 0, remembered := true })
    else a
  | .locked =>
    if t.crossing busA then
      (if inWindow a.index then { a with index := 0, miss := 0, spacing := 0 }
       else if 1 ≤ t.miss then { a with state := .seeking, index := 0, miss := 0, spacing := 0, remembered := true }
       else { a with miss := t.miss + 1, spacing := 0 })
    else if 144 ≤ a.spacing then { a with state := .seeking, miss := 0, remembered := false }
    else a
  | .holding => a

/-- R10: the answer to the onset's request for HOLDING. -/
def Tracker.requestHolding (t : Tracker) : Tracker :=
  match t.state with
  | .locked => { t with state := .holding }
  | .seeking | .holding => t

/-- R11: the answer to the end's request for LOCKED. -/
def Tracker.requestLocked (t : Tracker) : Tracker :=
  match t.state with
  | .holding => { t with state := .locked, miss := 0, spacing := 0 }
  | .seeking | .locked => t

/-! ## Boundaries (R13) -/

/-- R13: whether the instant is a half-cycle boundary, once its index is settled; its length n. -/
def Tracker.boundary (t : Tracker) : Option Nat :=
  if (t.index = 0 ∨ t.index = 48) ∧ (¬ t.boundaryDeclared ∨ 45 ≤ t.boundarySpacing) then some t.boundarySpacing
  else none

/-- R13: the boundary declared, its spacing count set to 0. -/
def Tracker.declare (t : Tracker) : Tracker :=
  match t.boundary with
  | some _ => { t with boundarySpacing := 0, boundaryDeclared := true }
  | none => t

/-! ## The fast comparator (R19, R20) -/

/-- R19: the threshold floor(A_nom·FAST_FRACTION/16). -/
def Globals.fastThreshold (g : Globals) : Nat := g.nominalPeak * g.fastFraction / 16

/-- R19: the deviation of a phase from its template at index k. -/
def deviation (g : Globals) (k : Nat) (p : Phase) (bus : Int) : Nat := (template g.nominalPeak k p - bus).natAbs

/-- R20: one phase's run counter after an instant at which the comparator works. -/
def runNext (g : Globals) (k : Nat) (bus : Tri Int) (run : Tri Nat) (p : Phase) : Nat :=
  if g.fastThreshold < deviation g k p (bus.get p) then min (run.get p + 1) 8 else 0

/-- R20: the comparator after a sample instant whose tracker state and index are given. -/
def Comparator.next (c : Comparator) (g : Globals) (st : TrackerState) (k : Nat) (bus : Tri Int) : Comparator :=
  let run := if st = .locked ∧ g.fastFraction ≠ 0 then Tri.of (runNext g k bus c.run) else Tri.all 0
  ⟨run, Tri.of fun p => decide (g.fastConfirm ≤ run.get p)⟩

/-- R20: a trip is signalled, naming some phase. -/
def Comparator.trips (c : Comparator) : Bool := Phase.list.any fun p => c.trip.get p

end Sys2Proof.Machine
end

