-- ==== Sys2Proof/Machine/Detector.lean ====
section
/-! DEFINITION. The sag detector (chapter 2): onset, the level test, the boundary step, the end of an event, and the
record table. -/

namespace Sys2Proof.Machine

open Sys2Proof

/-- The tracker's state changed, with the TRACKER report of R12. -/
def State.trackerTo (s : State) (t : Tracker) (c : TrackerCause) : State :=
  { s with tracker := t }.post (.tracker t.state c)

/-! ## Onset (R22, R23, R37, R39) -/

/-- R39: an outcome entry as it starts. -/
def Entry.start (f : Feeder) : Entry := ⟨f, false, none, none, none, 0, 0, 0, 0, none, .heldUp⟩

/-- R39: the outcome list: every feeder other than OFFLINE, in ascending number. -/
def State.outcomeList (s : State) : List Entry :=
  (Feeder.list.filter fun f => (s.seq.get f).state != .offline).map Entry.start

/-- R23: the next event number after one has been issued; after 65535 it is 1. -/
def nextEventNumber (n : Nat) : Nat := if n = 65535 then 1 else n + 1

/-- R23 step 4: compensability, from the operating state and whether the tracker has entered HOLDING. -/
def compensability (op : OpState) (entered : Bool) : Compensability :=
  match op with
  | .running => if entered then .compensable else .trackerNotLocked
  | .configuring | .loading => .notRunning

/-- R37: the record fields at onset. -/
def State.newRecord (s : State) (c : OnsetCause) (k : Compensability) : Record where
  number := s.detector.nextNumber
  cause := c
  comp := k
  onset := s.reading
  minimum := s.reading
  duration := 0
  endCause := none
  storeOnset := s.store.volts.getD 0
  storeMin := s.store.volts.getD 0
  quantaOnset := s.store.quanta
  total := 0
  entries := s.outcomeList

/-- R46: the EVENT_ONSET report of a record. -/
def Record.onsetReport (r : Record) : Report := .eventOnset r.number r.cause r.comp r.onset r.entries.length

/-- R23 steps 1, 2, 5, 7: the event opened with its compensability settled. -/
def State.openRecord (s : State) (c : OnsetCause) (k : Compensability) : State :=
  let r := s.newRecord c k
  { s with detector := { s.detector with
      state := .active, t := 0, dwell := 0, record := some r,
      nextNumber := nextEventNumber s.detector.nextNumber } }.post r.onsetReport

/-- R23: an onset. Its request for HOLDING meets the tracker as the sample set left it, or has been taken before the
sample set: by a LOCKED tracker, which the sample set then found in HOLDING, or by one in SEEKING, which ignored it
(`heard` false; R10). Step 6: the onset of a compensable event is an allocation point. -/
def State.onset (s : State) (c : OnsetCause) (heard : Bool) (between : State → State) : State :=
  let k := compensability s.loader.op (heard && s.tracker.state != .seeking)
  let s := if heard ∧ s.tracker.state = .locked then s.trackerTo s.tracker.requestHolding .eventOnset else s
  let s := s.openRecord c k
  if k = .compensable then s.allocate (.onset c) between else s

/-- R22: the cause of the onset taken at an instant in CLEAR, the first present in the order FAST, RMS, EXTERNAL. -/
def State.onsetCause (s : State) (trip external : Bool) : Option OnsetCause :=
  if trip then some .fast
  else if below s.vret s.inForce.globals.onsetLevel then some .rms
  else if external then some .external
  else none

/-- R22, R158: an external trigger that reaches the detector after its handling of the instant's sample set. -/
def State.externalTrigger (s : State) : State :=
  if s.detector.state = .clear ∧ ¬ s.detector.clearedNow then s.onset .external true id else s

/-! ## Facts of a boundary (R41, R62, R100) -/

/-- R41: the facts of the half-cycle just closed, for one entry. -/
def Entry.addFacts (e : Entry) (injected : Bool) (g : Generator) : Entry :=
  { e with injected := e.injected + (if injected then 1 else 0), quanta := e.quanta + g.closedQ,
           saturated := e.saturated + (if 1 ≤ g.closedSat then 1 else 0) }

/-- R41, R62, R100: at a boundary of the open event the facts are added to the entries and to the total. -/
def State.addFacts (s : State) : State :=
  match s.detector.record with
  | some r =>
    { s with detector := { s.detector with record := some { r with
        total := r.total + (r.entries.map fun e => (s.gen.get e.feeder).closedQ).sum
        entries := r.entries.map fun e => e.addFacts (s.seq.get e.feeder).injected (s.gen.get e.feeder) } } }
  | none => s

/-- R100: the injected flags cleared at a boundary. -/
def State.clearInjected (s : State) : State :=
  { s with seq := Six.of fun f => { s.seq.get f with injected := false } }

/-! ## The level test and the minima (R21, R25, R38) -/

/-- R38: a reading against the minimum held: a valid V_ret below it, or when none is held, replaces it. -/
def minReading (held new : Option Reading) : Option Reading :=
  match held, new with
  | some h, some n => if n.vret < h.vret then some n else some h
  | none, n => n
  | h, none => h

/-- R38: the minima of the open record. -/
def State.updateMinima (s : State) : State :=
  match s.detector.record with
  | some r =>
    { s with detector := { s.detector with record := some { r with
        minimum := minReading r.minimum s.reading
        storeMin := min r.storeMin (s.store.volts.getD r.storeMin) } } }
  | none => s

/-- R25: the level test of a sample in ACTIVE or DWELL. -/
def State.levelTest (s : State) : State :=
  match s.detector.state with
  | .active =>
    if atOrAbove s.vret s.inForce.globals.recoveryLevel then
      { s with detector := { s.detector with state := .dwell, dwell := 0 } }
    else s
  | .dwell =>
    if below s.vret s.inForce.globals.recoveryLevel then { s with detector := { s.detector with state := .active } } else s
  | .clear | .lockout => s

/-! ## The boundary step (R24, R43) -/

/-- R43: one entry's verdict at the present t. -/
def Entry.judge (e : Entry) (delivered : Option Nat) (floor t : Nat) : Entry :=
  match e.verdict, delivered with
  | .heldUp, some d => if d < floor then { e with verdict := .violated t } else e
  | _, _ => e

/-- R43: the verdicts of the outcome list, at the t in force before the boundary increases it. -/
def State.judge (s : State) : State :=
  match s.detector.record with
  | some r =>
    let verdict (e : Entry) : Entry :=
      e.judge (s.magnitude.delivered.map fun d => d.get e.feeder) (s.floorNow e.feeder) s.detector.t
    { s with detector := { s.detector with record := some { r with entries := r.entries.map verdict } } }
  | none => s

/-- R24 steps 1 to 3, after the facts and the closed budgets: verdicts, t, and in DWELL the boundary counted at a level
reached. -/
def State.countBoundary (s : State) : State :=
  let s := s.judge
  let counted := s.detector.state = .dwell && atOrAbove s.vret s.inForce.globals.recoveryLevel
  { s with detector := { s.detector with
      t := s.detector.t + 1, dwell := if counted then s.detector.dwell + 1 else s.detector.dwell } }

/-- R24 step 4, R25, R26: whether the event ends at this boundary, after `countBoundary`, and its cause. -/
def State.endCause (s : State) : Option EndCause :=
  if s.detector.state = .dwell ∧ s.inForce.globals.recoveryDwell ≤ s.detector.dwell then some .recovered
  else if s.detector.state.eventOpen ∧ s.detector.t = s.inForce.globals.eventLimit then some .limit
  else none

/-! ## The end of an event (R28, R44, R46) -/

/-- R44: a closing record joins the table, the oldest leaving when 16 are held. -/
def appendRecord (table : List Record) (r : Record) : List Record :=
  (if table.length < Config.recordCapacity then table else table.drop 1) ++ [r]

/-- R46: the EVENT_END report of a closed record. -/
def Record.endReport (r : Record) (e : EndCause) : Report :=
  .eventEnd r.number e r.duration r.minimum r.total (r.entries.countP fun x => x.verdict != .heldUp)

/-- R28: the open record closed with its end cause and duration, placed in the table, and reported. -/
def State.closeRecord (s : State) (e : EndCause) : State :=
  match s.detector.record with
  | some r =>
    let r := { r with endCause := some e, duration := s.detector.t }
    { s with detector := { s.detector with
        record := none, table := appendRecord s.detector.table r } }.post (r.endReport e)
  | none => s

/-- R25, R26: the detector leaves the event: into CLEAR or into LOCKOUT, the dwell count 0, t kept. -/
def State.leaveEvent (s : State) (e : EndCause) : State :=
  { s with detector := { s.detector with
      state := match e with
        | .recovered => .clear
        | .limit => .lockout
      dwell := 0
      clearedNow := match e with
        | .recovered => true
        | .limit => s.detector.clearedNow } }

/-- R28, R102: every sequencer clears its barred flag. -/
def State.clearBarred (s : State) : State :=
  { s with seq := Six.of fun f => { s.seq.get f with barred := false } }

/-- R90: every boundary injecting flag cleared at the end boundary. -/
def State.clearFlags (s : State) : State := { s with arbiter := { s.arbiter with flags := FeederSet.empty } }

/-- R11, R12: the end's request for LOCKED. -/
def State.endHolding (s : State) : State :=
  if s.tracker.state = .holding then s.trackerTo s.tracker.requestLocked .eventEnd else s

/-- R28: the end of an event. The detector has left the event when its notices go out (R102); the release causes reach the
record before it closes. -/
def State.endEvent (s : State) (e : EndCause) : State :=
  let s := s.leaveEvent e
  let s := forFeeders (fun f s => s.release .nothing f e.cause) s
  let s := forGroups (fun g s => s.groupEventEnd g e) s
  let s := (s.closeRecord e).endHolding
  s.loadRecharge.applyPendingBank.clearBarred.clearFlags

/-- R24: the boundary step of an open event: facts and budgets of the half-cycle, then steps 1 to 5. `stepped` is what
happens between the step's t and its releases and grants (R50), `between` as at an allocation point. -/
def State.boundaryStep (s : State) (stepped between : State → State) : State :=
  let s := stepped s.addFacts.closeBudgets.countBoundary
  match s.endCause with
  | some e => s.endEvent e
  | none =>
    if s.detector.record.map (·.comp) = some .compensable then s.allocate (.boundary s.detector.t) between else s

/-- R25, R26: the end cause of the event at the boundary step the detector would take in this state; none outside an
open event or a boundary. -/
def State.endAt (s : State) (boundary : Bool) : Option EndCause :=
  if s.eventOpen && boundary then s.updateMinima.levelTest.addFacts.closeBudgets.countBoundary.endCause else none

/-! ## LOCKOUT (R27) -/

/-- R27: the dwell count of a boundary in LOCKOUT. -/
def State.lockoutCount (s : State) : Nat :=
  if atOrAbove s.vret s.inForce.globals.recoveryLevel then s.detector.dwell + 1 else 0

/-- R27: whether a boundary in LOCKOUT returns the detector to CLEAR: the level reached, and the count at RECOVERY_DWELL. -/
def State.lockoutDone (s : State) : Bool :=
  atOrAbove s.vret s.inForce.globals.recoveryLevel && s.inForce.globals.recoveryDwell ≤ s.lockoutCount

/-- R27: a boundary in LOCKOUT. -/
def State.lockoutStep (s : State) : State :=
  if s.lockoutDone then
    { s with detector := { s.detector with state := .clear, dwell := 0, clearedNow := true } }
  else { s with detector := { s.detector with dwell := s.lockoutCount } }

end Sys2Proof.Machine
end

