-- ==== Sys2Proof/Machine/Service.lean ====
section
/-! DEFINITION. Request service (section 9.3): what becomes of a complete frame before its own rule is reached, and how a
reply is formed. -/

namespace Sys2Proof.Machine

open Sys2Proof

/-- A request's answer: its status, and the payload after the status byte (R189). -/
structure Answer where
  status : Status
  body : List Byte
  deriving DecidableEq, Repr

/-- An answer that carries its status and nothing after it (R189). -/
def Answer.bare (st : Status) : Answer := ⟨st, []⟩

/-- An OK answer. -/
def Answer.ok (body : List Byte) : Answer := ⟨.ok, body⟩

/-- A request answered with no effect on the part. -/
def State.answer (s : State) (a : Answer) : State × Option Answer := (s, some a)

/-- A request refused with a status, changing nothing (R168). -/
def State.refuseWith (s : State) (st : Status) : State × Option Answer := (s, some (Answer.bare st))

/-- R166, R167: a complete frame is discarded, answered BUSY, or served. -/
inductive Admission where
  | discard | busy | serve
  deriving DecidableEq, Repr

/-- R166: a request is in service whose reply has not yet been formed (R178 forms a Restart's at once). -/
def State.replyOwed (s : State) : Bool :=
  match s.link.service with
  | some (.imageRead ..) | some (.imageWrite ..) => true
  | some (.restart _) | none => false

/-- R166: no room in the reply queue, a place being kept for the reply of a request in service. -/
def State.noRoom (s : State) : Bool :=
  Config.replyCapacity ≤ s.link.replies.length || (s.replyOwed && Config.replyCapacity - 1 ≤ s.link.replies.length)

/-- R166, R167: the discard is tested before BUSY. -/
def State.admission (s : State) : Admission :=
  if s.noRoom then .discard
  else if s.loader.op = .loading ∨ s.link.service.isSome then .busy
  else .serve

/-- R167: a complete frame of a kind and tag, whose own rule is `rule`: its answer, or none when the request is taken into
service without a reply yet. Nothing is received while the part is held in reset (R180). -/
def State.serve (s : State) (kind tag : Byte) (rule : State → State × Option Answer) : State :=
  if s.inReset then s
  else
    match s.admission with
    | .discard => s
    | .busy => s.queueReply ⟨kind, tag, .busy, []⟩
    | .serve =>
      match rule s.openChoice with
      | (s', some a) => s'.queueReply ⟨kind, tag, a.status, a.body⟩
      | (s', none) => { s' with link := { s'.link with choiceOpen := s.link.choiceOpen } }

end Sys2Proof.Machine
end

