-- ==== Sys2Proof/Machine/Queries.lean ====
section
/-! DEFINITION. The requests that only read: Identify, Status Query, Feeder Query, Event Query and Event List, with their
reply layouts (section 11.3). -/

namespace Sys2Proof.Machine

open Sys2Proof

/-- R170: Identify. -/
def answerIdentify (s : State) : State × Option Answer :=
  s.answer (.ok (half Config.partCode ++
    [byteOf Config.revision, 6, byteOf s.loader.op.code, truth s.loader.imageFault, truth s.straps.linkRate,
      truth s.straps.imageSrc]))

/-- The identifier of a unit in the allocation summary (section 11.3). -/
def UnitGrant.ident (u : UnitGrant) : Nat :=
  match u.group, u.members with
  | some g, _ => 0x10 + g.number
  | none, m :: _ => m.feeder.number
  | none, [] => 0

/-- The allocation summary of the Status Query reply; its fields read 0 when there has been no point since reset
(R189, R91). -/
def summaryBytes : Option Summary → List Byte
  | none => half 0 ++ [0xFF, 0] ++ half 0 ++ half 0 ++ [0] ++ half 0 ++ half 0 ++ half 0 ++ [0]
  | some m =>
    half m.event ++
    (match m.point with
      | .onset c => [0, byteOf c.code]
      | .boundary t => [1, byteOf t]) ++
    optHalf m.vret ++ half m.available ++ [byteOf m.policy.code] ++ half m.reserve ++ half m.granted ++
    half m.unassigned ++ [byteOf m.units.length] ++ m.units.flatMap fun u => [byteOf u.ident, byteOf u.grant.code]

/-- m_A, m_B, m_C, V_ret and the worst phase, or their invalidity (R16). -/
def magnitudeBytes (m : Option (Tri Nat)) : List Byte :=
  optHalf (m.map (·.a)) ++ optHalf (m.map (·.b)) ++ optHalf (m.map (·.c)) ++ readingBytes (m.map readingOf)

/-- The store items (R72). -/
def storeBytes (s : Store) : List Byte :=
  optHalf s.volts ++ quad s.energy ++ half s.quanta ++
    [truth s.warning, truth s.overVoltage, truth s.charger, byteOf s.delay]

/-- R171: Status Query. -/
def answerStatusQuery (s : State) : State × Option Answer :=
  s.answer (.ok (
    [byteOf s.loader.op.code, truth s.loader.imageFault, byteOf s.tracker.state.code, byteOf s.tracker.miss] ++
    magnitudeBytes s.magnitude.mags ++
    [byteOf s.detector.state.code, byteOf s.detector.t, byteOf s.detector.dwell] ++ half (s.openNumber.getD 0) ++
    [byteOf s.classes.activeBank.number, optByte (s.classes.pendingBank.map (·.number))] ++
    storeBytes s.store ++ summaryBytes s.arbiter.summary ++
    Feeder.list.map (fun f => byteOf (s.seq.get f).state.code) ++
    Feeder.list.map (fun f => byteOf (s.port.get f).state.code) ++
    GroupNo.list.map (fun g => byteOf (s.groups.get g).state.code) ++
    [s.link.mask.zeroExtend 8, byteOf s.link.reports.length, truth s.link.overflow]))

/-- The sequencer's items of a Feeder Query (R115); a stopped timer has no remaining count (notes/assumptions/14.md), and
one whose expiry is not yet taken shows its kind with 0 remaining (notes/assumptions/5.md). -/
def sequencerBytes (s : State) (f : Feeder) : List Byte :=
  let q := s.seq.get f
  [byteOf q.state.code, optByte (q.phase.map (·.code)), optByte (q.mode.map (·.code)), truth q.barred,
    byteOf (timerCode q.timer), optByte (q.timer.map (·.remaining)), optByte (q.releaseCause.map (·.code)),
    optByte (q.faultCause.map (·.code)), optByte (q.followOn.map (·.code)), truth (s.feeders.get f).enabled,
    truth (s.holds.get f != 0)]

/-- The generator's items of a Feeder Query (R63). With no status record held, "halved by derate" reads 0: R122 reads an
absent record as no derate (notes/assumptions/14.md). L_eff is shown with INJ_LIMIT as it is stored
(notes/assumptions/25.md). -/
def generatorBytes (s : State) (f : Feeder) : List Byte :=
  let g := s.gen.get f
  signedHalf g.refs.a ++ signedHalf g.refs.b ++ signedHalf g.refs.c ++ [byteOf g.tag.code] ++
    half ((s.port.get f).limit (s.feeders.get f).injLimit) ++
    [truth (s.port.get f).derate, byteOf g.satCount] ++ quad g.closedW ++
    half g.closedQ ++ [byteOf g.closedSat]

/-- The arbiter's items of a Feeder Query (R91): an absent quanta field reads 0 (R189). -/
def arbiterBytes (s : State) (f : Feeder) : List Byte :=
  let u := s.arbiter.summary.bind fun m => unitOf m.units f
  let m := u.bind fun u => u.members.find? fun m => m.feeder = f
  let b := s.arbiter.budgets.get f
  let unit : Option Nat := u.map fun u => match u.group with
    | some g => g.number
    | none => 0
  [optByte unit, optByte (u.map (·.level))] ++ half ((m.map (·.full)).getD 0) ++
    [optByte (m.map fun m => if m.measured then 1 else 0)] ++ half ((m.map (·.floor)).getD 0) ++
    [optByte (u.map (·.grant.code)), truth b.isSome] ++ half ((b.map (·.share)).getD 0) ++
    [truth (s.arbiter.flags.get f)]

/-- The port's items of a Feeder Query (R130). -/
def portBytes (p : Port) : List Byte := [byteOf p.state.code, byteOf p.run, byteOf p.miss] ++ statusBytes p.status

/-- R171: Feeder Query. -/
def answerFeederQuery (feeder : Byte) (s : State) : State × Option Answer :=
  match Feeder.ofNumber? feeder.toNat with
  | none => s.refuseWith .value
  | some f =>
    s.answer (.ok ([feeder] ++ sequencerBytes s f ++ generatorBytes s f ++ arbiterBytes s f ++
      portBytes (s.port.get f)))

/-! ## Event records (R45) -/

/-- The verdict of an entry and its t at first violation (section 11.3). -/
def verdictBytes : Verdict → List Byte
  | .heldUp => [0, 0xFF]
  | .violated t => [1, byteOf t]

/-- The 15 bytes of an outcome entry (section 11.3). -/
def entryBytes (e : Entry) : List Byte :=
  [byteOf e.feeder.number, if e.engaged then 0 else 1, optByte (e.reason.map (·.code)),
    optByte (e.firstMode.map (·.code)), optByte (e.lastMode.map (·.code)), byteOf e.injected] ++ quad e.quanta ++
  [byteOf e.overdraw, byteOf e.saturated, optByte (e.release.map (·.code))] ++ verdictBytes e.verdict

/-- An event record as the Event Query reply lays it out, with the duration to show. -/
def recordBytes (r : Record) (isOpen : Bool) (duration : Nat) : List Byte :=
  half r.number ++ [truth isOpen, byteOf r.cause.code, byteOf r.comp.code] ++ readingBytes r.onset ++
    readingBytes r.minimum ++ [byteOf duration, optByte (r.endCause.map (·.code))] ++ half r.storeOnset ++
    half r.storeMin ++ half r.quantaOnset ++ quad r.total ++ [byteOf r.entries.length] ++
    r.entries.flatMap entryBytes

/-- R45: the record an Event Query names: for 0 the open one, else the newest closed one; the flag marks the open one. -/
def State.findRecord (s : State) (n : Nat) : Option (Record × Bool) :=
  if n = 0 then
    match s.detector.record with
    | some r => some (r, true)
    | none => s.detector.table.getLast?.map fun r => (r, false)
  else
    match s.detector.record with
    | some r =>
      if r.number = n then some (r, true)
      else (s.detector.table.find? fun r => r.number = n).map fun r => (r, false)
    | none => (s.detector.table.find? fun r => r.number = n).map fun r => (r, false)

/-- R45: Event Query; the present t stands as an open record's duration (R38). -/
def answerEventQuery (n : Nat) (s : State) : State × Option Answer :=
  match s.findRecord n with
  | some (r, true) => s.answer (.ok (recordBytes r true s.detector.t))
  | some (r, false) => s.answer (.ok (recordBytes r false r.duration))
  | none => s.refuseWith .value

/-- R45: Event List: the open number, then the closed numbers, newest first. -/
def answerEventList (s : State) : State × Option Answer :=
  s.answer (.ok (half (s.openNumber.getD 0) ++ [byteOf s.detector.table.length] ++
    s.detector.table.reverse.flatMap fun r => half r.number))

/-! ## The rows -/

/-- IDENTIFY (R170). -/
def execIdentify (tag : Byte) (s : State) : Host.Outcome State Fault Refusal :=
  .next (s.serve 0x01 tag answerIdentify)

/-- STATUS_QUERY (R171). -/
def execStatusQuery (tag : Byte) (s : State) : Host.Outcome State Fault Refusal :=
  .next (s.serve 0x02 tag answerStatusQuery)

/-- FEEDER_QUERY (R171). -/
def execFeederQuery (tag feeder : Byte) (s : State) : Host.Outcome State Fault Refusal :=
  .next (s.serve 0x03 tag (answerFeederQuery feeder))

/-- EVENT_QUERY (R45). -/
def execEventQuery (tag : Byte) (number : Half) (s : State) : Host.Outcome State Fault Refusal :=
  .next (s.serve 0x04 tag (answerEventQuery number.toNat))

/-- EVENT_LIST (R45). -/
def execEventList (tag : Byte) (s : State) : Host.Outcome State Fault Refusal :=
  .next (s.serve 0x05 tag answerEventList)

end Sys2Proof.Machine
end

