-- ==== Sys2Proof/Machine/Ports.lean ====
section
/-! DEFINITION. The bridge ports (chapter 6), and the meanings of SLOT_EXAMINATION, PORT_UP, PORT_LOST and
PORT_RECOVERED. -/

namespace Sys2Proof.Machine

open Sys2Proof

/-- R129: a PORT report, with the port's state and latest good status record as they now stand. -/
def State.postPort (s : State) (f : Feeder) (c : PortCause) : State :=
  s.post (.port f (s.port.get f).state c (s.port.get f).status)

/-- The record sent by a port that enters WAITING: IDLE, CLOSE and zero references (R94, R118). -/
def idleRecord : RefRecord := ⟨.idle, .close, Tri.all 0⟩

/-- R123: the port enters DOWN, WAITING, sends its first record and posts PORT WAITING; the slot of this instant is not
examined (R117). -/
def State.enterWaiting (s : State) (f : Feeder) : State :=
  ((s.setPort f ⟨.waiting, 0, 0, none, some idleRecord, true, false⟩).setGen f
    { s.gen.get f with refs := Tri.all 0, tag := .other, clamped := false }).postPort f .waiting

/-- R127: the port goes DOWN, QUIET: counts 0, no latest record; PORT DOWN, and DERATE_CLEAR where the record made absent
reported derate. A port already QUIET posts nothing. -/
def State.takeDown (s : State) (f : Feeder) : State :=
  let p := s.port.get f
  if p.state = .quiet then s
  else
    let s := (s.setPort f { p with
      state := .quiet, run := 0, miss := 0, status := none, fresh := false, skipSlot := false }).postPort f .down
    if p.derate then s.postPort f .derateClear else s

/-- R95, R123: entry to RUNNING at one feeder: if enabled it enters STANDBY or HELD and its port enters WAITING. -/
def State.bringUp (s : State) (f : Feeder) : State :=
  if (s.feeders.get f).enabled then (s.enterReady f).enterWaiting f else s

/-- R95: the operating state enters RUNNING. -/
def State.enterRunning (s : State) : State :=
  forFeeders (fun f s => s.bringUp f) { s with loader := { s.loader with op := .running } }

/-! ## The examination (R119 to R126) -/

/-- R124 to R126: the port's counts and state after a good record. -/
def Port.countGood (p : Port) : Port :=
  match p.state with
  | .quiet => p
  | .waiting | .lost =>
    if 7 ≤ p.run then { p with state := .up, run := 8, miss := 0 } else { p with run := p.run + 1 }
  | .up => { p with run := min (p.run + 1) 8, miss := 0 }

/-- R124 to R126: the port's counts and state after a slot without a good record. -/
def Port.countMiss (p : Port) : Port :=
  match p.state with
  | .quiet => p
  | .waiting => { p with run := 0 }
  | .up => if 2 ≤ p.miss then { p with state := .lost, run := 0, miss := 3 } else { p with run := 0, miss := p.miss + 1 }
  | .lost => { p with run := 0 }

/-- R129: the cause of the report of a port state change. -/
def portChange (before after : PortState) : Option PortCause :=
  match before, after with
  | .waiting, .up => some .up
  | .lost, .up => some .recovered
  | .up, .lost => some .lost
  | _, _ => none

/-- R129: the report of a port state change, if it changed. -/
def State.reportChange (s : State) (f : Feeder) (before : PortState) : State :=
  match portChange before (s.port.get f).state with
  | some c => s.postPort f c
  | none => s

/-- R122, R129: the report of a change of derate. -/
def State.reportDerate (s : State) (f : Feeder) (before : Bool) : State :=
  let after := (s.port.get f).derate
  if before = after then s else s.postPort f (if after then .derateSet else .derateClear)

/-- R121: a good record, as one event: stored, delivered to the sequencer, counted, and the changes reported, the state
change first (R129). -/
def State.goodSlot (s : State) (lv : Leave) (f : Feeder) (st : ModuleStatus) : State :=
  let p := s.port.get f
  let s := s.setPort f { p with status := some st }
  let s := s.takeStatus lv f st p.status
  let s := s.setPort f (s.port.get f).countGood
  (s.reportChange f p.state).reportDerate f p.derate

/-- R124 to R126: a slot without a good record; a port that becomes LOST tells its sequencer in the same event. -/
def State.emptySlot (s : State) (lv : Leave) (f : Feeder) : State :=
  let p := s.port.get f
  let s := (s.setPort f p.countMiss).reportChange f p.state
  if p.state = .up ∧ p.countMiss.state = .lost then s.takePortLost lv f else s

/-- R117: the port examines its slot: it sends, and the slot is not that of the instant at which it entered WAITING.
`entry` says that it is; the claim stands only until the sample set after that instant (notes/assumptions/6.md). -/
def State.examines (s : State) (f : Feeder) (entry : Bool) : Bool :=
  !s.inReset && (s.port.get f).state.sends && !(entry && ((s.port.get f).fresh || (s.port.get f).skipSlot))

/-- R119 to R126: the examination of a slot. -/
def State.examine (s : State) (lv : Leave) (f : Feeder) (slot : Slot) : State :=
  match goodRecord slot.records with
  | some st => s.goodSlot lv f st
  | none => s.emptySlot lv f

/-- SLOT_EXAMINATION (R119); nothing in a port that examines no slot. -/
def execSlotExamination (f : Feeder) (slot : Slot) (lv : Leave) (s : State) :
    Host.Outcome State Fault Refusal :=
  .next (if s.examines f slot.entry then s.asEvent lv.choice fun s => s.examine lv f slot else s)

/-- R124: this examination is the one that brings a WAITING port UP. -/
def State.comesUp (s : State) (f : Feeder) (slot : Slot) : Bool :=
  s.examines f slot.entry && (s.port.get f).state == .waiting && 7 ≤ (s.port.get f).run && (goodRecord slot.records).isSome

/-- R125: this examination is the one that makes an UP port LOST. -/
def State.goesLost (s : State) (f : Feeder) (slot : Slot) : Bool :=
  s.examines f slot.entry && (s.port.get f).state == .up && 2 ≤ (s.port.get f).miss && (goodRecord slot.records).isNone

/-- R126: this examination is the one that returns a LOST port to UP. -/
def State.comesBack (s : State) (f : Feeder) (slot : Slot) : Bool :=
  s.examines f slot.entry && (s.port.get f).state == .lost && 7 ≤ (s.port.get f).run && (goodRecord slot.records).isSome

/-- PORT_UP (R124): the examination with that outcome; where it has another, the step does not arise
(notes/assumptions/2.md). -/
def execPortUp (f : Feeder) (slot : Slot) (lv : Leave) (s : State) : Host.Outcome State Fault Refusal :=
  .next (if s.comesUp f slot then s.asEvent lv.choice fun s => s.examine lv f slot else s)

/-- PORT_LOST (R125): the examination with that outcome. -/
def execPortLost (f : Feeder) (slot : Slot) (lv : Leave) (s : State) : Host.Outcome State Fault Refusal :=
  .next (if s.goesLost f slot then s.asEvent lv.choice fun s => s.examine lv f slot else s)

/-- PORT_RECOVERED (R126): the examination with that outcome. -/
def execPortRecovered (f : Feeder) (slot : Slot) (lv : Leave) (s : State) : Host.Outcome State Fault Refusal :=
  .next (if s.comesBack f slot then s.asEvent lv.choice fun s => s.examine lv f slot else s)

end Sys2Proof.Machine
end

