-- ==== Sys2Proof/Machine/Settings.lean ====
section
/-! DEFINITION. Setting Write and Setting Read (R172) with the owning blocks' rules (R3, R29, R35, R56, R67, R79, R85,
R111, R112, R148), and the meanings of SETTING_WRITE, SETTING_WRITE_LINE_FREQ, SETTING_WRITE_ENABLED and
SETTING_READ. -/

namespace Sys2Proof.Machine

open Sys2Proof

/-- R29: a written ONSET_LEVEL, clamped to 500..980 and then to at most RECOVERY_LEVEL − 20. -/
def Globals.clampOnset (g : Globals) (v : Nat) : Nat := min (clampNat 500 980 v) (g.recoveryLevel - 20)

/-- R169, section 11.7: the value a numeric setting takes of a written value, in the range in force. -/
def Globals.clampSetting (g : Globals) (id : SettingId) (v : Nat) : Nat :=
  match id with
  | .nominalPeak => clampNat 256 2000 v
  | .onsetLevel => g.clampOnset v
  | .recoveryLevel => clampNat (g.onsetLevel + 20) 990 v
  | .recoveryDwell => clampNat 1 16 v
  | .fastFraction => clampNat 0 15 v
  | .fastConfirm => clampNat 1 8 v
  | .eventLimit => clampNat 1 250 v
  | .targetFull => clampNat 900 1050 v
  | .storeCapacitance => clampNat 1 65535 v
  | .storeFloor => clampNat 100 (min 1100 (g.storeRated - 50)) v
  | .storeRated => clampNat (g.storeFloor + 50) (min 1200 g.storeMax) v
  | .storeWarnSel => clampNat 0 7 v
  | .storeMax => clampNat g.storeRated 1200 v
  | .quantum => clampNat 1 65535 v
  | .reserve => clampNat 0 65535 v
  | .armTimeout => clampNat 1 48 v
  | .bypassTimeout => clampNat 4 96 v
  | .handover => clampNat 2 96 v
  | .stopTimeout => clampNat 8 192 v
  | .rechargeDelay => clampNat 0 250 v
  | .injLimit => clampNat 0 2047 v
  | .energyScale => clampNat 1 65535 v
  | .onsetForecast => clampNat 1 65535 v
  | .bankLevel _ => clampNat 0 3 v
  | .lineFreq | .allocPolicy | .enabled | .startHeld | .bankClass _ => v

/-- R172: an enumeration value outside its set is refused. -/
def SettingId.valueInSet (id : SettingId) (v : Nat) : Bool :=
  match id with
  | .lineFreq => (LineFreq.ofCode? v).isSome
  | .allocPolicy => (Policy.ofCode? v).isSome
  | .enabled | .startHeld => (truthOf? v).isSome
  | .bankClass _ => (ClassNo.ofNumber? v).isSome
  | _ => true

/-- The value in force of a setting (R172), coded as R189 carries it. -/
def State.settingValue (s : State) (id : SettingId) (f : Feeder) : Nat :=
  match id with
  | .lineFreq => s.globals.lineFreq.code
  | .nominalPeak => s.globals.nominalPeak
  | .onsetLevel => s.globals.onsetLevel
  | .recoveryLevel => s.globals.recoveryLevel
  | .recoveryDwell => s.globals.recoveryDwell
  | .fastFraction => s.globals.fastFraction
  | .fastConfirm => s.globals.fastConfirm
  | .eventLimit => s.globals.eventLimit
  | .targetFull => s.globals.targetFull
  | .storeCapacitance => s.globals.storeCapacitance
  | .storeFloor => s.globals.storeFloor
  | .storeRated => s.globals.storeRated
  | .storeWarnSel => s.globals.storeWarnSel
  | .storeMax => s.globals.storeMax
  | .quantum => s.globals.quantum
  | .reserve => s.globals.reserve
  | .allocPolicy => s.globals.allocPolicy.code
  | .armTimeout => s.globals.armTimeout
  | .bypassTimeout => s.globals.bypassTimeout
  | .handover => s.globals.handover
  | .stopTimeout => s.globals.stopTimeout
  | .rechargeDelay => s.globals.rechargeDelay
  | .enabled => if (s.feeders.get f).enabled then 1 else 0
  | .injLimit => (s.feeders.get f).injLimit
  | .energyScale => (s.feeders.get f).energyScale
  | .onsetForecast => (s.feeders.get f).onsetForecast
  | .startHeld => if (s.feeders.get f).startHeld then 1 else 0
  | .bankClass b => ((s.classes.banks.get b).get f).cls.number
  | .bankLevel b => ((s.classes.banks.get b).get f).level

/-- A global setting stored; a per-feeder one is not global. -/
def Globals.store (g : Globals) (id : SettingId) (v : Nat) : Globals :=
  match id with
  | .lineFreq => { g with lineFreq := (LineFreq.ofCode? v).getD g.lineFreq }
  | .nominalPeak => { g with nominalPeak := v }
  | .onsetLevel => { g with onsetLevel := v }
  | .recoveryLevel => { g with recoveryLevel := v }
  | .recoveryDwell => { g with recoveryDwell := v }
  | .fastFraction => { g with fastFraction := v }
  | .fastConfirm => { g with fastConfirm := v }
  | .eventLimit => { g with eventLimit := v }
  | .targetFull => { g with targetFull := v }
  | .storeCapacitance => { g with storeCapacitance := v }
  | .storeFloor => { g with storeFloor := v }
  | .storeRated => { g with storeRated := v }
  | .storeWarnSel => { g with storeWarnSel := v }
  | .storeMax => { g with storeMax := v }
  | .quantum => { g with quantum := v }
  | .reserve => { g with reserve := v }
  | .allocPolicy => { g with allocPolicy := (Policy.ofCode? v).getD g.allocPolicy }
  | .armTimeout => { g with armTimeout := v }
  | .bypassTimeout => { g with bypassTimeout := v }
  | .handover => { g with handover := v }
  | .stopTimeout => { g with stopTimeout := v }
  | .rechargeDelay => { g with rechargeDelay := v }
  | .enabled | .injLimit | .energyScale | .onsetForecast | .startHeld | .bankClass _ | .bankLevel _ => g

/-- A feeder's settings with one stored. -/
def FeederSettings.store (q : FeederSettings) (id : SettingId) (v : Nat) : FeederSettings :=
  match id with
  | .enabled => { q with enabled := v == 1 }
  | .injLimit => { q with injLimit := v }
  | .energyScale => { q with energyScale := v }
  | .onsetForecast => { q with onsetForecast := v }
  | .startHeld => { q with startHeld := v == 1 }
  | _ => q

/-- A bank entry with its class or level stored. -/
def State.storeBank (s : State) (b : Bank) (f : Feeder) (e : BankEntry) : State :=
  { s with classes := { s.classes with banks := s.classes.banks.set b ((s.classes.banks.get b).set f e) } }

/-- A value stored in its owning block, with no further effect (R169: in the running part only). A sample instant uses it
from the next one on (R167). -/
def State.storeSetting (s : State) (id : SettingId) (f : Feeder) (v : Nat) : State :=
  let s := s.markWrite
  match id with
  | .bankClass b =>
    let e := (s.classes.banks.get b).get f
    s.storeBank b f { e with cls := (ClassNo.ofNumber? v).getD e.cls }
  | .bankLevel b => s.storeBank b f { (s.classes.banks.get b).get f with level := v }
  | id =>
    if id.perFeeder then { s with feeders := s.feeders.set f ((s.feeders.get f).store id v) }
    else { s with globals := s.globals.store id v }

/-- The reply fields of a setting request (section 11.3); a global setting has no feeder, an absent one-byte field
(notes/assumptions/14.md). -/
def settingBody (ident : Byte) (id : SettingId) (feeder : Byte) (v : Nat) : List Byte :=
  [ident, if id.perFeeder then feeder else 0xFF] ++ half v

/-- R3: a write that changes LINE_FREQ returns the tracker to SEEKING: miss count 0, remembered crossing cleared, and a
TRACKER report if it was not in SEEKING. -/
def State.writeLineFreq (s : State) (v : Nat) : State :=
  if LineFreq.ofCode? v = some s.globals.lineFreq then s
  else
    let s' := s.storeSetting .lineFreq .f1 v
    let t : Tracker := { s.tracker with state := .seeking, miss := 0, remembered := false }
    if s.tracker.state = .seeking then { s' with tracker := t } else s'.trackerTo t .freqChange

/-- R111: the feeder enters OFFLINE: phase, timer, fault cause and follow-on cause cleared, mode and release cause kept; its
port goes DOWN. -/
def State.disable (s : State) (f : Feeder) : State :=
  if (s.seq.get f).state = .offline then s
  else
    ((s.setSeq f { s.seq.get f with
        state := .offline, phase := none, timer := none, faultCause := none, followOn := none }).postFeederState f none
      ).takeDown f

/-- R111: an ENABLED write outside an event, on a feeder not in ARMING, INJECTING or RELEASING. -/
def State.writeEnabled (s : State) (f : Feeder) (yes : Bool) : State :=
  let s' := s.storeSetting .enabled f (if yes then 1 else 0)
  if yes then
    (if (s.seq.get f).state = .offline ∧ s.loader.op = .running then s'.bringUp f else s')
  else s'.disable f

/-- R111: an ENABLED write is refused for a feeder in ARMING, INJECTING or RELEASING. -/
def State.enabledRefused (s : State) (f : Feeder) : Bool :=
  (s.seq.get f).state == .arming || (s.seq.get f).state == .injecting || (s.seq.get f).state == .releasing

/-- R168 to R172: Setting Write by its own rule, for a setting and feeder that exist and no event open. -/
def State.applySetting (s : State) (ident feeder : Byte) (id : SettingId) (f : Feeder) (v : Nat) :
    State × Option Answer :=
  match id with
  | .enabled =>
    if s.enabledRefused f then s.refuseWith .notNow
    else (s.writeEnabled f (v == 1), some (.ok (settingBody ident id feeder v)))
  | .lineFreq => (s.writeLineFreq v, some (.ok (settingBody ident id feeder v)))
  | id =>
    let v' := s.globals.clampSetting id v
    (s.storeSetting id f v', some ⟨if v' = v then .ok else .clamped, settingBody ident id feeder v'⟩)

/-- R172: the feeder a setting request names; for a global setting the feeder byte is not read, and any stands. -/
def settingFeeder (id : SettingId) (feeder : Byte) : Option Feeder :=
  if id.perFeeder then Feeder.ofNumber? feeder.toNat else some .f1

/-- R172: Setting Write. -/
def answerSettingWrite (ident feeder : Byte) (v : Nat) (s : State) : State × Option Answer :=
  match SettingId.ofCode? ident.toNat with
  | none => s.refuseWith .value
  | some id =>
    match settingFeeder id feeder with
    | none => s.refuseWith .value
    | some f =>
      if !id.valueInSet v then s.refuseWith .value
      else if s.eventOpen then s.refuseWith .notNow
      else s.applySetting ident feeder id f v

/-- R172: Setting Read. -/
def answerSettingRead (ident feeder : Byte) (s : State) : State × Option Answer :=
  match SettingId.ofCode? ident.toNat with
  | none => s.refuseWith .value
  | some id =>
    match settingFeeder id feeder with
    | none => s.refuseWith .value
    | some f => s.answer (.ok (settingBody ident id feeder (s.settingValue id f)))

/-- SETTING_WRITE (R172). -/
def execSettingWrite (tag ident feeder : Byte) (value : Half) (s : State) : Host.Outcome State Fault Refusal :=
  .next (s.serve 0x07 tag (answerSettingWrite ident feeder value.toNat))

/-- SETTING_WRITE_LINE_FREQ (R3): Setting Write of identifier 0x01. -/
def execSettingWriteLineFreq (tag feeder : Byte) (value : Half) (s : State) : Host.Outcome State Fault Refusal :=
  .next (s.serve 0x07 tag (answerSettingWrite 0x01 feeder value.toNat))

/-- SETTING_WRITE_ENABLED (R111): Setting Write of identifier 0x20. -/
def execSettingWriteEnabled (tag feeder : Byte) (value : Half) (s : State) : Host.Outcome State Fault Refusal :=
  .next (s.serve 0x07 tag (answerSettingWrite 0x20 feeder value.toNat))

/-- SETTING_READ (R172). -/
def execSettingRead (tag ident feeder : Byte) (s : State) : Host.Outcome State Fault Refusal :=
  .next (s.serve 0x08 tag (answerSettingRead ident feeder))

end Sys2Proof.Machine
end

