-- ==== Sys2Proof/Machine/SignalLines.lean ====
section
/-! DEFINITION. The signal-line matrix (sections 8.2 to 8.4) and the meaning of LINE_ACCEPTED. -/

namespace Sys2Proof.Machine

open Sys2Proof

/-- R153: one line read at a sample instant; an output-bound line is not read (R152). -/
def LineState.read (l : LineState) (level : Bool) : LineState :=
  if l.binding.isOutput then l
  else if l.sampled = some level then { l with run := some (min (l.run.getD 0 + 1) 4) }
  else { l with sampled := some level, run := some 1 }

/-- R152: a line as it stands when the part leaves LOADING, bound to a code: read with no level yet, or driven
inactive. -/
def LineState.start (c : EventCode) : LineState :=
  ⟨c, none, none, none, if c.isOutput then some false else none⟩

/-- R155: a line rebound. One that leaves an output code is first read by the next sample set, also where that is the sample
set of the very instant of the write (notes/assumptions/35.md). -/
def LineState.rebind (l : LineState) (c : EventCode) : LineState :=
  if c = l.binding then l
  else if c.isOutput then ⟨c, none, none, none, some false⟩
  else if l.binding.isOutput then ⟨c, none, none, none, none⟩
  else { l with binding := c }

/-- R154, R160: the output-bound lines of some codes driven by their codes' conditions as they stand, those of one code
alike. -/
def State.evaluateOutputs (s : State) (which : EventCode → Bool) : State :=
  { s with lines := Twelve.of fun l =>
      let x := s.lines.get l
      if x.binding.isOutput && which x.binding then { x with driven := some (s.condition x.binding) } else x }

/-- R153: every line that is not output-bound read. -/
def State.readLines (s : State) (levels : Twelve Bool) : State :=
  { s with lines := Twelve.of fun l => (s.lines.get l).read (levels.get l) }

/-- R156: the hold operation of an acceptance on a HOLD line: an edge or a first acceptance to low takes, a rising edge
drops, a first acceptance to high does nothing. -/
def lineHoldOp (before : Option Bool) (level : Bool) : Option HoldOp :=
  match before, level with
  | _, false => some .take
  | some _, true => some .drop
  | none, true => none

/-- R158: a falling edge accepted on a line bound to EXT_TRIGGER. -/
def LineState.triggers (l : LineState) : Bool :=
  l.acceptanceDue && l.binding == .extTrigger && l.debounced == some true

/-- R153, R156, R158, R159: the acceptance of a line's level, delivered by its binding. `weighed` says that the detector
weighs an external trigger of this instant in its own handling of the sample set (R22), and is not told again. -/
def State.acceptLine (s : State) (weighed : Bool) (lv : Leave) (l : Line) : State :=
  let x := s.lines.get l
  if x.acceptanceDue then
    let level := x.sampled.getD false
    let s' := s.setLine l { x with debounced := x.sampled }
    match x.binding with
    | .hold f =>
      match lineHoldOp x.debounced level with
      | some op => s'.hold lv f op
      | none => s'
    | .extTrigger => if x.triggers && !weighed then s'.externalTrigger else s'
    | .bankSelect =>
      match x.debounced with
      | some _ => s'.switchBank (if level then .b1 else .b0)
      | none => s'
    | _ => s'
  else s

/-- LINE_ACCEPTED (R153): the acceptance of a line whose level stands; a line with none due is left as it is
(notes/assumptions/2.md). -/
def execLineAccepted (l : Leaving Line) (s : State) : Host.Outcome State Fault Refusal :=
  .next (if (s.lines.get l.value).acceptanceDue then
    s.asEvent l.leave.choice fun s => s.acceptLine false l.leave l.value else s)

end Sys2Proof.Machine
end

