-- ==== Sys2Proof/Machine/Requests.lean ====
section
/-! DEFINITION. The requests that act on one block: Hold, Class Write and Read, Group Write and Read, Line Map Write and
Read, Bank Select, Fault Clear, Group Acks Clear, Compensation Enable, Report Mask and Restart, and the meanings of
their rows. -/

namespace Sys2Proof.Machine

open Sys2Proof

/-! ## Hold (R149, R151) -/

/-- R151: a Hold request, the feeder byte and the operation; `lv` is what a departure it causes leaves. -/
def answerHold (feeder : Byte) (op : HoldOp) (lv : Leave) (s : State) : State × Option Answer :=
  match Feeder.ofNumber? feeder.toNat with
  | none => s.refuseWith .value
  | some f =>
    let s' := s.hold lv f op
    (s', some (.ok [feeder, byteOf (s.holds.get f), byteOf (s'.holds.get f)]))

/-- TAKE (R149). -/
def execTake (tag : Byte) (feeder : Leaving Byte) (s : State) : Host.Outcome State Fault Refusal :=
  .next (s.serve 0x06 tag (answerHold feeder.value .take feeder.leave))

/-- DROP (R149). -/
def execDrop (tag feeder : Byte) (s : State) : Host.Outcome State Fault Refusal :=
  .next (s.serve 0x06 tag (answerHold feeder .drop .nothing))

/-- TAKE_IF_FREE (R149). -/
def execTakeIfFree (tag : Byte) (feeder : Leaving Byte) (s : State) : Host.Outcome State Fault Refusal :=
  .next (s.serve 0x06 tag (answerHold feeder.value .takeIfFree feeder.leave))

/-- TAKE_IF_HELD (R149). -/
def execTakeIfHeld (tag feeder : Byte) (s : State) : Host.Outcome State Fault Refusal :=
  .next (s.serve 0x06 tag (answerHold feeder .takeIfHeld .nothing))

/-- FORCE_CLEAR (R149). -/
def execForceClear (tag feeder : Byte) (s : State) : Host.Outcome State Fault Refusal :=
  .next (s.serve 0x06 tag (answerHold feeder .forceClear .nothing))

/-- FORCE_FULL (R149). -/
def execForceFull (tag : Byte) (feeder : Leaving Byte) (s : State) : Host.Outcome State Fault Refusal :=
  .next (s.serve 0x06 tag (answerHold feeder.value .forceFull feeder.leave))

/-- PEEK (R149). -/
def execPeek (tag feeder : Byte) (s : State) : Host.Outcome State Fault Refusal :=
  .next (s.serve 0x06 tag (answerHold feeder .peek .nothing))

/-! ## Classes (R32) -/

/-- The segment list of received bytes, three bytes a segment (section 11.3). -/
def segmentsOf : List Byte → List Segment
  | l :: hi :: lo :: rest => ⟨l.toNat, halfValue hi lo⟩ :: segmentsOf rest
  | _ => []

/-- The bytes of a class, laid out as a Class Write (section 11.3). -/
def classBody (n : ClassNo) (c : EnvClass) : List Byte :=
  [byteOf n.number] ++ half c.immunity ++ [byteOf c.segments.length] ++
    c.segments.flatMap fun g => byteOf g.limit :: half g.floor

/-- A class replaced whole; it is used from the next sample instant (R32). -/
def State.storeClass (s : State) (n : ClassNo) (c : EnvClass) : State :=
  { s.markWrite with classes := { s.classes with classes := s.classes.classes.set n c } }

/-- R32: Class Write: the refusals in the order of R168, range clamping, the ordering check, floor clamping, storage. -/
def answerClassWrite (cls : Byte) (immunity : Nat) (count : Byte) (segs : List Byte) (s : State) :
    State × Option Answer :=
  if 6 < count.toNat ∨ segs.length ≠ 3 * count.toNat then s.refuseWith .length
  else
    match ClassNo.ofNumber? cls.toNat with
    | none => s.refuseWith .value
    | some n =>
      if s.eventOpen then s.refuseWith .notNow
      else
        let asked : EnvClass := ⟨immunity, segmentsOf segs⟩
        let ranged := asked.clampRanges
        if !limitsAscend ranged.segments then s.refuseWith .value
        else
          let stored := ranged.clampOrder
          (s.storeClass n stored, some ⟨if stored = asked then .ok else .clamped, classBody n stored⟩)

/-- R32: Class Read. -/
def answerClassRead (cls : Byte) (s : State) : State × Option Answer :=
  match ClassNo.ofNumber? cls.toNat with
  | none => s.refuseWith .value
  | some n => s.answer (.ok (classBody n (s.classes.classes.get n)))

/-- CLASS_WRITE (R32). -/
def execClassWrite (tag cls : Byte) (immunity : Half) (count : Byte) (segments : List Byte) (s : State) :
    Host.Outcome State Fault Refusal :=
  .next (s.serve 0x09 tag (answerClassWrite cls immunity.toNat count segments))

/-- CLASS_READ (R32). -/
def execClassRead (tag cls : Byte) (s : State) : Host.Outcome State Fault Refusal :=
  .next (s.serve 0x0A tag (answerClassRead cls))

/-! ## Groups (R132, R134, R146) -/

/-- The Group Read payload (section 11.3). -/
def groupBody (g : GroupNo) (r : Group) : List Byte :=
  [byteOf g.number, setByte r.members, byteOf r.level, truth r.requireAll, byteOf r.state.code, setByte r.engaged,
    setByte r.acknowledged, setByte r.refused, optByte (r.abandonCause.map (·.code))]

/-- R132: a member set that names a feeder which is a member of another group. -/
def State.groupConflict (s : State) (g : GroupNo) (members : FeederSet) : Bool :=
  Feeder.list.any fun f => members.get f && GroupNo.list.any fun h => h != g && (s.groups.get h).members.get f

/-- R132: Group Write: the refusals in the order of R168, the clamp of the level, storage. -/
def answerGroupWrite (group members level requireAll : Byte) (s : State) : State × Option Answer :=
  match GroupNo.ofNumber? group.toNat, setOf? members, truthOf? requireAll.toNat with
  | some g, some m, some q =>
    if s.eventOpen then s.refuseWith .notNow
    else if s.groupConflict g m then s.refuseWith .value
    else
      let r : Group := { Group.default with members := m, level := clampNat 0 3 level.toNat, requireAll := q }
      (s.setGroup g r, some ⟨if 3 < level.toNat then .clamped else .ok, groupBody g r⟩)
  | _, _, _ => s.refuseWith .value

/-- R134: Group Read. -/
def answerGroupRead (group : Byte) (s : State) : State × Option Answer :=
  match GroupNo.ofNumber? group.toNat with
  | none => s.refuseWith .value
  | some g => s.answer (.ok (groupBody g (s.groups.get g)))

/-- R146: Group Acks Clear. -/
def answerGroupAcksClear (group : Byte) (s : State) : State × Option Answer :=
  match GroupNo.ofNumber? group.toNat with
  | none => s.refuseWith .value
  | some g =>
    let r := s.groups.get g
    match r.state with
    | .engaging | .active => s.refuseWith .notNow
    | .idle | .abandoned =>
      (s.setGroup g { r with
        engaged := FeederSet.empty, acknowledged := FeederSet.empty, refused := FeederSet.empty,
        abandonCause := none }, some (.ok [group]))

/-- GROUP_WRITE (R132). -/
def execGroupWrite (tag group members level requireAll : Byte) (s : State) : Host.Outcome State Fault Refusal :=
  .next (s.serve 0x0B tag (answerGroupWrite group members level requireAll))

/-- GROUP_READ (R134). -/
def execGroupRead (tag group : Byte) (s : State) : Host.Outcome State Fault Refusal :=
  .next (s.serve 0x0C tag (answerGroupRead group))

/-- GROUP_ACKS_CLEAR (R146). -/
def execGroupAcksClear (tag group : Byte) (s : State) : Host.Outcome State Fault Refusal :=
  .next (s.serve 0x11 tag (answerGroupAcksClear group))

/-! ## Signal lines (R154, R155, R157, R161) -/

/-- R157: the hold operation a change of binding applies, if the line's debounced level is low and the code is a HOLD. -/
def State.bindingHold (s : State) (lv : Leave) (low : Bool) (c : EventCode) (op : HoldOp) : State :=
  match c with
  | .hold f => if low then s.hold lv f op else s
  | _ => s

/-- R155, R157: a line rebound to another code, with the hold operations of the change. -/
def State.rebindLine (s : State) (lv : Leave) (l : Line) (c : EventCode) : State :=
  let x := s.lines.get l
  if c = x.binding then s
  else
    let low := x.debounced == some false
    ((s.setLine l (x.rebind c)).bindingHold lv low x.binding .drop).bindingHold lv low c .take

/-- R154: Line Map Write. -/
def answerLineMapWrite (line code : Byte) (lv : Leave) (s : State) : State × Option Answer :=
  match Line.ofNumber? line.toNat, EventCode.ofCode? code.toNat with
  | some l, some c =>
    (s.rebindLine lv l c, some (.ok [line, byteOf (s.lines.get l).binding.code, code]))
  | _, _ => s.refuseWith .value

/-- One line's three bytes of a Line Map Read (section 11.3). -/
def lineBody (x : LineState) : List Byte :=
  if x.binding.isOutput then [byteOf x.binding.code, truth (x.driven == some true), 0xFF]
  else [byteOf x.binding.code, optByte (x.debounced.map fun b => if b then 1 else 0), optByte x.run]

/-- R161: Line Map Read. -/
def answerLineMapRead (s : State) : State × Option Answer :=
  s.answer (.ok (Line.list.flatMap fun l => lineBody (s.lines.get l)))

/-- LINE_MAP_WRITE (R155). -/
def execLineMapWrite (tag line : Byte) (code : Leaving Byte) (s : State) : Host.Outcome State Fault Refusal :=
  .next (s.serve 0x0D tag (answerLineMapWrite line code.value code.leave))

/-- LINE_MAP_READ (R161). -/
def execLineMapRead (tag : Byte) (s : State) : Host.Outcome State Fault Refusal :=
  .next (s.serve 0x0E tag answerLineMapRead)

/-! ## Bank Select (R36) -/

/-- R36: Bank Select. -/
def answerBankSelect (bank : Byte) (s : State) : State × Option Answer :=
  match Bank.ofNumber? bank.toNat with
  | none => s.refuseWith .value
  | some b =>
    let s' := (if s.eventOpen then s else s.markWrite).switchBank b
    (s', some (.ok [byteOf s'.classes.activeBank.number, optByte (s'.classes.pendingBank.map (·.number))]))

/-- BANK_SELECT (R36). -/
def execBankSelect (tag bank : Byte) (s : State) : Host.Outcome State Fault Refusal :=
  .next (s.serve 0x0F tag (answerBankSelect bank))

/-! ## Fault Clear (R110) -/

/-- R110: the conditions under which a FAULTED feeder is cleared. -/
def State.clearable (s : State) (f : Feeder) : Bool :=
  (s.port.get f).state == .up &&
    match (s.port.get f).status with
    | some st => st.module == .idle && st.fault == .none && st.bypass == .closed
    | none => false

/-- R110: a FAULTED feeder cleared. -/
def State.clearFault (s : State) (f : Feeder) : State :=
  (s.setSeq f { s.seq.get f with faultCause := none, followOn := none }).enterReady f

/-- R110: Fault Clear. -/
def answerFaultClear (feeder : Byte) (s : State) : State × Option Answer :=
  match Feeder.ofNumber? feeder.toNat with
  | none => s.refuseWith .value
  | some f =>
    if (s.seq.get f).state = .faulted then
      (if s.clearable f then
        (s.clearFault f, some (.ok [feeder, byteOf (s.readyState f).code]))
      else s.refuseWith .refused)
    else s.answer (.ok [feeder, byteOf (s.seq.get f).state.code])

/-- FAULT_CLEAR (R110). -/
def execFaultClear (tag feeder : Byte) (s : State) : Host.Outcome State Fault Refusal :=
  .next (s.serve 0x10 tag (answerFaultClear feeder))

/-! ## Compensation Enable, Report Mask, Restart (R185, R174, R178) -/

/-- R185: Compensation Enable. -/
def answerCompensationEnable (s : State) : State × Option Answer :=
  if s.loader.op = .configuring then (s.enterRunning, some (.ok [byteOf OpState.running.code]))
  else s.answer (.ok [byteOf s.loader.op.code])

/-- R174: Report Mask. -/
def answerReportMask (mask : Byte) (s : State) : State × Option Answer :=
  if 128 ≤ mask.toNat then s.refuseWith .value
  else
    ({ s with link := { s.link with mask := mask.truncate 7 } }, some (.ok [s.link.mask.zeroExtend 8, mask]))

/-- R178: Restart is taken into service, its OK reply formed at once. -/
def answerRestart (tag : Byte) (s : State) : State × Option Answer :=
  if s.eventOpen then s.refuseWith .notNow
  else ({ s with link := { s.link with service := some (.restart tag) } }, some (.ok []))

/-- COMPENSATION_ENABLE (R185). -/
def execCompensationEnable (tag : Byte) (s : State) : Host.Outcome State Fault Refusal :=
  .next (s.serve 0x15 tag answerCompensationEnable)

/-- REPORT_MASK (R174). -/
def execReportMask (tag mask : Byte) (s : State) : Host.Outcome State Fault Refusal :=
  .next (s.serve 0x16 tag (answerReportMask mask))

/-- RESTART (R178). -/
def execRestart (tag : Byte) (s : State) : Host.Outcome State Fault Refusal :=
  .next (s.serve 0x14 tag (answerRestart tag))

/-- UNKNOWN (R168 test 1): the kind is not one of the requests. -/
def answerUnknown (s : State) : State × Option Answer := s.refuseWith .unknown

/-- LENGTH (R168 test 2). -/
def answerLength (s : State) : State × Option Answer := s.refuseWith .length

end Sys2Proof.Machine
end

