-- ==== Sys2Proof/Machine/Image.lean ====
section
/-! DEFINITION. The image loader (chapter 10): validating and loading an image, Image Read and Image Write, and the
meanings of IMAGE_LOAD_END, MEMORY_NO_ANSWER, IMAGE_READ, IMAGE_READ_DONE, IMAGE_WRITE and IMAGE_WRITE_DONE. -/

namespace Sys2Proof.Machine

open Sys2Proof

/-! ## Validation (R181) -/

/-- The two bytes at an offset, high byte first. -/
def imageHalf (m : List Host.Cell) (offset : Nat) : Nat := halfValue (memRead m offset) (memRead m (offset + 1))

/-- The total length the header gives. -/
def imageTotal (m : List Host.Cell) : Nat := imageHalf m 2

/-- R181: the marker, length and CRC tests. -/
def imageGood (m : List Host.Cell) : Bool :=
  memRead m 0 == 0x5A && memRead m 1 == 0xC3 && (decide (16 ≤ imageTotal m) && decide (imageTotal m ≤ Config.imageSize)) &&
    (crc16 (memLoad m 6 (imageTotal m - 6))).toNat == imageHalf m 4

/-! ## Items of a good image (R182, R191) -/

/-- An item of some bytes at an offset; absent when it lies wholly or partly at or beyond the total length. -/
def imageItem (m : List Host.Cell) (offset size : Nat) : Option (List Byte) :=
  if offset + size ≤ imageTotal m then some (memLoad m offset size) else none

/-- A one-byte item. -/
def itemByte (m : List Host.Cell) (offset : Nat) : Option Nat :=
  match imageItem m offset 1 with
  | some [b] => some b.toNat
  | _ => none

/-- A two-byte item. -/
def itemHalf (m : List Host.Cell) (offset : Nat) : Option Nat :=
  match imageItem m offset 2 with
  | some [hi, lo] => some (halfValue hi lo)
  | _ => none

/-- R182: a number clamped into its range, or the default when its item is absent. -/
def loadNumber (id : SettingId) (v : Option Nat) (dflt : Nat) : Nat :=
  match v with
  | some v => Globals.default.clampSetting id v
  | none => dflt

/-- R182: an enumeration, or the default when its value is outside its set or its item is absent. -/
def loadName {α : Type} (ofCode : Nat → Option α) (v : Option Nat) (dflt : α) : α := (v.bind ofCode).getD dflt

/-- R182, R29, R67: the global settings from the value of each identifier's item; the two levels and the three voltages
in the order of R29 and R67, over defaults as over loaded values (notes/assumptions/17.md). -/
def loadGlobals (v : Nat → Option Nat) : Globals :=
  let d := Globals.default
  let recovery := clampNat 520 990 ((v 0x04).getD d.recoveryLevel)
  let floor := clampNat 100 1100 ((v 0x0B).getD d.storeFloor)
  let rated := clampNat (floor + 50) 1200 ((v 0x0C).getD d.storeRated)
  { lineFreq := loadName LineFreq.ofCode? (v 0x01) d.lineFreq
    nominalPeak := loadNumber .nominalPeak (v 0x02) d.nominalPeak
    onsetLevel := clampNat 500 (recovery - 20) ((v 0x03).getD d.onsetLevel)
    recoveryLevel := recovery
    recoveryDwell := loadNumber .recoveryDwell (v 0x05) d.recoveryDwell
    fastFraction := loadNumber .fastFraction (v 0x06) d.fastFraction
    fastConfirm := loadNumber .fastConfirm (v 0x07) d.fastConfirm
    eventLimit := loadNumber .eventLimit (v 0x08) d.eventLimit
    targetFull := loadNumber .targetFull (v 0x09) d.targetFull
    storeCapacitance := loadNumber .storeCapacitance (v 0x0A) d.storeCapacitance
    storeFloor := floor
    storeRated := rated
    storeWarnSel := loadNumber .storeWarnSel (v 0x0D) d.storeWarnSel
    storeMax := clampNat rated 1200 ((v 0x0E).getD d.storeMax)
    quantum := loadNumber .quantum (v 0x0F) d.quantum
    reserve := loadNumber .reserve (v 0x10) d.reserve
    allocPolicy := loadName Policy.ofCode? (v 0x11) d.allocPolicy
    armTimeout := loadNumber .armTimeout (v 0x12) d.armTimeout
    bypassTimeout := loadNumber .bypassTimeout (v 0x13) d.bypassTimeout
    handover := loadNumber .handover (v 0x14) d.handover
    stopTimeout := loadNumber .stopTimeout (v 0x15) d.stopTimeout
    rechargeDelay := loadNumber .rechargeDelay (v 0x16) d.rechargeDelay }

/-- R182, R191: one feeder's settings. -/
def loadFeeder (m : List Host.Cell) (f : Feeder) : FeederSettings :=
  let base := 51 + 8 * (f.number - 1)
  let d := FeederSettings.default
  { enabled := loadName truthOf? (itemByte m base) d.enabled
    injLimit := loadNumber .injLimit (itemHalf m (base + 1)) d.injLimit
    energyScale := loadNumber .energyScale (itemHalf m (base + 3)) d.energyScale
    onsetForecast := loadNumber .onsetForecast (itemHalf m (base + 5)) d.onsetForecast
    startHeld := loadName truthOf? (itemByte m (base + 7)) d.startHeld }

/-- R182, R33: one class record, its default when absent. -/
def loadClass (m : List Host.Cell) (c : ClassNo) : EnvClass :=
  match imageItem m (99 + 21 * c.number) 21 with
  | some (hi :: lo :: n :: slots) => EnvClass.load ⟨halfValue hi lo, (segmentsOf slots).take n.toNat⟩
  | _ => ClassTable.default.classes.get c

/-- R182: one bank entry. -/
def loadBankEntry (m : List Host.Cell) (b : Bank) (f : Feeder) : BankEntry :=
  match imageItem m (291 + 12 * b.number + 2 * (f.number - 1)) 2 with
  | some [c, l] => ⟨loadName ClassNo.ofNumber? (some c.toNat) .c0, clampNat 0 3 l.toNat⟩
  | _ => ⟨.c0, 3⟩

/-- R133: one group record, the members in `placed` already taken by groups before it. -/
def loadGroup (m : List Host.Cell) (placed : FeederSet) (g : GroupNo) : Group :=
  match imageItem m (267 + 3 * (g.number - 1)) 3 with
  | some [members, level, all] =>
    { Group.default with
      members := Six.of fun f => (setOf members).get f && !placed.get f
      level := clampNat 0 3 level.toNat
      requireAll := loadName truthOf? (some all.toNat) false }
  | _ => Group.default

/-- The members of a group join those already placed. -/
def FeederSet.union (a b : FeederSet) : FeederSet := Six.of fun f => a.get f || b.get f

/-- R133: the four group records, taken in group order. -/
def loadGroups (m : List Host.Cell) : Four Group :=
  let a := loadGroup m FeederSet.empty .g1
  let b := loadGroup m a.members .g2
  let c := loadGroup m (FeederSet.union a.members b.members) .g3
  let d := loadGroup m (FeederSet.union (FeederSet.union a.members b.members) c.members) .g4
  ⟨a, b, c, d⟩

/-- R182, R152: one line's binding, NONE outside the codes. -/
def loadBinding (m : List Host.Cell) (l : Line) : EventCode :=
  loadName EventCode.ofCode? (itemByte m (279 + (l.number - 1))) .none

/-- R182: the report mask, flags beyond the seven kinds ignored. -/
def loadMask (m : List Host.Cell) : BitVec 7 :=
  match itemByte m 50 with
  | some v => BitVec.ofNat 7 v
  | none => Link.defaultMask

/-! ## The end of the load (R183) -/

/-- R180, R183: the lines and hold counts of a part that leaves LOADING, or enters CONFIGURING at reset, on defaults. -/
def State.startDefaults (s : State) : State :=
  { s.setHoldsFromStart with lines := Twelve.all (LineState.start .none) }

/-- R183: the values of a good image stand in their blocks; holds, lines and the mask follow them. -/
def State.takeImage (s : State) (m : List Host.Cell) : State :=
  State.setHoldsFromStart { s with
    globals := loadGlobals fun n => itemHalf m (6 + 2 * (n - 1))
    feeders := Six.of (loadFeeder m)
    classes := { s.classes with classes := Eight.of (loadClass m), banks := Two.of fun b => Six.of (loadBankEntry m b) }
    groups := loadGroups m
    lines := Twelve.of fun l => LineState.start (loadBinding m l)
    link := { s.link with mask := loadMask m } }

/-- R183: a good image: RUNNING, the values taken, enabled feeders and their ports started. -/
def State.loadGood (s : State) : State :=
  ({ s.takeImage s.image with loader := { s.loader with memOp := .none } }).enterRunning

/-- R183: a faulty image: CONFIGURING, the flag set, every item at its default. -/
def State.loadFaulty (s : State) : State :=
  { s.startDefaults with loader := ⟨.configuring, true, .none⟩ }

/-- R181, R183: the load ends with the memory as it stands. A good image posts reports, whose choice at an idle transmitter
may be left for a reply of the same instant (R177); a faulty one posts none. -/
def State.endLoad (s : State) (choiceLeft : Bool) : State :=
  if imageGood s.image then s.asEvent choiceLeft State.loadGood else s.loadFaulty

/-- IMAGE_LOAD_END (R183): the memory has answered; a part with no LOAD in flight is left as it is
(notes/assumptions/2.md). -/
def execImageLoadEnd (changed : Leaving Changed) (s : State) : Host.Outcome State Fault Refusal :=
  .next (if s.live && s.loader.memOp == .load then
    State.endLoad { s with image := memChange s.image changed.value } changed.leave.choice else s)

/-! ## Image Read and Image Write (R186, R187) -/

/-- R186: Image Read refused with VALUE, or taken into service. -/
def answerImageRead (tag : Byte) (offset count : Nat) (s : State) : State × Option Answer :=
  if count = 0 ∨ 64 < count ∨ Config.imageSize < offset + count then s.refuseWith .value
  else
    ({ s with link := { s.link with service := some (.imageRead tag offset count) },
              loader := { s.loader with memOp := .read } }, none)

/-- R168, R187: Image Write refused with LENGTH or VALUE, or taken into service. -/
def answerImageWrite (tag : Byte) (offset : Nat) (bytes : List Byte) (s : State) : State × Option Answer :=
  if bytes.length = 0 ∨ 64 < bytes.length then s.refuseWith .length
  else if Config.imageSize < offset + bytes.length then s.refuseWith .value
  else
    ({ s with link := { s.link with service := some (.imageWrite tag offset bytes) },
              loader := { s.loader with memOp := .write } }, none)

/-- IMAGE_READ (R186). -/
def execImageRead (tag : Byte) (offset : Half) (count : Byte) (s : State) : Host.Outcome State Fault Refusal :=
  .next (s.serve 0x12 tag (answerImageRead tag offset.toNat count.toNat))

/-- IMAGE_WRITE (R187). -/
def execImageWrite (tag : Byte) (offset : Half) (bytes : List Byte) (s : State) : Host.Outcome State Fault Refusal :=
  .next (s.serve 0x13 tag (answerImageWrite tag offset.toNat bytes))

/-- R186, R187: the request leaves service, the memory operation becomes NONE and the reply is formed. -/
def State.endService (s : State) (r : Reply) : State :=
  State.queueReply { s with link := { s.link with service := none }, loader := { s.loader with memOp := .none } } r

/-- IMAGE_FAULT for an Image Read: offset and count, no bytes (R186). -/
def readFault (tag : Byte) (offset count : Nat) : Reply := ⟨0x12, tag, .imageFault, half offset ++ [byteOf count]⟩

/-- IMAGE_FAULT for an Image Write: offset, count and the first failing offset (R187). -/
def writeFault (tag : Byte) (offset count failing : Nat) : Reply :=
  ⟨0x13, tag, .imageFault, half offset ++ [byteOf count] ++ half failing⟩

/-- R187: how many bytes read back match before the first that differs, of those named. -/
def matching : List Byte → List Byte → Nat
  | a :: as, b :: bs => if a = b then matching as bs + 1 else 0
  | _, _ => 0

/-- R187: the reply once all bytes are written and read back. -/
def writeReply (m : List Host.Cell) (tag : Byte) (offset : Nat) (bytes : List Byte) : Reply :=
  let k := matching bytes (memLoad m offset bytes.length)
  if k = bytes.length then ⟨0x13, tag, .ok, half offset ++ [byteOf bytes.length]⟩
  else writeFault tag offset bytes.length (offset + k)

/-- R187: a write that stops after some bytes: those stay as written, and the byte then being written holds a FREE VALUE
(notes/assumptions/8.md). -/
def State.stopWrite (s : State) (offset : Nat) (bytes : List Byte) (written : Nat) : State :=
  let m := memStore s.image offset (bytes.take written)
  if written < bytes.length then
    { s with image := memStore m (offset + written) [Config.freeByte s.freeCount], freeCount := s.freeCount + 1 }
  else { s with image := m }

/-- IMAGE_READ_DONE (R186); with no READ in service the state is left as it is (notes/assumptions/2.md). -/
def execImageReadDone (changed : Changed) (s : State) : Host.Outcome State Fault Refusal :=
  .next (match s.link.service with
    | some (.imageRead tag offset count) =>
      let m := memChange s.image changed
      State.endService { s with image := m }
        ⟨0x12, tag, .ok, half offset ++ [byteOf count] ++ memLoad m offset count⟩
    | some (.imageWrite ..) | some (.restart _) | none => s)

/-- IMAGE_WRITE_DONE (R187); with no WRITE in service the state is left as it is (notes/assumptions/2.md). -/
def execImageWriteDone (changed : Changed) (s : State) : Host.Outcome State Fault Refusal :=
  .next (match s.link.service with
    | some (.imageWrite tag offset bytes) =>
      let m := memChange (memStore s.image offset bytes) changed
      State.endService { s with image := m } (writeReply m tag offset bytes)
    | some (.imageRead ..) | some (.restart _) | none => s)

/-- R187: the memory stops answering a WRITE, `written` bytes written and, when all were, `confirmed` of them read back:
the first failing offset is that of the first byte that differed or was not confirmed. R187 does not say what confirms a
byte: here its matching read-back alone does, so a memory silent during the writing fails at the first byte of the
request and not at the byte whose write went unanswered (DESIGN CHOICE, notes/assumptions/33.md). -/
def State.writeUnanswered (s : State) (tag : Byte) (offset : Nat) (bytes : List Byte) (written confirmed : Nat)
    (changed : Changed) : State :=
  let s' := s.stopWrite offset bytes written
  let m := memChange s'.image changed
  let back := if written < bytes.length then 0 else min confirmed (bytes.length - 1)
  State.endService { s' with image := m }
    (writeFault tag offset bytes.length (offset + matching (bytes.take back) (memLoad m offset back)))

/-- MEMORY_NO_ANSWER (R181, R186, R187), by the memory operation in flight; with none in flight the state is left as it
is (notes/assumptions/2.md). -/
def execMemoryNoAnswer (written confirmed : Nat) (changed : Changed) (s : State) : Host.Outcome State Fault Refusal :=
  .next (match s.link.service with
    | some (.imageRead tag offset count) =>
      State.endService { s with image := memChange s.image changed } (readFault tag offset count)
    | some (.imageWrite tag offset bytes) => s.writeUnanswered tag offset bytes written confirmed changed
    | some (.restart _) | none =>
      if s.live && s.loader.memOp == .load then State.loadFaulty { s with image := memChange s.image changed } else s)

end Sys2Proof.Machine
end

