-- ==== Sys2Proof/Machine/Reset.lean ====
section
/-! DEFINITION. Reset (section 10.2): its three causes, the straps, and the meanings of POWER_UP, RESET_PIN_ASSERTED,
RESET_END and RESTART_RESET. -/

namespace Sys2Proof.Machine

open Sys2Proof

/-- R187: a reset ends an Image Write at once, with no reply. -/
def State.cutWrite (s : State) (written : Nat) : State :=
  match s.link.service with
  | some (.imageWrite _ offset bytes) => s.stopWrite offset bytes written
  | some (.imageRead ..) | some (.restart _) | none => s

/-- R162, R180: every block at its reset values, with any memory operation ended; the image memory, being outside the
part, and the model's own fields stay. -/
def State.resetBlocks (s : State) (written : Nat) : State :=
  let s' := s.cutWrite written
  { State.reset with image := s'.image, freeCount := s'.freeCount, pending := s'.pending }

/-- R180: the reset ends: both straps are read, and the part goes on by IMAGE_SRC. -/
def State.endReset (s : State) (linkRate imageSrc : Bool) : State :=
  let s := { s with inReset := false, straps := ⟨linkRate, imageSrc⟩ }
  if imageSrc then { s.startDefaults with loader := ⟨.configuring, false, .none⟩ }
  else { s with loader := ⟨.loading, false, .load⟩ }

/-- R178: the OK reply of the Restart in service is being sent. -/
def State.sendingRestartOk (s : State) : Bool :=
  match s.link.service, s.link.tx with
  | some (.restart _), some (.reply r) => r.kind == 0x14 && r.status == .ok
  | _, _ => false

/-- POWER_UP (R180): held in reset until power is stable. -/
def execPowerUp (written : Nat) (s : State) : Host.Outcome State Fault Refusal := .next (s.resetBlocks written)

/-- RESET_PIN_ASSERTED (R180): held in reset until the pin is released. -/
def execResetPinAsserted (written : Nat) (s : State) : Host.Outcome State Fault Refusal := .next (s.resetBlocks written)

/-- RESET_END (R180); a part not held in reset is left as it is (notes/assumptions/2.md). -/
def execResetEnd (linkRate imageSrc : Bool) (s : State) : Host.Outcome State Fault Refusal :=
  .next (if s.inReset then s.endReset linkRate imageSrc else s)

/-- RESTART_RESET (R178, R180): the end of the OK reply resets the part, and the reset ends in the same moment. Where no
Restart's OK is being sent the state is left as it is (notes/assumptions/2.md). -/
def execRestartReset (linkRate imageSrc : Bool) (s : State) : Host.Outcome State Fault Refusal :=
  .next (if s.sendingRestartOk then (s.resetBlocks 0).endReset linkRate imageSrc else s)

end Sys2Proof.Machine
end

