-- ==== Sys2Proof/Machine/LinkReceive.lean ====
section
/-! DEFINITION. The receive assembler (R164, R165), the reading of a complete frame as a request (R168, section 11.3), the
end of a transmitted frame (R177), and the meanings of LINK_BYTE_RECEIVED, LINK_GAP_TIMEOUT, UNKNOWN_REQUEST and
TRANSMIT_DONE. -/

namespace Sys2Proof.Machine

open Sys2Proof

/-- A kind byte that is one of the requests, 0x01..0x16 (section 11.2). -/
def namesRequest (kind : Byte) : Bool := 1 ≤ kind.toNat && kind.toNat ≤ 0x16

/-- The rule of a request of a kind with a payload (R168 tests 1 and 2, section 11.3): the accepted lengths are those of
the patterns. `lv` is what a departure that a hold causes leaves. -/
def requestRule (kind tag : Byte) (payload : List Byte) (lv : Leave) : State → State × Option Answer :=
  match kind.toNat with
  | 0x01 => match payload with
    | [] => answerIdentify
    | _ => answerLength
  | 0x02 => match payload with
    | [] => answerStatusQuery
    | _ => answerLength
  | 0x03 => match payload with
    | [f] => answerFeederQuery f
    | _ => answerLength
  | 0x04 => match payload with
    | [hi, lo] => answerEventQuery (halfValue hi lo)
    | _ => answerLength
  | 0x05 => match payload with
    | [] => answerEventList
    | _ => answerLength
  | 0x06 => match payload with
    | [f, op] => fun s =>
      match HoldOp.ofCode? op.toNat with
      | some op => answerHold f op lv s
      | none => s.refuseWith .value
    | _ => answerLength
  | 0x07 => match payload with
    | [i, f, hi, lo] => answerSettingWrite i f (halfValue hi lo)
    | _ => answerLength
  | 0x08 => match payload with
    | [i, f] => answerSettingRead i f
    | _ => answerLength
  | 0x09 => match payload with
    | c :: hi :: lo :: n :: segments => answerClassWrite c (halfValue hi lo) n segments
    | _ => answerLength
  | 0x0A => match payload with
    | [c] => answerClassRead c
    | _ => answerLength
  | 0x0B => match payload with
    | [g, m, l, r] => answerGroupWrite g m l r
    | _ => answerLength
  | 0x0C => match payload with
    | [g] => answerGroupRead g
    | _ => answerLength
  | 0x0D => match payload with
    | [l, c] => answerLineMapWrite l c lv
    | _ => answerLength
  | 0x0E => match payload with
    | [] => answerLineMapRead
    | _ => answerLength
  | 0x0F => match payload with
    | [b] => answerBankSelect b
    | _ => answerLength
  | 0x10 => match payload with
    | [f] => answerFaultClear f
    | _ => answerLength
  | 0x11 => match payload with
    | [g] => answerGroupAcksClear g
    | _ => answerLength
  | 0x12 => match payload with
    | [hi, lo, n] => answerImageRead tag (halfValue hi lo) n.toNat
    | _ => answerLength
  | 0x13 => match payload with
    | hi :: lo :: bytes => answerImageWrite tag (halfValue hi lo) bytes
    | _ => answerLength
  | 0x14 => match payload with
    | [] => answerRestart tag
    | _ => answerLength
  | 0x15 => match payload with
    | [] => answerCompensationEnable
    | _ => answerLength
  | 0x16 => match payload with
    | [m] => answerReportMask m
    | _ => answerLength
  | _ => answerUnknown

/-- R165 to R168: a complete frame with a tag taken by request service. -/
def State.serveFrame (s : State) (kind tag : Byte) (payload : List Byte) (lv : Leave) : State :=
  s.serve kind tag (requestRule kind tag payload lv)

/-- R165: a complete frame's bytes of kind, tag and payload; a frame of length 1 has no tag, is answered with tag 0 and
fails the length test. -/
def State.completeFrame (s : State) (bytes : List Byte) (lv : Leave) : State :=
  match bytes with
  | kind :: tag :: payload => s.serveFrame kind tag payload lv
  | [kind] => s.serve kind 0 (if namesRequest kind then answerLength else answerUnknown)
  | [] => s

/-- R165: the CRC-16 over the length and the bytes of kind, tag and payload matches the check received. -/
def checkMatches (len : Nat) (bytes : List Byte) (hi lo : Byte) : Bool :=
  crc16 (byteOf len :: bytes) == hi ++ lo

/-- R164: the assembler after a byte received without a framing error, and the bytes of a frame it completes. -/
def Assembler.take (a : Assembler) (b : Byte) : Assembler × Option (List Byte) :=
  match a with
  | .hunting => (if b = 0xA5 then .length else .hunting, none)
  | .length => (if 1 ≤ b.toNat ∧ b.toNat ≤ 250 then .body b.toNat [] else .hunting, none)
  | .body len bytes =>
    let bytes := bytes ++ [b]
    (if len ≤ bytes.length then .check len bytes none else .body len bytes, none)
  | .check len bytes none => (.check len bytes (some b), none)
  | .check len bytes (some hi) => (.hunting, if checkMatches len bytes hi b then some bytes else none)

/-- The assembler replaced. -/
def State.setAsm (s : State) (a : Assembler) : State := { s with link := { s.link with asm := a } }

/-- LINK_BYTE_RECEIVED (R164, R165): a byte with a framing error is discarded with the partial frame; nothing is received
while the part is held in reset (R180). -/
def execLinkByteReceived (b : Leaving Byte) (framingError : Bool) (s : State) : Host.Outcome State Fault Refusal :=
  .next (if s.inReset then s
    else if framingError then s.setAsm .hunting
    else
      match s.link.asm.take b.value with
      | (a, some bytes) => (s.setAsm a).completeFrame bytes b.leave
      | (a, none) => s.setAsm a)

/-- LINK_GAP_TIMEOUT (R164): the partial frame is discarded. -/
def execLinkGapTimeout (s : State) : Host.Outcome State Fault Refusal := .next (s.setAsm .hunting)

/-- UNKNOWN_REQUEST (R168): a complete frame taken under R166 to R168; one without a tag is answered with tag 0 (R165). -/
def execUnknownRequest (kind : Byte) (tag : Option Byte) (payload : List Byte) (s : State) :
    Host.Outcome State Fault Refusal :=
  .next (s.completeFrame (match tag with
    | some t => kind :: t :: payload
    | none => [kind]) .nothing)

/-- R177: the transmitter becomes idle and chooses its next frame at once. -/
def Link.finish (l : Link) : Link := Link.choose { l with tx := none }

/-- TRANSMIT_DONE (R177): the frame being sent has ended. The end of a Restart's OK reply resets the part, which is then
held until RESET_END reads the straps (R178, notes/assumptions/15.md). An idle transmitter finishes nothing. -/
def execTransmitDone (s : State) : Host.Outcome State Fault Refusal :=
  .next (if s.sendingRestartOk then s.resetBlocks 0
    else
      match s.link.tx with
      | some _ => { s with link := s.link.finish }
      | none => s)

end Sys2Proof.Machine
end

