-- ==== Sys2Proof/Machine/Sample.lean ====
section
/-! DEFINITION. A sample instant as one command: SAMPLE_SET, and the rows of the table that name a sample instant by what
comes about at it. The order of the blocks inside the instant is that of R5, R50, R73 and R117; where the rules allow
either order, the `Orders` operand chooses (notes/assumptions/1.md). -/

namespace Sys2Proof.Machine

open Sys2Proof

/-! ## The stages of an instant -/

/-- R2: an input beyond the span of its converter is delivered as the nearer end of its range. -/
def SampleSet.ofInput (x : SampleInput) : SampleSet where
  bus := Tri.of fun p => clampInt (-2048) 2047 (x.bus.get p)
  load := Six.of fun f => Tri.of fun p => clampInt (-2048) 2047 ((x.load.get f).get p)
  store := (clampInt 0 1200 x.store).toNat

/-- R93: the timers started within an instant now over lose their mark, since every later sample set counts them; `kept`
names the feeders whose timers keep it (notes/assumptions/5.md). -/
def State.settleTimers (s : State) (kept : Feeder → Bool) : State :=
  let seq (f : Feeder) : Sequencer :=
    if kept f then s.seq.get f
    else { s.seq.get f with timer := (s.seq.get f).timer.map fun t => { t with fresh := false } }
  { s with seq := Six.of seq }

/-- What the previous instant left for a command of its own and none has taken: refusals, GROUP_ABANDON requests,
expiries, acceptances; of the first two, what the orders leave is of this instant, begun by a command before its sample
set. The timers that the expiries and acceptances start belong to the previous instant (notes/assumptions/5.md). -/
def State.takeLeftOver (s : State) (o : Orders) : State :=
  let s := if o.refusals = .atOnce then s.takeRefusals else s
  let s := if o.requests = .atOnce then s.takeGroupRequests else s
  let t := forFeeders (fun f s => if s.anyExpiryDue f then s.expire .nothing f else s) s
  let t := forLines (fun l s => s.acceptLine false .nothing l) t
  t.settleTimers fun f => (t.seq.get f).timer == (s.seq.get f).timer

/-- The previous instant ends before the next sample set: what it left is taken, its reports at an idle transmitter
chosen at once; a choice that the orders leave open is of this instant (R177). -/
def State.closeInstant (s : State) (o : Orders) : State :=
  let t := s.beforeChoice o.choiceLeft fun s => s.takeLeftOver o
  { t with detector := { t.detector with clearedNow := false } }

/-- R1, R93, R100, R117, R153, R167: the values of the instant come into force, the sample set replaces the one held, the
timers count, the injected flags are set and the lines are read. A line that a Line Map Write served at this very instant,
before the sample set, has rebound from an output code to an input code or NONE is read here already, its first reading: R155
starts its reading at the next sample instant and R153 reads every line that is not output-bound at each instant (DESIGN
CHOICE, notes/assumptions/35.md). -/
def State.takeSample (s : State) (x : SampleInput) (o : Orders) : State :=
  let s := forFeeders (fun f s => s.tickSequencer (o.started.get f) f) (s.adopt o.writtenNow)
  let port (f : Feeder) : Port :=
    { s.port.get f with skipSlot := (s.port.get f).fresh && o.started.get f, fresh := false }
  { s with sample := some (SampleSet.ofInput x), port := Six.of port }.readLines x.levels

/-- R14 to R17, R57 to R59, R66: windows, sums, draw and saturation, with the records in force, and the store's
measurement. -/
def State.measure (s : State) (x : SampleSet) : State :=
  let m := (s.magnitude.takeBus s.inForce.globals.nominalPeak x.bus).takeOutputs x.bus s.refsInForce
  let gen (f : Feeder) : Generator :=
    (s.gen.get f).takeSample (s.port.get f).sent.isSome (x.load.get f)
  { s with magnitude := m, gen := Six.of gen }.measureStore x.store

/-- R22: an external trigger weighed by the detector with this instant's sample set: a falling edge to be accepted before
the detector's step on an EXT_TRIGGER line. -/
def State.externalWeighed (s : State) (o : Orders) : Bool :=
  Line.list.any fun l => o.line.get l == .first && (s.lines.get l).triggers

/-- R10, request taken first: the comparator as the onset that makes the request sees it, with the candidate index. -/
def State.comparatorAtCandidate (s : State) (x : SampleSet) : Comparator :=
  s.comparator.next s.inForce.globals (s.tracker.handle x.bus.a).state s.tracker.candidate x.bus

/-- R10: whether an onset of this instant takes the tracker, LOCKED before the sample set, into HOLDING before its own
handling. -/
def State.holdsFirst (s : State) (x : SampleSet) (o : Orders) : Bool :=
  o.holdingFirst && s.tracker.state == .locked && s.detector.state == .clear &&
    (s.onsetCause (s.comparatorAtCandidate x).trips (s.externalWeighed o)).isSome

/-- R11: whether the end that this instant's boundary brings returns the tracker to LOCKED before its own handling. The
boundary and the end are those of the index that HOLDING carries on (notes/assumptions/11.md). -/
def State.locksFirst (s : State) (x : SampleSet) (o : Orders) : Bool :=
  o.lockedFirst && s.tracker.state == .holding && (s.endAt (s.tracker.handle x.bus.a).boundary.isSome).isSome

/-- R5 to R12, R19, R20: the tracker settles the index and state of the instant, and the comparator tests the state that
the tracker's handling of the sample set alone leaves. -/
def State.track (s : State) (x : SampleSet) (o : Orders) : State :=
  let t := s.tracker.handle x.bus.a
  let s' := { s with comparator := s.comparator.next s.inForce.globals t.state t.index x.bus }
  if s.holdsFirst x o then
    { s with comparator := s.comparatorAtCandidate x }.trackerTo
      { s.tracker.advance x.bus.a with state := .holding } .eventOnset
  else if s.locksFirst x o then s'.trackerTo (s.tracker.requestLocked.handle x.bus.a) .eventEnd
  else
    match s.tracker.outcome x.bus.a with
    | some c => s'.trackerTo t c
    | none => { s' with tracker := t }

/-- R13, R18, R58, R61, R71: a boundary of length n declared and handed on: the sums and the accumulators close and the
recharge delay counts. -/
def State.closeHalfCycle (s : State) (n : Nat) : State :=
  let v := s.inForce
  let gen (f : Feeder) : Generator := (s.gen.get f).close (v.feeders.get f).energyScale v.globals.quantum
  { s with tracker := s.tracker.declare, magnitude := s.magnitude.close v.globals.nominalPeak n,
           gen := Six.of gen }.countRecharge

/-- The reference records of some feeders assembled and sent (R118). -/
def State.sendRecords (s : State) (bus : Tri Int) (which : Feeder → Bool) : State :=
  forFeeders (fun f s => if which f then s.sendIfSending f bus else s) s

/-- The reference records that the orders put at one place of the instant (R50, R117). -/
def State.recordsAt (s : State) (x : SampleInput) (o : Orders) (p : RecordPlace) : State :=
  s.sendRecords (SampleSet.ofInput x).bus fun f => o.record.get f == p

/-- The output lines whose code the orders evaluate at one stage of the instant (R154, R160). -/
def State.evaluateAt (s : State) (o : Orders) (p : Stage) : State :=
  s.evaluateOutputs fun c => stageOf o.output c == some p

/-- The acceptances and expiries that the orders put at one place of the instant. Acceptances at one place are taken in
ascending line number, then expiries in ascending feeder number: the rules leave their order free
(notes/assumptions/1.md). -/
def State.takePlaced (s : State) (o : Orders) (p : Place) : State :=
  let lv := if p = .first then o.leave else o.leaveLate
  let s := forLines (fun l s => if o.line.get l = p then s.acceptLine (p == .first) lv l else s) s
  forFeeders (fun f s => if o.expiry.get f = p then s.expire lv f else s) s

/-- R142: the refusals that the orders put between the division of an allocation point and its deliveries, taken by the
group table alone: the GROUP_ABANDON requests they send reach the sequencers after the grants (R73, R88), in `finish`
before the last records, or in a command of their own. That all of them are taken at this one place, and their requests
together, is the model's choice (notes/assumptions/1.md, 16.md). -/
def State.refusalsBetween (s : State) (o : Orders) : State :=
  if o.refusals = .between then s.takeRefusals else s

/-- R21, R22, R24, R27: the sag detector's handling of the instant. `heard` is false for a request for HOLDING that a
tracker in SEEKING has ignored (R10). The records placed there are assembled between a boundary step's t and its releases
and grants (R50). At a boundary the injected flags, delivered, are cleared (R100). -/
def State.detect (s : State) (x : SampleInput) (o : Orders) (boundary external heard : Bool) : State :=
  let stepped (s : State) : State := s.recordsAt x o .stepped
  let between (s : State) : State := s.refusalsBetween o
  let s := match s.detector.state with
    | .clear =>
      let s := stepped s
      match s.onsetCause s.comparator.trips external with
      | some c => s.onset c heard between
      | none => s
    | .active | .dwell =>
      let s := s.updateMinima.levelTest
      if boundary then s.boundaryStep stepped between else stepped s
    | .lockout =>
      let s := stepped s
      if boundary then s.lockoutStep else s
  if boundary then s.clearInjected else s

/-- The instant up to the tracker's handling. Charger enable formed here is formed before the boundary's countdown and
before the onset; formed in `finish` it is formed after both (R70, notes/assumptions/1.md). -/
def State.prepare (s : State) (x : SampleInput) (o : Orders) : State :=
  let s := ((s.closeInstant o).takeSample x o).evaluateAt o .start
  let s := s.measure (SampleSet.ofInput x)
  if o.storeEarly then s.updateStore (SampleSet.ofInput x).store else s

/-- The instant up to the boundary test (R13). -/
def State.tracked (s : State) (x : SampleInput) (o : Orders) : State :=
  (s.prepare x o).track (SampleSet.ofInput x) o

/-- The instant up to the detector's step, for the length n of a boundary declared at it. -/
def State.closing (s : State) (x : SampleInput) (o : Orders) (n : Option Nat) : State :=
  let s := match n with
    | some n => s.closeHalfCycle n
    | none => s
  ((((s.evaluateAt o .tracked).recordsAt x o .first).takePlaced o .first).recordsAt x o .placed).evaluateAt o .placed

/-- The instant after the detector's step. -/
def State.finish (s : State) (x : SampleInput) (o : Orders) : State :=
  let s := ((s.settleGroups o.leaveLate).evaluateAt o .detected).takePlaced o .middle
  let s := s.recordsAt x o .last
  let s := if o.storeEarly then s else s.updateStore (SampleSet.ofInput x).store
  let s := ((s.evaluateAt o .stored).takePlaced o .last).evaluateAt o .last
  (s.settleTimers fun _ => false).settleChoice o.choiceLeft

/-- The state the detector meets at an instant. -/
def State.atDetector (s : State) (x : SampleInput) (o : Orders) : State :=
  let t := s.tracked x o
  t.closing x o t.tracker.boundary

/-- Whether the instant is a boundary (R13). -/
def State.boundaryAt (s : State) (x : SampleInput) (o : Orders) : Bool := (s.tracked x o).tracker.boundary.isSome

/-- R10: whether an onset's request for HOLDING can be heard: not where it is taken first by a tracker in SEEKING. -/
def State.requestHeard (s : State) (x : SampleInput) (o : Orders) : Bool :=
  !(o.holdingFirst && (s.prepare x o).tracker.state == .seeking)

/-- One sample instant, whole. A status record or a request (a hold request, Bank Select, Line Map Write, Fault Clear) is a
command of its own: taken before this one it comes before the instant's acceptances, detector's step, grants and records,
after this one after all of them but those placed apart. That none comes between two of them, for example after a line's
acceptance and before the detector's step, is the model's choice (R50, R73, R117, R150, R159, R167,
notes/assumptions/1.md). So is it that a TRANSMIT_DONE of the instant comes before all of its reports or after all of them,
and that none comes between two of them (R173, R175, R177, notes/assumptions/1.md). -/
def State.instant (s : State) (x : SampleInput) (o : Orders) : State :=
  ((s.atDetector x o).detect x o (s.boundaryAt x o) ((s.tracked x o).externalWeighed o) (s.requestHeard x o)).finish x o

/-! ## The commands -/

/-- SAMPLE_SET (R1): no sample set is taken in LOADING or while the part is held in reset (R180). -/
def execSampleSet (x : SampleInput) (o : Orders) (s : State) : Host.Outcome State Fault Refusal :=
  .next (if s.sampling then s.instant x o else s)

/-- A sample instant named by what comes about at it: where that does not come about, the step does not arise
(notes/assumptions/2.md). -/
def State.instantIf (s : State) (arises : Bool) (x : SampleInput) (o : Orders) : State :=
  if s.sampling && arises then s.instant x o else s

/-- R8, R9: what the tracker's own handling makes of the sample set, unless an onset's request comes first (R10). -/
def State.trackerOutcome (s : State) (x : SampleInput) (o : Orders) : Option TrackerCause :=
  let p := s.prepare x o
  if p.holdsFirst (SampleSet.ofInput x) o then none else p.tracker.outcome (SampleSet.ofInput x).bus.a

/-- TRACKER_MISSES (R8). -/
def execTrackerMisses (x : SampleInput) (o : Orders) (s : State) : Host.Outcome State Fault Refusal :=
  .next (s.instantIf (s.trackerOutcome x o == some .misses) x o)

/-- TRACKER_SILENCE (R9). -/
def execTrackerSilence (x : SampleInput) (o : Orders) (s : State) : Host.Outcome State Fault Refusal :=
  .next (s.instantIf (s.trackerOutcome x o == some .silence) x o)

/-- FAST_TRIP (R20). -/
def execFastTrip (x : SampleInput) (o : Orders) (s : State) : Host.Outcome State Fault Refusal :=
  .next (s.instantIf (s.tracked x o).comparator.trips x o)

/-- RECOVERED (R25). -/
def execRecovered (x : SampleInput) (o : Orders) (s : State) : Host.Outcome State Fault Refusal :=
  .next (s.instantIf ((s.atDetector x o).endAt (s.boundaryAt x o) == some .recovered) x o)

/-- EVENT_LIMIT (R26). -/
def execEventLimit (x : SampleInput) (o : Orders) (s : State) : Host.Outcome State Fault Refusal :=
  .next (s.instantIf ((s.atDetector x o).endAt (s.boundaryAt x o) == some .limit) x o)

/-- LOCKOUT_DWELL_COMPLETE (R27). -/
def execLockoutDwellComplete (x : SampleInput) (o : Orders) (s : State) : Host.Outcome State Fault Refusal :=
  .next (s.instantIf ((s.atDetector x o).detector.state == .lockout && s.boundaryAt x o && (s.atDetector x o).lockoutDone)
    x o)

/-- RECHARGE_DELAY_EXPIRY (R71). -/
def execRechargeDelayExpiry (x : SampleInput) (o : Orders) (s : State) : Host.Outcome State Fault Refusal :=
  .next (s.instantIf (s.boundaryAt x o && (s.tracked x o).store.delay == 1) x o)

end Sys2Proof.Machine
end

