-- ==== Sys2Proof/Machine/Dispatch.lean ====
section
/-! DEFINITION. The dispatch: one arm per command, each one direct call of its meaning. -/

namespace Sys2Proof.Machine

open Sys2Proof

def exec (i : Instr) (s : State) : Host.Outcome State Fault Refusal :=
  match i with
  | .powerUp written => Sys2Proof.Machine.execPowerUp written s
  | .resetPinAsserted written => Sys2Proof.Machine.execResetPinAsserted written s
  | .resetEnd linkRate imageSrc => Sys2Proof.Machine.execResetEnd linkRate imageSrc s
  | .restartReset linkRate imageSrc => Sys2Proof.Machine.execRestartReset linkRate imageSrc s
  | .imageLoadEnd changed => Sys2Proof.Machine.execImageLoadEnd changed s
  | .memoryNoAnswer written confirmed changed => Sys2Proof.Machine.execMemoryNoAnswer written confirmed changed s
  | .sampleSet x o => Sys2Proof.Machine.execSampleSet x o s
  | .trackerMisses x o => Sys2Proof.Machine.execTrackerMisses x o s
  | .trackerSilence x o => Sys2Proof.Machine.execTrackerSilence x o s
  | .fastTrip x o => Sys2Proof.Machine.execFastTrip x o s
  | .recovered x o => Sys2Proof.Machine.execRecovered x o s
  | .eventLimit x o => Sys2Proof.Machine.execEventLimit x o s
  | .lockoutDwellComplete x o => Sys2Proof.Machine.execLockoutDwellComplete x o s
  | .rechargeDelayExpiry x o => Sys2Proof.Machine.execRechargeDelayExpiry x o s
  | .armTimeout f leave => Sys2Proof.Machine.execArmTimeout f leave s
  | .bypassTimerExpiry f leave => Sys2Proof.Machine.execBypassTimerExpiry f leave s
  | .handoverExpiry f => Sys2Proof.Machine.execHandoverExpiry f s
  | .stopTimerExpiry f => Sys2Proof.Machine.execStopTimerExpiry f s
  | .slotExamination f slot leave => Sys2Proof.Machine.execSlotExamination f slot leave s
  | .portUp f slot leave => Sys2Proof.Machine.execPortUp f slot leave s
  | .portLost f slot leave => Sys2Proof.Machine.execPortLost f slot leave s
  | .portRecovered f slot leave => Sys2Proof.Machine.execPortRecovered f slot leave s
  | .lineAccepted l => Sys2Proof.Machine.execLineAccepted l s
  | .linkByteReceived b framingError => Sys2Proof.Machine.execLinkByteReceived b framingError s
  | .linkGapTimeout => Sys2Proof.Machine.execLinkGapTimeout s
  | .unknownRequest kind tag payload => Sys2Proof.Machine.execUnknownRequest kind tag payload s
  | .identify tag => Sys2Proof.Machine.execIdentify tag s
  | .statusQuery tag => Sys2Proof.Machine.execStatusQuery tag s
  | .feederQuery tag feeder => Sys2Proof.Machine.execFeederQuery tag feeder s
  | .eventQuery tag number => Sys2Proof.Machine.execEventQuery tag number s
  | .eventList tag => Sys2Proof.Machine.execEventList tag s
  | .take tag feeder => Sys2Proof.Machine.execTake tag feeder s
  | .drop tag feeder => Sys2Proof.Machine.execDrop tag feeder s
  | .takeIfFree tag feeder => Sys2Proof.Machine.execTakeIfFree tag feeder s
  | .takeIfHeld tag feeder => Sys2Proof.Machine.execTakeIfHeld tag feeder s
  | .forceClear tag feeder => Sys2Proof.Machine.execForceClear tag feeder s
  | .forceFull tag feeder => Sys2Proof.Machine.execForceFull tag feeder s
  | .peek tag feeder => Sys2Proof.Machine.execPeek tag feeder s
  | .settingWrite tag ident feeder value => Sys2Proof.Machine.execSettingWrite tag ident feeder value s
  | .settingWriteLineFreq tag feeder value => Sys2Proof.Machine.execSettingWriteLineFreq tag feeder value s
  | .settingWriteEnabled tag feeder value => Sys2Proof.Machine.execSettingWriteEnabled tag feeder value s
  | .settingRead tag ident feeder => Sys2Proof.Machine.execSettingRead tag ident feeder s
  | .classWrite tag cls immunity count segments => Sys2Proof.Machine.execClassWrite tag cls immunity count segments s
  | .classRead tag cls => Sys2Proof.Machine.execClassRead tag cls s
  | .groupWrite tag group members level requireAll => Sys2Proof.Machine.execGroupWrite tag group members level requireAll s
  | .groupRead tag group => Sys2Proof.Machine.execGroupRead tag group s
  | .lineMapWrite tag line code => Sys2Proof.Machine.execLineMapWrite tag line code s
  | .lineMapRead tag => Sys2Proof.Machine.execLineMapRead tag s
  | .bankSelect tag bank => Sys2Proof.Machine.execBankSelect tag bank s
  | .faultClear tag feeder => Sys2Proof.Machine.execFaultClear tag feeder s
  | .groupAcksClear tag group => Sys2Proof.Machine.execGroupAcksClear tag group s
  | .imageRead tag offset count => Sys2Proof.Machine.execImageRead tag offset count s
  | .imageReadDone changed => Sys2Proof.Machine.execImageReadDone changed s
  | .imageWrite tag offset bytes => Sys2Proof.Machine.execImageWrite tag offset bytes s
  | .imageWriteDone changed => Sys2Proof.Machine.execImageWriteDone changed s
  | .restart tag => Sys2Proof.Machine.execRestart tag s
  | .compensationEnable tag => Sys2Proof.Machine.execCompensationEnable tag s
  | .reportMask tag mask => Sys2Proof.Machine.execReportMask tag mask s
  | .transmitDone => Sys2Proof.Machine.execTransmitDone s

end Sys2Proof.Machine
end

