-- ==== Sys2Proof/WellFormed.lean ====
section
/-! DEFINITION. Which commands can be given at all: the checks an operand must pass to be one the environment can
produce. The machine gives every command a meaning, well-formed or not; a statement that needs one of these facts
names it. -/

namespace Sys2Proof

/-- A frame's payload holds at most 248 bytes (R163). -/
def maxPayload : Nat := 248

/-- The request kinds are 0x01..0x16 (section 11.2). -/
def isRequestKind (k : Byte) : Bool := 1 ≤ k.toNat && k.toNat ≤ 0x16

/-- Bytes of the image memory lie at offsets 0..4095 (R186). -/
def Changed.inMemory (c : Changed) : Bool := c.all fun p => p.1 < 4096

/-- A status record that can have passed over a bridge line holds at least one byte (R120). -/
def Slot.onTheLine (s : Slot) : Bool := s.records.all fun r => !r.bytes.isEmpty

/-- The checks, per command. -/
def Instr.wellFormed : Instr → Bool
  | .powerUp w | .resetPinAsserted w => w ≤ 64
  | .imageLoadEnd c => c.value.inMemory
  | .imageReadDone c | .imageWriteDone c => c.inMemory
  | .memoryNoAnswer w k c => w ≤ 64 && k ≤ w && c.inMemory
  | .slotExamination _ s _ | .portUp _ s _ | .portLost _ s _ | .portRecovered _ s _ => s.onTheLine
  | .unknownRequest k t p =>
    !isRequestKind k && p.length ≤ maxPayload && (t.isSome || p.isEmpty)
  | .settingWrite _ i _ _ => i != 0x01 && i != 0x20
  | .classWrite _ _ _ _ s => 4 + s.length ≤ maxPayload
  | .imageWrite _ _ b => 2 + b.length ≤ maxPayload
  | .resetEnd _ _ | .restartReset _ _ | .sampleSet _ _ | .trackerMisses _ _ | .trackerSilence _ _
  | .fastTrip _ _ | .recovered _ _ | .eventLimit _ _ | .lockoutDwellComplete _ _
  | .rechargeDelayExpiry _ _ | .armTimeout _ _ | .bypassTimerExpiry _ _ | .handoverExpiry _
  | .stopTimerExpiry _ | .lineAccepted _ | .linkByteReceived _ _ | .linkGapTimeout | .identify _
  | .statusQuery _ | .feederQuery _ _ | .eventQuery _ _ | .eventList _ | .take _ _ | .drop _ _
  | .takeIfFree _ _ | .takeIfHeld _ _ | .forceClear _ _ | .forceFull _ _ | .peek _ _
  | .settingWriteLineFreq _ _ _ | .settingWriteEnabled _ _ _ | .settingRead _ _ _ | .classRead _ _
  | .groupWrite _ _ _ _ _ | .groupRead _ _ | .lineMapWrite _ _ _ | .lineMapRead _ | .bankSelect _ _
  | .faultClear _ _ | .groupAcksClear _ _ | .imageRead _ _ _ | .restart _ | .compensationEnable _
  | .reportMask _ _ | .transmitDone => true

end Sys2Proof
end

