-- ==== Sys2Proof/Safety.lean ====
section
/-! DEFINITION. What a safe run keeps, and the terms in which statements speak of the machine: the replies not yet sent, when
a request is served, what the events of past instants have left, what a sample set will bring about, and the frame that
carries each request. -/

namespace Sys2Proof

/-- The kind, tag and payload of the frame that carries a request row (section 11.3); none for the rows that are no
request, and for UNKNOWN_REQUEST. -/
def Instr.request? : Instr → Option (Byte × Byte × List Byte)
  | .identify t => some (0x01, t, [])
  | .statusQuery t => some (0x02, t, [])
  | .feederQuery t f => some (0x03, t, [f])
  | .eventQuery t n => some (0x04, t, Machine.halfBytes n)
  | .eventList t => some (0x05, t, [])
  | .take t f => some (0x06, t, [f.value, 0])
  | .drop t f => some (0x06, t, [f, 1])
  | .takeIfFree t f => some (0x06, t, [f.value, 2])
  | .takeIfHeld t f => some (0x06, t, [f, 3])
  | .forceClear t f => some (0x06, t, [f, 4])
  | .forceFull t f => some (0x06, t, [f.value, 5])
  | .peek t f => some (0x06, t, [f, 6])
  | .settingWrite t i f v => some (0x07, t, [i, f] ++ Machine.halfBytes v)
  | .settingWriteLineFreq t f v => some (0x07, t, [0x01, f] ++ Machine.halfBytes v)
  | .settingWriteEnabled t f v => some (0x07, t, [0x20, f] ++ Machine.halfBytes v)
  | .settingRead t i f => some (0x08, t, [i, f])
  | .classWrite t c m n l => some (0x09, t, [c] ++ Machine.halfBytes m ++ n :: l)
  | .classRead t c => some (0x0A, t, [c])
  | .groupWrite t g m l r => some (0x0B, t, [g, m, l, r])
  | .groupRead t g => some (0x0C, t, [g])
  | .lineMapWrite t l c => some (0x0D, t, [l, c.value])
  | .lineMapRead t => some (0x0E, t, [])
  | .bankSelect t b => some (0x0F, t, [b])
  | .faultClear t f => some (0x10, t, [f])
  | .groupAcksClear t g => some (0x11, t, [g])
  | .imageRead t o n => some (0x12, t, Machine.halfBytes o ++ [n])
  | .imageWrite t o b => some (0x13, t, Machine.halfBytes o ++ b)
  | .restart t => some (0x14, t, [])
  | .compensationEnable t => some (0x15, t, [])
  | .reportMask t m => some (0x16, t, [m])
  | .powerUp _ | .resetPinAsserted _ | .resetEnd _ _ | .restartReset _ _ | .imageLoadEnd _ | .memoryNoAnswer _ _ _
  | .sampleSet _ _ | .trackerMisses _ _ | .trackerSilence _ _ | .fastTrip _ _ | .recovered _ _ | .eventLimit _ _
  | .lockoutDwellComplete _ _ | .rechargeDelayExpiry _ _ | .armTimeout _ _ | .bypassTimerExpiry _ _
  | .handoverExpiry _ | .stopTimerExpiry _ | .slotExamination _ _ _ | .portUp _ _ _ | .portLost _ _ _
  | .portRecovered _ _ _ | .lineAccepted _ | .linkByteReceived _ _ | .linkGapTimeout | .unknownRequest _ _ _
  | .imageReadDone _ | .imageWriteDone _ | .transmitDone => none

/-- R141: what the departure that a request may cause leaves untaken. -/
def Instr.leave : Instr → Leave
  | .take _ x | .takeIfFree _ x | .forceFull _ x | .lineMapWrite _ _ x => x.leave
  | _ => .nothing

/-- The requests that read and change nothing (R45, R134, R149, R161, R170 to R172, section 9.4). -/
def Instr.readsOnly : Instr → Bool
  | .identify _ | .statusQuery _ | .feederQuery _ _ | .eventQuery _ _ | .eventList _ | .peek _ _ | .settingRead _ _ _
  | .classRead _ _ | .groupRead _ _ | .lineMapRead _ => true
  | _ => false

/-- The row of a hold operation (R149); `lv` counts for the three that can make a count nonzero. -/
def Instr.holdRow (op : Machine.HoldOp) (tag feeder : Byte) (lv : Leave) : Instr :=
  match op with
  | .take => .take tag ⟨feeder, lv⟩
  | .drop => .drop tag feeder
  | .takeIfFree => .takeIfFree tag ⟨feeder, lv⟩
  | .takeIfHeld => .takeIfHeld tag feeder
  | .forceClear => .forceClear tag feeder
  | .forceFull => .forceFull tag ⟨feeder, lv⟩
  | .peek => .peek tag feeder

/-- The commands that carry an event of the measured line, a sequencer, a port or a signal line, and no request. -/
def Instr.ofLine : Instr → Bool
  | .sampleSet _ _ | .trackerMisses _ _ | .trackerSilence _ _ | .fastTrip _ _ | .recovered _ _ | .eventLimit _ _
  | .lockoutDwellComplete _ _ | .rechargeDelayExpiry _ _ | .armTimeout _ _ | .bypassTimerExpiry _ _
  | .handoverExpiry _ | .stopTimerExpiry _ | .slotExamination _ _ _ | .portUp _ _ _ | .portLost _ _ _
  | .portRecovered _ _ _ | .lineAccepted _ => true
  | _ => false

/-- The range of a numeric setting, as section 11.7 tabulates it, with the other settings it depends on as they stand;
none for an enumeration. -/
def Machine.SettingId.range (g : Machine.Globals) : Machine.SettingId → Option (Nat × Nat)
  | .nominalPeak => some (256, 2000)
  | .onsetLevel => some (500, min 980 (g.recoveryLevel - 20))
  | .recoveryLevel => some (g.onsetLevel + 20, 990)
  | .recoveryDwell => some (1, 16)
  | .fastFraction => some (0, 15)
  | .fastConfirm => some (1, 8)
  | .eventLimit => some (1, 250)
  | .targetFull => some (900, 1050)
  | .storeCapacitance => some (1, 65535)
  | .storeFloor => some (100, min 1100 (g.storeRated - 50))
  | .storeRated => some (g.storeFloor + 50, min 1200 g.storeMax)
  | .storeWarnSel => some (0, 7)
  | .storeMax => some (g.storeRated, 1200)
  | .quantum => some (1, 65535)
  | .reserve => some (0, 65535)
  | .armTimeout => some (1, 48)
  | .bypassTimeout => some (4, 96)
  | .handover => some (2, 96)
  | .stopTimeout => some (8, 192)
  | .rechargeDelay => some (0, 250)
  | .injLimit => some (0, 2047)
  | .energyScale => some (1, 65535)
  | .onsetForecast => some (1, 65535)
  | .bankLevel _ => some (0, 3)
  | .lineFreq | .allocPolicy | .enabled | .startHeld | .bankClass _ => none

namespace Machine

/-! ## The link -/

/-- The replies not yet wholly sent, oldest first: the one being sent, if it is a reply, then the reply queue (R166,
R177). -/
def Link.waitingReplies (l : Link) : List Reply :=
  match l.tx with
  | some (.reply r) => r :: l.replies
  | some (.report ..) | none => l.replies

/-- A request whose frame completes now is neither discarded nor answered BUSY (R166, R167). -/
def State.takesRequests (s : State) : Prop :=
  s.inReset = false ∧ s.loader.op ≠ .loading ∧ s.link.service = none ∧ s.link.replies.length < 4

/-- `t` has answered `r` and shows nothing else of the request on the link: the reply waits behind those before it, and
what else the link holds is untouched but for a report the transmitter may have taken (R166, R177). -/
def Link.answered (l m : Link) (r : Reply) : Prop :=
  m.waitingReplies = l.waitingReplies ++ [r] ∧ m.asm = l.asm ∧ m.service = l.service ∧ m.mask = l.mask

/-- `t` has answered `r` and neither a report nor the overflow marker has moved: a request that posts nothing. -/
def Link.onlyAnswered (l m : Link) (r : Reply) : Prop :=
  Link.answered l m r ∧ m.reports = l.reports ∧ m.overflow = l.overflow

/-- A state with its link set aside: what a request that only reads must leave alone. -/
def State.butLink (s : State) : State := { s with link := Link.reset }

/-- A state with the sequencers, the groups' course, the open record and the link set aside: what the events of a feeder's
sequencer must leave alone. -/
def State.butCourse (s : State) : State :=
  { s with
    seq := Six.all Sequencer.reset, groupRequests := FeederSet.empty, refusals := [], link := Link.reset,
    groups := Four.of fun g => { Group.default with
      members := (s.groups.get g).members, level := (s.groups.get g).level, requireAll := (s.groups.get g).requireAll },
    detector := { s.detector with record := none } }

/-- A report posted between the links `l` and `m` of a part that is sending a frame: it waits in the queue, or was lost
with the marker set, unless its kind is masked off (R173, R175). -/
def Link.carries (l m : Link) (r : Report) : Prop :=
  l.tx ≠ none → l.mask.getLsbD r.bit = true → r ∈ m.reports ∨ 32 ≤ m.reports.length ∧ m.overflow = true

/-- A link after reports posted in order (R173). -/
def Link.posted (l : Link) (rs : List Report) : Link := rs.foldl Link.post l

/-- Bytes received one after another without a framing error (R164); `lv` is what a departure they cause leaves. -/
def receive (lv : Leave) : List Byte → State → Host.Outcome State Fault Refusal
  | [], s => .next s
  | b :: rest, s =>
    match exec (.linkByteReceived ⟨b, lv⟩ false) s with
    | .next t => receive lv rest t
    | .fault r => .fault r
    | .refused r => .refused r

/-! ## A sample instant seen from before -/

/-- Every event of past instants has been taken: no expiry, acceptance, refusal or GROUP_ABANDON request is left
(notes/assumptions/5.md, 16.md). -/
def State.settled (s : State) : Prop :=
  s.groupRequests = FeederSet.empty ∧ s.refusals = [] ∧ (∀ f, s.anyExpiryDue f = false) ∧
    ∀ l, (s.lines.get l).acceptanceDue = false

/-- The tracker after its own handling of a sample set (R6 to R9). -/
def State.trackerAfter (s : State) (x : SampleInput) : Tracker := s.tracker.handle (SampleSet.ofInput x).bus.a

/-- The global settings that a sample instant uses (R167). -/
def State.globalsAt (s : State) (o : Orders) : Globals := (s.valuesAt o.writtenNow).globals

/-- The magnitudes a sample set forms (R14, R15). -/
def State.magsAfter (s : State) (x : SampleInput) (o : Orders) : Option (Tri Nat) :=
  (s.magnitude.takeBus (s.globalsAt o).nominalPeak (SampleSet.ofInput x).bus).mags

/-- The V_ret a sample set forms (R15, R16). -/
def State.vretAfter (s : State) (x : SampleInput) (o : Orders) : Option Nat :=
  (s.magsAfter x o).map fun m => (readingOf m).vret

/-- The sample set's instant is a boundary (R13). -/
def State.boundaryAfter (s : State) (x : SampleInput) : Bool := (s.trackerAfter x).boundary.isSome

/-- A sample set is taken at this state with nothing of the past left over, the tracker handling it before any request
of the instant (R10, R11). -/
def State.takesSample (s : State) (o : Orders) : Prop :=
  s.sampling = true ∧ s.settled ∧ o.holdingFirst = false ∧ o.lockedFirst = false

/-- The orders of an instant leave its acceptances and expiries to commands of their own. -/
def quiet (o : Orders) : Prop := (∀ l, o.line.get l = .apart) ∧ ∀ f, o.expiry.get f = .apart

/-- R15: y is the per-mille magnitude of a sum of n squares, for NOMINAL_PEAK a. -/
def isPerMille (a sum n y : Nat) : Prop :=
  ∃ r, r ^ 2 ≤ sum / n ∧ sum / n < (r + 1) ^ 2 ∧ y = min ((r * 1414 + a / 2) / a) 1999

/-- The comparator after a sample set (R19, R20). -/
def State.comparatorAfter (s : State) (x : SampleInput) (o : Orders) : Comparator :=
  s.comparator.next (s.globalsAt o) (s.trackerAfter x).state (s.trackerAfter x).index (SampleSet.ofInput x).bus

/-! ## An allocation point seen from before -/

/-- R75, R80, R81, R86: the units of the summary `m` that the candidates of the state `s` form at a point that leaves `t`,
`takes` naming the feeders that are candidates where available: of each ungrouped candidate a unit, with what its grant
makes of it; of no other ungrouped feeder but a participant; of a group in IDLE with a candidate, unless it stands by, one
unit of its available members; of any other group in IDLE none. -/
structure State.FormsCandidateUnits (s t : State) (values : Values) (m : Summary) (takes : Feeder → Prop) : Prop where
  alone : ∀ f, s.groupOf f = none → s.available f = true → takes f →
    ∃ u ∈ m.units, u.group = none ∧ u.candidate = true ∧ u.members.map (·.feeder) = [f] ∧
      u.level = (values.bankEntry f).level ∧
      (∀ a, u.grant.mode = some a → (t.seq.get f).state = .arming ∧ (t.seq.get f).mode = some a) ∧
      (u.grant = .none → (t.seq.get f).state = .standby)
  absent : ∀ f, s.groupOf f = none → s.participant f = false → ¬ (s.available f = true ∧ takes f) →
    ∀ u ∈ m.units, ∀ d ∈ u.members, d.feeder ≠ f
  together : ∀ g, (s.groups.get g).state = .idle →
    let r := s.groups.get g
    let ready := r.members.members.filter s.available
    ((∃ f ∈ ready, takes f) → r.requireAll = false ∨ ready = r.members.members →
      ∃ u ∈ m.units, u.group = some g ∧ u.candidate = true ∧ u.members.map (·.feeder) = ready ∧ u.level = r.level) ∧
    ((∀ f ∈ ready, ¬ takes f) ∨ r.requireAll = true ∧ ready ≠ r.members.members → ∀ u ∈ m.units, u.group ≠ some g)

/-- A unit of a grant list as it enters the division. -/
def UnitGrant.claim (u : UnitGrant) : Claim := ⟨u.group, u.level, u.candidate, u.members⟩

/-- R78, R81 to R85: the grant list of the summary `m` is what the division of its Q_avail under its policy and reserve
makes of its units, which stand in unit order; their needs are the sums over their members, whose floor needs follow R78's
table at the point's V_ret, with the class floors and TARGET_FULL of `values` at t. -/
structure Summary.Divides (m : Summary) (values : Values) (t : Nat) : Prop where
  ordered : m.units.Pairwise fun a b => a.level < b.level ∨ a.level = b.level ∧ a.claim.lowest ≤ b.claim.lowest
  ascending : ∀ u ∈ m.units, u.members.Pairwise fun d e => d.feeder.number < e.feeder.number
  needs : ∀ u ∈ m.units, u.fullNeed = (u.members.map (·.full)).sum ∧ u.floorNeed = (u.members.map (·.floor)).sum
  grants : divide m.policy m.reserve m.available (m.units.map (·.claim)) = m.units.map fun u => (u.claim, u.grant)
  quanta : ∀ u ∈ m.units, u.quanta = match u.grant with
    | .full => u.fullNeed
    | .floor => u.floorNeed
    | .none => 0
  totals : m.granted = (m.units.map (·.quanta)).sum ∧ m.granted + m.unassigned = m.available
  floors : ∀ v, m.vret = some v → ∀ u ∈ m.units, ∀ d ∈ u.members,
    let floor := (values.classOf d.feeder).floorAt t
    let target := values.globals.targetFull
    (floor ≤ v → d.floor = 0) ∧
      (v < floor → v < target → d.floor = min ((d.full * (floor - v) + (target - v) - 1) / (target - v)) d.full) ∧
      (v < floor → target ≤ v → d.floor = d.full)

/-- R85: the budgets that an allocation point of the summary `m` leaves: one for each member of a unit granted FULL or
FLOOR, and none for any other feeder. -/
def State.budgeted (t : State) (m : Summary) : Prop :=
  (∀ u ∈ m.units, ∀ d ∈ u.members, t.arbiter.budgets.get d.feeder = match u.grant with
    | .full => some ⟨d.full, d.floor, d.full, d.measured⟩
    | .floor => some ⟨d.full, d.floor, d.floor, d.measured⟩
    | .none => none) ∧
  ∀ f, (∀ u ∈ m.units, ∀ d ∈ u.members, d.feeder ≠ f) → t.arbiter.budgets.get f = none

/-- A feeder is a member of some unit of a summary. -/
def Summary.names (m : Summary) (f : Feeder) : Prop := ∃ u ∈ m.units, ∃ d ∈ u.members, d.feeder = f

/-- R76: the rows of the table of stood-by reasons, for a feeder that the allocation point of the summary `m` reads in
`s`; `takes` as above. -/
def State.standsBecause (s : State) (m : Summary) (takes : Feeder → Prop) (f : Feeder) : StoodBy → Prop
  | .held => (s.seq.get f).state = .held
  | .faulted => (s.seq.get f).state = .faulted ∨
      (s.seq.get f).state = .standby ∧ (s.seq.get f).barred = false ∧ (s.port.get f).state ≠ .up
  | .barred => (s.seq.get f).state = .releasing ∨
      (s.seq.get f).state = .standby ∧ (s.seq.get f).barred = true ∧ (s.port.get f).state = .up
  | .notNeeded => s.available f = true ∧ ¬ takes f ∧ ¬ m.names f ∧
      ∀ g, s.groupOf f = some g → (s.groups.get g).state = .idle
  | .groupIncomplete => s.available f = true ∧ ¬ m.names f ∧ ∃ g, s.groupOf f = some g ∧
      ((s.groups.get g).state = .idle ∧ takes f ∨
        (s.groups.get g).state ≠ .idle ∧ (s.groups.get g).engaged.get f = false)
  | .starvedAtEntry => s.available f = true ∧
      ∃ u ∈ m.units, u.candidate = true ∧ u.grant = .none ∧ ∃ d ∈ u.members, d.feeder = f

/-- R40, R41, R76, R97: what the allocation point of the summary `m`, taken in `s`, makes of an entry `e` of the record: an
ENGAGED entry stays as it was engaged; one still STOOD_BY becomes ENGAGED in the mode its feeder is granted as a
candidate, or takes the reason of R76's table; and a participant's grant of another mode is its last mode. -/
structure State.WritesEntry (s : State) (m : Summary) (takes : Feeder → Prop) (e d : Entry) : Prop where
  feeder : d.feeder = e.feeder
  stays : e.engaged = true → d.engaged = true ∧ d.firstMode = e.firstMode ∧ d.reason = e.reason
  engages : e.engaged = false → ∀ u ∈ m.units, u.candidate = true → ∀ x ∈ u.members, x.feeder = e.feeder →
    ∀ a, u.grant.mode = some a →
      d.engaged = true ∧ d.firstMode = some a ∧ d.lastMode = some a ∧ d.reason = none
  stands : e.engaged = false → ∀ r, s.standsBecause m takes e.feeder r →
    d.engaged = false ∧ d.reason = some r ∧ d.firstMode = e.firstMode ∧ d.lastMode = e.lastMode
  follows : ∀ u ∈ m.units, u.candidate = false → ∀ x ∈ u.members, x.feeder = e.feeder → ∀ a, u.grant.mode = some a →
    d.lastMode = if (s.seq.get e.feeder).mode = some a then e.lastMode else some a

/-! ## The end of an event, departures and holds seen from before -/

/-- R11, R28, R36, R42, R44, R71, R90, R101, R102, R145: a boundary taken in `s` with the open record `r` ends the event by
the cause `k` and leaves `t`, `c` being the record as it closed. What the instant's own acceptances and expiries could
overtake is said where they are left to commands of their own. -/
structure State.EndsEvent (s t : State) (o : Orders) (r c : Record) (k : EndCause) : Prop where
  detector : t.detector.record = none ∧ t.detector.dwell = 0 ∧ t.detector.t = s.detector.t + 1
  record : c.number = r.number ∧ c.cause = r.cause ∧ c.comp = r.comp ∧ c.onset = r.onset ∧ c.endCause = some k ∧
    c.duration = s.detector.t + 1
  table : t.detector.table = (if s.detector.table.length < 16 then s.detector.table else s.detector.table.drop 1) ++ [c]
  entries : c.entries.length = r.entries.length ∧
    ∀ (i : Nat) e, r.entries[i]? = some e → ∃ d, c.entries[i]? = some d ∧ d.feeder = e.feeder ∧
      (quiet o → d.release = if s.participant e.feeder = true ∧ e.release = none then some k.cause else e.release)
  released : quiet o → ∀ f, s.participant f = true →
    t.seq.get f = { s.seq.get f with
      state := .releasing, phase := some .closing, releaseCause := some k.cause,
      timer := some ⟨.bypass, s.globals.bypassTimeout, false⟩, barred := false, injected := false } ∧
    s.link.carries t.link (.feederState f .releasing (some .closing) (s.seq.get f).mode (some k.cause))
  others : quiet o → ∀ f, s.participant f = false →
    (t.seq.get f).state = (s.seq.get f).state ∧ (t.seq.get f).phase = (s.seq.get f).phase ∧
      (t.seq.get f).mode = (s.seq.get f).mode ∧ (t.seq.get f).releaseCause = (s.seq.get f).releaseCause
  free : ∀ f, t.participant f = false ∧ (t.seq.get f).barred = false
  groups : (∀ g, (t.groups.get g).state = .idle) ∧
    (quiet o → ∀ g, t.groups.get g = { s.groups.get g with state := .idle })
  bank : t.classes.pendingBank = none ∧
    (quiet o → t.classes.activeBank = s.classes.pendingBank.getD s.classes.activeBank)
  store : t.store.delay = s.globals.rechargeDelay
  arbiter : t.arbiter.flags = FeederSet.empty ∧ ∀ f, t.arbiter.budgets.get f = none
  tracker : t.tracker.state ≠ .holding ∧
    (s.tracker.state = .holding → t.tracker.state = .locked ∧ t.tracker.miss = 0 ∧ t.tracker.spacing = 0 ∧
      s.link.carries t.link (.tracker .locked .eventEnd))
  report : s.link.carries t.link (.eventEnd c.number k c.duration c.minimum c.total
    (c.entries.countP fun e => e.verdict != .heldUp))

/-- R138 to R140: the commands that take an engaged feeder out of ARMING or INJECTING on its own account, each with the
abandon cause that it gives the feeder's group; `lv` is what the departure leaves untaken. -/
inductive State.Departs (s : State) (f : Feeder) (lv : Leave) : Instr → AbandonCause → Prop where
  | armTimeout : s.expiryDue f .arm = true → (s.seq.get f).state = .arming →
      s.Departs f lv (.armTimeout f lv) .memberRefused
  | bypassStuck : s.expiryDue f .bypass = true → (s.seq.get f).state = .injecting →
      s.Departs f lv (.bypassTimerExpiry f lv) .memberReleased
  | moduleStops (slot : Slot) (st : ModuleStatus) : s.examines f slot.entry = true →
      goodRecord slot.records = some st → s.participant f = true →
      st.module = .fault ∨ (s.seq.get f).state = .injecting ∧ st.module ≠ .running →
      s.Departs f lv (.slotExamination f slot lv) .memberRefused
  | portLost (slot : Slot) : s.examines f slot.entry = true → goodRecord slot.records = none →
      (s.port.get f).state = .up → 2 ≤ (s.port.get f).miss → s.participant f = true →
      s.Departs f lv (.portLost f slot lv) .memberRefused
  | holdRequest (op : HoldOp) (tag b : Byte) : s.takesRequests → Feeder.ofNumber? b.toNat = some f →
      op = .take ∨ op = .takeIfFree ∨ op = .forceFull → s.holds.get f = 0 → s.participant f = true →
      s.Departs f lv (Instr.holdRow op tag b lv) .memberReleased
  | holdLine (l : Line) : (s.lines.get l).acceptanceDue = true → (s.lines.get l).sampled = some false →
      (s.lines.get l).binding = .hold f → s.holds.get f = 0 → s.participant f = true →
      s.Departs f lv (.lineAccepted ⟨l, lv⟩) .memberReleased
  | holdBinding (tag b code : Byte) (l : Line) : s.takesRequests → Line.ofNumber? b.toNat = some l →
      EventCode.ofCode? code.toNat = some (.hold f) → (s.lines.get l).debounced = some false →
      (s.lines.get l).binding ≠ .hold f → (∀ h, (s.lines.get l).binding = .hold h → s.holds.get h ≠ 1) →
      s.holds.get f = 0 → s.participant f = true →
      s.Departs f lv (.lineMapWrite tag b ⟨code, lv⟩) .memberReleased

/-- R149, R156, R157: the commands that change a feeder's hold count from 0 to nonzero (true) or back to 0 (false); `lv` is
what the departure of a hold taken leaves untaken. A line rebound from one HOLD code to another moves two counts: it is
listed as freeing the one where the departure that the other may cause is left, or is none. -/
inductive State.TurnsHold (s : State) (f : Feeder) (lv : Leave) : Instr → Bool → Prop where
  | requestTakes (op : HoldOp) (tag b : Byte) : s.takesRequests → Feeder.ofNumber? b.toNat = some f →
      op = .take ∨ op = .takeIfFree ∨ op = .forceFull → s.holds.get f = 0 →
      s.TurnsHold f lv (Instr.holdRow op tag b lv) true
  | requestFrees (op : HoldOp) (tag b : Byte) : s.takesRequests → Feeder.ofNumber? b.toNat = some f →
      op = .drop ∧ s.holds.get f = 1 ∨ op = .forceClear ∧ s.holds.get f ≠ 0 →
      s.TurnsHold f lv (Instr.holdRow op tag b lv) false
  | lineTakes (l : Line) : (s.lines.get l).acceptanceDue = true → (s.lines.get l).binding = .hold f →
      (s.lines.get l).sampled = some false → s.holds.get f = 0 → s.TurnsHold f lv (.lineAccepted ⟨l, lv⟩) true
  | lineFrees (l : Line) : (s.lines.get l).acceptanceDue = true → (s.lines.get l).binding = .hold f →
      (s.lines.get l).sampled = some true → (s.lines.get l).debounced = some false → s.holds.get f = 1 →
      s.TurnsHold f lv (.lineAccepted ⟨l, lv⟩) false
  | bindingTakes (tag b code : Byte) (l : Line) : s.takesRequests → Line.ofNumber? b.toNat = some l →
      EventCode.ofCode? code.toNat = some (.hold f) → (s.lines.get l).debounced = some false →
      (s.lines.get l).binding ≠ .hold f → s.holds.get f = 0 → s.TurnsHold f lv (.lineMapWrite tag b ⟨code, lv⟩) true
  | bindingFrees (tag b code : Byte) (l : Line) (c : EventCode) : s.takesRequests → Line.ofNumber? b.toNat = some l →
      EventCode.ofCode? code.toNat = some c → c ≠ .hold f → (s.lines.get l).debounced = some false →
      (s.lines.get l).binding = .hold f → s.holds.get f = 1 →
      (∀ h, c = .hold h → s.holds.get h ≠ 0 ∨ s.participant h = false ∨ lv.refusal = true ∨ lv.requests = true) →
      s.TurnsHold f lv (.lineMapWrite tag b ⟨code, lv⟩) false

/-! ## Invariants -/

/-- A class as R31 keeps it: ranges, limits strictly ascending, floors rising and at most the immunity. -/
def EnvClass.wf (c : EnvClass) : Prop :=
  500 ≤ c.immunity ∧ c.immunity ≤ 1000 ∧ c.segments.length ≤ 6 ∧
    (∀ g ∈ c.segments, 1 ≤ g.limit ∧ g.limit ≤ 250 ∧ g.floor ≤ c.immunity) ∧
    c.segments.Pairwise (fun a b => a.limit < b.limit ∧ a.floor ≤ b.floor)

/-- The ranges of R29 and R67 that depend on one another. -/
def Globals.wf (g : Globals) : Prop :=
  500 ≤ g.onsetLevel ∧ g.onsetLevel + 20 ≤ g.recoveryLevel ∧ g.recoveryLevel ≤ 990 ∧
    100 ≤ g.storeFloor ∧ g.storeFloor + 50 ≤ g.storeRated ∧ g.storeRated ≤ g.storeMax ∧ g.storeMax ≤ 1200

/-- No feeder is a member of more than one group (R132). -/
def groupsDisjoint (v : Four Group) : Prop :=
  ∀ g h : GroupNo, ∀ f : Feeder, (v.get g).members.get f = true → (v.get h).members.get f = true → g = h

/-- R80, R136: the engaged set of a group lies within its members. -/
def engagedWithin (v : Four Group) : Prop :=
  ∀ (g : GroupNo) (f : Feeder), (v.get g).engaged.get f = true → (v.get g).members.get f = true

/-- What every run keeps: the image memory in canonical form and within its 4096 bytes; the bounds of the queues, the
record table and the hold counts; the settings, classes and groups in the order their rules keep; and an open record
exactly while an event is open. -/
structure State.Sound (s : State) : Prop where
  memory : memWf s.image = true ∧ ∀ c ∈ s.image, c.1 < Config.imageSize
  reports : s.link.reports.length ≤ 32
  replies : s.link.replies.length ≤ 4 ∧ (s.replyOwed = true → s.link.replies.length ≤ 3)
  table : s.detector.table.length ≤ 16
  holds : ∀ f, s.holds.get f ≤ 255
  settings : s.globals.wf
  classes : ∀ c, (s.classes.classes.get c).wf
  groups : groupsDisjoint s.groups
  record : s.detector.record.isSome = s.eventOpen

/-- R106, with R95 and R184: a feeder in STANDBY, ARMING or INJECTING has no hold on it, one in HELD has; outside RUNNING
every feeder is OFFLINE; and the loader reads an image in LOADING alone (R179). -/
structure State.HoldsObeyed (s : State) : Prop where
  free : ∀ f, (s.seq.get f).state = .standby ∨ (s.seq.get f).state = .arming ∨ (s.seq.get f).state = .injecting →
    s.holds.get f = 0
  held : ∀ f, (s.seq.get f).state = .held → s.holds.get f ≠ 0
  offline : s.loader.op ≠ .running → ∀ f, (s.seq.get f).state = .offline
  loading : s.inReset = true ∨ s.loader.memOp = .load → s.loader.op = .loading

end Machine

end Sys2Proof
end

