-- ==== Sys2Proof/Certificates/Slice0/Obligations.lean ====
section
/-! DEFINITION. The statements for the provers, in the order of the document's chapters: the queue and resets, the image,
sample instants, the sequencers, ports and lines, the link, the requests, the arithmetic, and what every run keeps. -/

open Sys2Proof
open Sys2Proof.Machine

/-! ## The queue, power-up, reset and the image loader (chapter 10) -/

/-- One step takes the command at the front of the queue and executes it on the state with the queue's rest. That an
empty queue idles is the model's choice (notes/assumptions/4.md). -/
def Obligations.StepTakesFrontCommand : Prop :=
  (∀ (c : Instr) (rest : List Instr) (s : State), s.pending = c :: rest → step s = exec c { s with pending := rest }) ∧
    ∀ s : State, s.pending = [] → step s = .next s

/-- The reset tables of chapters 1 to 10 and the defaults of sections 2.2, 2.3 and 11.7, whole. The operating state, the
memory operation and the strap levels of the held part are the model's choice (notes/assumptions/10.md). -/
def Obligations.ResetStateHoldsResetValues : Prop :=
  let s := State.reset
  (s.tracker.state = .seeking ∧ s.tracker.index = 0 ∧ s.tracker.miss = 0 ∧ s.tracker.prevA = none ∧
      s.tracker.remembered = false ∧ s.tracker.spacing = 0 ∧ s.tracker.boundarySpacing = 0 ∧
      s.tracker.boundaryDeclared = false) ∧
    (s.sample = none ∧ (∀ p, s.magnitude.windows.get p = ⟨[], 0⟩) ∧ s.magnitude.mags = none ∧
      s.magnitude.sums = Six.all (Tri.all 0) ∧ s.magnitude.delivered = none ∧ s.comparator.run = Tri.all 0) ∧
    (s.detector.state = .clear ∧ s.detector.t = 0 ∧ s.detector.dwell = 0 ∧ s.detector.record = none ∧
      s.detector.table = [] ∧ s.detector.nextNumber = 1) ∧
    (∀ f, (s.gen.get f).refs = Tri.all 0 ∧ (s.gen.get f).tag = .other ∧ (s.gen.get f).draw = 0 ∧
      (s.gen.get f).satCount = 0 ∧ (s.gen.get f).closedW = 0 ∧ (s.gen.get f).closedQ = 0 ∧ (s.gen.get f).closedSat = 0) ∧
    s.store = {
      volts := none, energy := 0, quanta := 0, warning := false, overVoltage := false, charger := false, delay := 0 } ∧
    s.arbiter = { summary := none, budgets := Six.all none, flags := FeederSet.empty } ∧
    (∀ f, s.seq.get f = {
        state := .offline, phase := none, mode := none, barred := false, timer := none,
        releaseCause := none, faultCause := none, followOn := none, injected := false } ∧
      (s.port.get f).state = .quiet ∧ (s.port.get f).run = 0 ∧ (s.port.get f).miss = 0 ∧ (s.port.get f).status = none ∧
      (s.port.get f).sent = none ∧ s.holds.get f = 0) ∧
    (∀ g, s.groups.get g = {
      members := FeederSet.empty, level := 3, requireAll := false, state := .idle,
      engaged := FeederSet.empty, acknowledged := FeederSet.empty, refused := FeederSet.empty, abandonCause := none }) ∧
    (∀ l, s.lines.get l = { binding := .none, sampled := none, run := none, debounced := none, driven := none }) ∧
    (s.link.asm = .hunting ∧ s.link.service = none ∧ s.link.replies = [] ∧ s.link.reports = [] ∧
      s.link.overflow = false ∧ s.link.mask = 0b1111011 ∧ s.link.tx = none) ∧
    (s.loader.imageFault = false ∧ s.loader.op = .loading ∧ s.loader.memOp = .none ∧ s.inReset = true) ∧
    s.globals = {
      lineFreq := .hz50, nominalPeak := 1600, onsetLevel := 900, recoveryLevel := 950, recoveryDwell := 2,
      fastFraction := 4, fastConfirm := 3, eventLimit := 100, targetFull := 1000, storeCapacitance := 5000,
      storeFloor := 450, storeRated := 800, storeWarnSel := 4, storeMax := 880, quantum := 100, reserve := 0,
      allocPolicy := .floorFirst, armTimeout := 6, bypassTimeout := 24, handover := 12, stopTimeout := 48,
      rechargeDelay := 10 } ∧
    (∀ f, s.feeders.get f =
      { enabled := false, injLimit := 800, energyScale := 194, onsetForecast := 10, startHeld := false }) ∧
    (s.classes.classes.get .c0 = ⟨850, []⟩ ∧ (∀ c, c ≠ .c0 → s.classes.classes.get c = ⟨1000, []⟩) ∧
      (∀ b f, (s.classes.banks.get b).get f = ⟨.c0, 3⟩) ∧ s.classes.activeBank = .b0 ∧ s.classes.pendingBank = none)

/-- R180, R187: POWER_UP and RESET_PIN_ASSERTED hold every block at its reset values. The image memory lies outside the part;
a reset during an Image Write ends it at once, the byte being written then holding a free value. The operating state
LOADING, the memory operation NONE and the low straps of the held part are the model's choice
(notes/assumptions/10.md). -/
def Obligations.PowerUpAndResetPinHoldEveryBlock : Prop :=
  (∀ (s : State) (w : Nat), (∀ tag offset bytes, s.link.service ≠ some (.imageWrite tag offset bytes)) →
     exec (.powerUp w) s =
         .next { State.reset with image := s.image, freeCount := s.freeCount, pending := s.pending } ∧
       exec (.resetPinAsserted w) s =
         .next { State.reset with image := s.image, freeCount := s.freeCount, pending := s.pending }) ∧
  (∀ (s : State) (w : Nat) (tag : Byte) (offset : Nat) (bytes : List Byte),
     s.link.service = some (.imageWrite tag offset bytes) → memWf s.image = true →
     offset + bytes.length ≤ 4096 →
     ∃ t, exec (.powerUp w) s = .next t ∧ exec (.resetPinAsserted w) s = .next t ∧
       t = { State.reset with image := t.image, freeCount := t.freeCount, pending := s.pending } ∧
       memWf t.image = true ∧ (∀ i b, i < w → bytes[i]? = some b → memRead t.image (offset + i) = b) ∧
       ∀ a, a < offset ∨ offset + min (w + 1) bytes.length ≤ a → memRead t.image a = memRead s.image a)

/-- R180: the straps are read and the part goes on by IMAGE_SRC, from the held state. -/
def Obligations.ResetEndGoesOnByImageSource : Prop :=
  ∀ (s : State) (rate : Bool), s.inReset = true →
    exec (.resetEnd rate false) s =
        .next { s with inReset := false, straps := ⟨rate, false⟩, loader := ⟨.loading, false, .load⟩ } ∧
      exec (.resetEnd rate true) s =
        .next { s with
          inReset := false, straps := ⟨rate, true⟩, loader := ⟨.configuring, false, .none⟩
          holds := Six.of fun f => if (s.feeders.get f).startHeld then 1 else 0
          lines := Twelve.all ⟨.none, none, none, none, none⟩ }

/-- R178: the end of a Restart's OK reply resets the part as the RESET pin does; RESTART_RESET is that reset with its end.
That the end of the reply leaves the part held until RESET_END is the model's reading (notes/assumptions/15.md); the
operating state and the straps of the held part are its choice (notes/assumptions/10.md). -/
def Obligations.RestartResetsAsTheResetPin : Prop :=
  ∀ (s : State) (tag : Byte) (r : Reply) (rate src : Bool),
    s.link.service = some (.restart tag) → s.link.tx = some (.reply r) → r.kind = 0x14 → r.status = .ok →
    ∃ t, exec (.resetPinAsserted 0) s = .next t ∧ exec .transmitDone s = .next t ∧
      t = { State.reset with image := s.image, freeCount := s.freeCount, pending := s.pending } ∧
      ∃ u, exec (.resetEnd rate src) t = .next u ∧ exec (.restartReset rate src) s = .next u

/-- R181 to R183, R33, R133, R147, R177, R191: the end of a load, faulty or good, by the memory as it stands. `byte` and `pair`
read an item of one or two bytes, absent when it lies wholly or partly at or beyond the total length. -/
def Obligations.ImageLoadEndSettlesTheOperatingState : Prop :=
  ∀ (s : State) (changed : Changed) (lv : Leave), s.inReset = false → s.loader.memOp = .load →
    let m := memChange s.image changed
    let at_ (k : Nat) : Nat := (memRead m k).toNat
    let total := 256 * at_ 2 + at_ 3
    let good := at_ 0 = 0x5A ∧ at_ 1 = 0xC3 ∧ 16 ≤ total ∧ total ≤ 4096 ∧
      (crc16 (memLoad m 6 (total - 6))).toNat = 256 * at_ 4 + at_ 5
    let byte (k : Nat) : Option Nat := if k + 1 ≤ total then some (at_ k) else none
    let pair (k : Nat) : Option Nat := if k + 2 ≤ total then some (256 * at_ k + at_ (k + 1)) else none
    (¬ good → exec (.imageLoadEnd ⟨changed, lv⟩) s = .next { s with
        image := m, loader := ⟨.configuring, true, .none⟩
        holds := Six.of fun f => if (s.feeders.get f).startHeld then 1 else 0
        lines := Twelve.all ⟨.none, none, none, none, none⟩ }) ∧
    (good → ∃ t, exec (.imageLoadEnd ⟨changed, lv⟩) s = .next t ∧
      t.loader = ⟨.running, s.loader.imageFault, .none⟩ ∧ t.image = m ∧
      t.globals = (loadGlobals fun n => pair (6 + 2 * (n - 1))) ∧
      (∀ f, let base := 51 + 8 * (f.number - 1)
        t.feeders.get f = {
          enabled := decide (byte base = some 1)
          injLimit := ((pair (base + 1)).map fun n => min n 2047).getD 800
          energyScale := ((pair (base + 3)).map fun n => max n 1).getD 194
          onsetForecast := ((pair (base + 5)).map fun n => max n 1).getD 10
          startHeld := decide (byte (base + 7) = some 1) } ∧
        t.holds.get f = (if (t.feeders.get f).startHeld then 1 else 0) ∧
        ((t.feeders.get f).enabled = true →
          (t.seq.get f).state = (if (t.feeders.get f).startHeld then .held else .standby) ∧
          (t.port.get f).state = .waiting ∧ (t.port.get f).run = 0 ∧ (t.port.get f).miss = 0 ∧
          (t.port.get f).status = none) ∧
        ((t.feeders.get f).enabled = false → t.seq.get f = s.seq.get f ∧ t.port.get f = s.port.get f)) ∧
      (∀ c, let base := 99 + 21 * c.number
        let count := min (at_ (base + 2)) 6
        let slot (i : Nat) : Nat := max 1 (min (at_ (base + 3 + 3 * i)) 250)
        let k := t.classes.classes.get c
        (total < base + 21 → k = if c = .c0 then ⟨850, []⟩ else ⟨1000, []⟩) ∧
        (base + 21 ≤ total → k.wf ∧ k.immunity = max 500 (min (256 * at_ base + at_ (base + 1)) 1000) ∧
          k.segments.length ≤ count ∧
          (k.segments.length < count → 0 < k.segments.length ∧
            slot k.segments.length ≤ slot (k.segments.length - 1)) ∧
          ∀ i g, k.segments[i]? = some g → g.limit = slot i ∧
            g.floor = min (max (if i = 0 then 0 else ((k.segments[i - 1]?).map (·.floor)).getD 0)
              (min (256 * at_ (base + 4 + 3 * i) + at_ (base + 5 + 3 * i)) 1000)) k.immunity)) ∧
      (∀ b f, let base := 291 + 12 * b.number + 2 * (f.number - 1)
        let e := (t.classes.banks.get b).get f
        (total < base + 2 → e = ⟨.c0, 3⟩) ∧
        (base + 2 ≤ total → e.cls.number = (if at_ base < 8 then at_ base else 0) ∧ e.level = min (at_ (base + 1)) 3)) ∧
      t.classes.activeBank = s.classes.activeBank ∧
      (∀ g, let base := 267 + 3 * (g.number - 1)
        let r := t.groups.get g
        (total < base + 3 → r = Group.default) ∧
        (base + 3 ≤ total →
          r = { Group.default with
            members := r.members, level := min (at_ (base + 1)) 3, requireAll := decide (at_ (base + 2) = 1) } ∧
          ∀ f, r.members.get f = true ↔ (memRead m base).getLsbD (f.number - 1) = true ∧
            ∀ h, h.number < g.number → (t.groups.get h).members.get f = false)) ∧
      (∀ l, (t.lines.get l).binding = ((byte (278 + l.number)).bind EventCode.ofCode?).getD .none ∧
        (t.lines.get l).sampled = none ∧ (t.lines.get l).debounced = none ∧ (t.lines.get l).run = none) ∧
      t.link.mask = ((byte 50).map (BitVec.ofNat 7)).getD 0b1111011 ∧
      t.link.waitingReplies = s.link.waitingReplies ∧ t.link.service = s.link.service ∧
      (lv.choice = true → t.link.tx = s.link.tx) ∧ t.tracker = s.tracker ∧ t.magnitude = s.magnitude ∧ t.detector = s.detector ∧ t.store = s.store ∧
      t.arbiter = s.arbiter ∧ t.inReset = false ∧ t.straps = s.straps ∧ t.pending = s.pending)

/-- R29, R67, R133, R182, section 11.7: whatever the items of a good image, each loaded number lies in its range, the levels
and the store voltages stand in order, a number is loaded as the nearest value of its range and an enumeration in its set
as it is, and what is absent or outside its set takes its default. That the dependent clamps bind absent items as well as
loaded ones is the model's reading (notes/assumptions/17.md). -/
def Obligations.LoadedSettingsLieInTheirRanges : Prop :=
  (∀ v : Nat → Option Nat, let g := loadGlobals v
    let value (id : SettingId) : Nat := State.settingValue { State.reset with globals := g } id .f1
    let dflt (id : SettingId) : Nat := State.reset.settingValue id .f1
    g.wf ∧ g.storeFloor ≤ 1100 ∧
      ∀ k id, SettingId.ofCode? k = some id → id.perFeeder = false →
        (∀ low high, id.range g = some (low, high) →
          low ≤ value id ∧ value id ≤ high ∧ ∀ n, v k = some n → value id = max low (min high n)) ∧
        (∀ n, v k = some n → id.range g = none → value id = if id.valueInSet n then n else dflt id) ∧
        (v k = none → id ≠ .onsetLevel → id ≠ .storeRated → id ≠ .storeMax → value id = dflt id)) ∧
    ∀ m, (∀ f, (loadFeeder m f).injLimit ≤ 2047 ∧ 1 ≤ (loadFeeder m f).energyScale ∧
        (loadFeeder m f).energyScale ≤ 65535 ∧ 1 ≤ (loadFeeder m f).onsetForecast ∧
        (loadFeeder m f).onsetForecast ≤ 65535 ∧ ∀ b, (loadBankEntry m b f).level ≤ 3) ∧
      (∀ c, (loadClass m c).wf) ∧ ∀ g, ((loadGroups m).get g).level ≤ 3

/-- R181, R186, R187: the memory gives no answer, by the operation in flight. That no byte of a WRITE is confirmed before it
is read back, so that a memory silent during the writing fails at the first byte, is the model's reading
(notes/assumptions/33.md). -/
def Obligations.MemoryNoAnswerEndsTheOperation : Prop :=
  (∀ (s : State) (w k : Nat) (changed : Changed),
    s.inReset = false → s.loader.memOp = .load → s.link.service = none →
    exec (.memoryNoAnswer w k changed) s = .next { s with
      image := memChange s.image changed, loader := ⟨.configuring, true, .none⟩
      holds := Six.of fun f => if (s.feeders.get f).startHeld then 1 else 0
      lines := Twelve.all ⟨.none, none, none, none, none⟩ }) ∧
  (∀ (s : State) (w k : Nat) (changed : Changed) (tag : Byte) (offset count : Nat),
    s.link.service = some (.imageRead tag offset count) →
    ∃ t, exec (.memoryNoAnswer w k changed) s = .next t ∧
      t.butLink = State.butLink { s with
        image := memChange s.image changed, loader := { s.loader with memOp := .none } } ∧
      t.link.service = none ∧ t.link.asm = s.link.asm ∧ t.link.mask = s.link.mask ∧
      t.link.waitingReplies =
        s.link.waitingReplies ++ [⟨0x12, tag, .imageFault, half offset ++ [byteOf count]⟩]) ∧
  (∀ (s : State) (w k : Nat) (tag : Byte) (offset : Nat) (bytes : List Byte),
    s.link.service = some (.imageWrite tag offset bytes) → memWf s.image = true → offset + bytes.length ≤ 4096 →
    w ≤ bytes.length → k < bytes.length → (w < bytes.length → k = 0) →
    ∃ t, exec (.memoryNoAnswer w k []) s = .next t ∧
      t.loader = { s.loader with memOp := .none } ∧ t.link.service = none ∧ memWf t.image = true ∧
      t.link.waitingReplies = s.link.waitingReplies ++
        [⟨0x13, tag, .imageFault, half offset ++ [byteOf bytes.length] ++ half (offset + k)⟩] ∧
      (∀ i b, i < w → bytes[i]? = some b → memRead t.image (offset + i) = b) ∧
      (∀ a, a < offset ∨ offset + min (w + 1) bytes.length ≤ a → memRead t.image a = memRead s.image a) ∧
      t.globals = s.globals ∧ t.feeders = s.feeders ∧ t.classes = s.classes ∧ t.groups = s.groups ∧
      t.lines = s.lines ∧ t.seq = s.seq ∧ t.holds = s.holds)

/-- R168, R186, R187: Image Read and Image Write refused, or taken into service with no reply yet. -/
def Obligations.ImageRequestsAreRefusedOrTakenIntoService : Prop :=
  (∀ (s : State) (tag : Byte) (offset : Half) (count : Byte), s.takesRequests →
    (count.toNat = 0 ∨ 64 < count.toNat ∨ 4096 < offset.toNat + count.toNat →
      ∃ t, exec (.imageRead tag offset count) s = .next t ∧ t.butLink = s.butLink ∧
        Link.onlyAnswered s.link t.link ⟨0x12, tag, .value, []⟩) ∧
    (1 ≤ count.toNat → count.toNat ≤ 64 → offset.toNat + count.toNat ≤ 4096 →
      exec (.imageRead tag offset count) s = .next { s with
        loader := { s.loader with memOp := .read }
        link := { s.link with service := some (.imageRead tag offset.toNat count.toNat) } })) ∧
  ∀ (s : State) (tag : Byte) (offset : Half) (bytes : List Byte), s.takesRequests →
    (bytes.length = 0 ∨ 64 < bytes.length →
      ∃ t, exec (.imageWrite tag offset bytes) s = .next t ∧ t.butLink = s.butLink ∧
        Link.onlyAnswered s.link t.link ⟨0x13, tag, .length, []⟩) ∧
    (1 ≤ bytes.length → bytes.length ≤ 64 → 4096 < offset.toNat + bytes.length →
      ∃ t, exec (.imageWrite tag offset bytes) s = .next t ∧ t.butLink = s.butLink ∧
        Link.onlyAnswered s.link t.link ⟨0x13, tag, .value, []⟩) ∧
    (1 ≤ bytes.length → bytes.length ≤ 64 → offset.toNat + bytes.length ≤ 4096 →
      exec (.imageWrite tag offset bytes) s = .next { s with
        loader := { s.loader with memOp := .write }
        link := { s.link with service := some (.imageWrite tag offset.toNat bytes) } })

/-- R186, R187, IMAGE_READ_DONE and IMAGE_WRITE_DONE. `changed` are bytes that no longer hold what was written
(notes/assumptions/7.md). -/
def Obligations.ImageCommandsEndWithTheirReply : Prop :=
  (∀ (s : State) (changed : Changed) (tag : Byte) (offset count : Nat),
     s.link.service = some (.imageRead tag offset count) →
     let m := memChange s.image changed
     ∃ t, exec (.imageReadDone changed) s = .next t ∧
       t.butLink = State.butLink { s with image := m, loader := { s.loader with memOp := .none } } ∧
       t.link.service = none ∧ t.link.asm = s.link.asm ∧ t.link.mask = s.link.mask ∧
       t.link.reports = s.link.reports ∧
       t.link.waitingReplies = s.link.waitingReplies ++
         [⟨0x12, tag, .ok, half offset ++ [byteOf count] ++
           (List.range count).map fun i => memRead m (offset + i)⟩]) ∧
  (∀ (s : State) (tag : Byte) (offset : Nat) (bytes : List Byte),
     s.link.service = some (.imageWrite tag offset bytes) → memWf s.image = true → offset + bytes.length ≤ 4096 →
     (∃ t, exec (.imageWriteDone []) s = .next t ∧
       { t with image := s.image, loader := s.loader, link := s.link } = s ∧
       t.loader = { s.loader with memOp := .none } ∧ t.link.service = none ∧ t.link.reports = s.link.reports ∧
       t.link.waitingReplies = s.link.waitingReplies ++
         [⟨0x13, tag, .ok, half offset ++ [byteOf bytes.length]⟩] ∧
       memWf t.image = true ∧ (∀ i b, bytes[i]? = some b → memRead t.image (offset + i) = b) ∧
       ∀ a, a < offset ∨ offset + bytes.length ≤ a → memRead t.image a = memRead s.image a) ∧
     ∀ i b v, bytes[i]? = some b → v ≠ b →
       ∃ t, exec (.imageWriteDone [(offset + i, v)]) s = .next t ∧ t.link.service = none ∧
         t.link.waitingReplies = s.link.waitingReplies ++
           [⟨0x13, tag, .imageFault, half offset ++ [byteOf bytes.length] ++ half (offset + i)⟩])

/-! ## A sample instant: what it measures (chapters 1, 3 and 4) -/

/-- R1, R2, R66. No sample set is taken in LOADING or in reset. -/
def Obligations.SampleSetLimitsInputsAndMeasuresStore : Prop :=
  ∀ (s : State) (x : SampleInput) (o : Orders),
    let g := s.globalsAt o
    (s.sampling = false → exec (.sampleSet x o) s = .next s) ∧
    (s.sampling = true → ∃ t y, exec (.sampleSet x o) s = .next t ∧ t.sample = some y ∧
      (∀ p, y.bus.get p = max (-2048) (min 2047 (x.bus.get p))) ∧
      (∀ f p, (y.load.get f).get p = max (-2048) (min 2047 ((x.load.get f).get p))) ∧
      (y.store : Int) = max 0 (min 1200 x.store) ∧ t.store.volts = some y.store ∧
      t.store.energy = (if g.storeFloor < y.store then
        g.storeCapacitance * (y.store ^ 2 - g.storeFloor ^ 2) / 2000 else 0) ∧
      t.store.quanta = min (t.store.energy / g.quantum) 65535)

/-- What no event of the measured line, of a sequencer, a port or a signal line touches. -/
def Obligations.InstantEventsFrame : Prop :=
  ∀ (c : Instr) (s : State), c.ofLine = true → ∃ t, exec c s = .next t ∧
    t.inReset = s.inReset ∧ t.straps = s.straps ∧ t.loader = s.loader ∧ t.globals = s.globals ∧ t.feeders = s.feeders ∧
    t.image = s.image ∧ t.freeCount = s.freeCount ∧ t.pending = s.pending ∧
    t.classes.classes = s.classes.classes ∧ t.classes.banks = s.classes.banks ∧
    t.link.asm = s.link.asm ∧ t.link.service = s.link.service ∧ t.link.mask = s.link.mask ∧
    t.link.waitingReplies = s.link.waitingReplies ∧
    (∀ g, (t.groups.get g).members = (s.groups.get g).members ∧ (t.groups.get g).level = (s.groups.get g).level ∧
      (t.groups.get g).requireAll = (s.groups.get g).requireAll) ∧
    ∀ f, (s.seq.get f).state = .offline → (t.seq.get f).state = .offline

/-- R14 to R18: the windows hold the latest 48 bus samples; once full, they give the magnitudes, the least of them V_ret. The
half-cycle sums take the output samples, bus plus the references in force, and close at a boundary into the delivered
magnitudes. That a QUIET port has a record in force at the one instant after it was sent, and at no later one, is the
model's reading of R17 and R57 (DEDUCED, notes/assumptions/21.md): the clauses on the sums rest on it. -/
def Obligations.MagnitudesFollowTheWindows : Prop :=
  ∀ (s : State) (x : SampleInput) (o : Orders), s.sampling = true →
    let a := (s.globalsAt o).nominalPeak
    let bus := (SampleSet.ofInput x).bus
    let old (p : Phase) := (s.magnitude.windows.get p).samples
    let new (p : Phase) := ((old p) ++ [bus.get p]).drop ((old p).length - 47)
    let total (l : List Int) := (l.map fun v => v.natAbs ^ 2).sum
    let injected (f : Feeder) (p : Phase) : Int :=
      if (s.port.get f).sent.isSome = true then (s.gen.get f).refs.get p else 0
    let sum (f : Feeder) (p : Phase) : Nat :=
      ((s.magnitude.sums.get f).get p) + (bus.get p + injected f p).natAbs ^ 2
    ∃ t, exec (.sampleSet x o) s = .next t ∧
      ((∀ p, (old p).length ≤ 48 ∧ (s.magnitude.windows.get p).sum = total (old p)) →
        (∀ p, t.magnitude.windows.get p = ⟨new p, total (new p)⟩) ∧
        ((∃ p, (new p).length < 48) → t.magnitude.mags = none ∧ t.vret = none) ∧
        ((∀ p, (new p).length = 48) → ∃ m, t.magnitude.mags = some m ∧
          (∀ p, isPerMille a (total (new p)) 48 (m.get p)) ∧ t.vret = some (min m.a (min m.b m.c)))) ∧
      (s.takesSample o →
        (s.boundaryAfter x = false → t.magnitude.delivered = s.magnitude.delivered ∧
          ∀ f p, (t.magnitude.sums.get f).get p = sum f p) ∧
        (s.boundaryAfter x = true → (∀ f p, (t.magnitude.sums.get f).get p = 0) ∧
          ∃ d, t.magnitude.delivered = some d ∧ ∀ f, ∃ u v w,
            isPerMille a (sum f .a) (min (s.tracker.boundarySpacing + 1) 255) u ∧
            isPerMille a (sum f .b) (min (s.tracker.boundarySpacing + 1) 255) v ∧
            isPerMille a (sum f .c) (min (s.tracker.boundarySpacing + 1) 255) w ∧ d.get f = min u (min v w)))

/-- R6 to R9, R12, R13: the tracker after a sample set whose own handling comes first, in every state: the index, the
spacing count and the remembered crossing; the state where the instant neither opens nor ends an event; and which
instants are boundaries. -/
def Obligations.TrackerIndexFollowsTheCrossings : Prop :=
  ∀ (s : State) (x : SampleInput) (o : Orders), s.takesSample o →
    let q := s.tracker
    let a := (SampleSet.ofInput x).bus.a
    let k := (q.index + 1) % 96
    let d := min (q.spacing + 1) 255
    let n := min (q.boundarySpacing + 1) 255
    let crossing := ∃ p, q.prevA = some p ∧ p < 0 ∧ 0 ≤ a
    let window := 93 ≤ k ∨ k ≤ 3
    let locksOn := q.state = .seeking ∧ q.remembered = true ∧ 93 ≤ d ∧ d ≤ 99
    ∃ t, exec (.sampleSet x o) s = .next t ∧ t.tracker.prevA = some a ∧
      (crossing ∧ (q.state = .seeking ∨ q.state = .locked ∧ (window ∨ 1 ≤ q.miss)) → t.tracker.index = 0) ∧
      (¬ (crossing ∧ (q.state = .seeking ∨ q.state = .locked ∧ (window ∨ 1 ≤ q.miss))) → t.tracker.index = k) ∧
      (crossing → locksOn → s.link.carries t.link (.tracker .locked .lockedOn)) ∧
      (t.eventOpen = s.eventOpen →
        (crossing →
          (locksOn → t.tracker.state = .locked ∧ t.tracker.miss = 0 ∧ t.tracker.spacing = 0) ∧
          (q.state = .seeking → ¬ locksOn →
            t.tracker.state = .seeking ∧ t.tracker.remembered = true ∧ t.tracker.spacing = 0) ∧
          (q.state = .locked → window → t.tracker.state = .locked ∧ t.tracker.miss = 0 ∧ t.tracker.spacing = 0) ∧
          (q.state = .locked → ¬ window → q.miss = 0 →
            t.tracker.state = .locked ∧ t.tracker.miss = 1 ∧ t.tracker.spacing = 0)) ∧
        (¬ crossing → q.state = .seeking ∨ q.state = .locked ∧ d < 144 → t.tracker.state = q.state ∧
          t.tracker.miss = q.miss ∧ t.tracker.spacing = d ∧ t.tracker.remembered = q.remembered) ∧
        (q.state = .holding → t.tracker.state = .holding ∧ t.tracker.miss = q.miss ∧ t.tracker.spacing = d)) ∧
      (s.boundaryAfter x = true ↔
        (t.tracker.index = 0 ∨ t.tracker.index = 48) ∧ (q.boundaryDeclared = false ∨ 45 ≤ n)) ∧
      t.tracker.boundarySpacing = (if s.boundaryAfter x then 0 else n) ∧
      t.tracker.boundaryDeclared = (q.boundaryDeclared || s.boundaryAfter x)

/-- R8, R9, R12, TRACKER_MISSES and TRACKER_SILENCE: what returns a LOCKED tracker to SEEKING, and its report. -/
def Obligations.MissesAndSilenceReturnTrackerToSeeking : Prop :=
  (∀ (s : State) (x : SampleInput) (o : Orders) (p : Int), s.takesSample o → s.tracker.state = .locked →
     s.tracker.prevA = some p → p < 0 → 0 ≤ (SampleSet.ofInput x).bus.a →
     3 < (s.tracker.index + 1) % 96 → (s.tracker.index + 1) % 96 < 93 → 1 ≤ s.tracker.miss →
     ∃ t, exec (.trackerMisses x o) s = .next t ∧ exec (.sampleSet x o) s = .next t ∧
       t.tracker.state = .seeking ∧ t.tracker.index = 0 ∧ t.tracker.miss = 0 ∧ t.tracker.spacing = 0 ∧
       t.tracker.remembered = true ∧ s.link.carries t.link (.tracker .seeking .misses)) ∧
  (∀ (s : State) (x : SampleInput) (o : Orders), s.takesSample o → s.tracker.state = .locked →
     (∀ p, s.tracker.prevA = some p → 0 ≤ p ∨ (SampleSet.ofInput x).bus.a < 0) → 143 ≤ s.tracker.spacing →
     ∃ t, exec (.trackerSilence x o) s = .next t ∧ exec (.sampleSet x o) s = .next t ∧
       t.tracker.state = .seeking ∧ t.tracker.index = (s.tracker.index + 1) % 96 ∧ t.tracker.miss = 0 ∧
       t.tracker.remembered = false ∧ s.link.carries t.link (.tracker .seeking .silence))

/-- R58, R59, R61: the draw and the saturated-sample count of every sample set, and their closing at a boundary, the
boundary's own sample counted first. That a QUIET port has a record in force at the one instant after it was sent, and at
no later one, is the model's reading of R57 and R59 (DEDUCED, notes/assumptions/21.md). -/
def Obligations.BoundaryClosesHalfCycle : Prop :=
  ∀ (s : State) (x : SampleInput) (o : Orders), s.takesSample o →
    ∃ t, exec (.sampleSet x o) s = .next t ∧ ∀ f,
      let g := s.gen.get f
      let h := t.gen.get f
      let i := (SampleSet.ofInput x).load.get f
      let inForce := (s.port.get f).sent.isSome = true
      let d := if inForce ∧ g.tag = .injecting then
        g.draw + (g.refs.a * i.a + g.refs.b * i.b + g.refs.c * i.c) else g.draw
      let n := if inForce ∧ g.clamped = true then g.satCount + 1 else g.satCount
      let scale := ((s.valuesAt o.writtenNow).feeders.get f).energyScale
      let quantum := (s.globalsAt o).quantum
      let w := (max d 0 * (scale : Int) / 16777216).toNat
      (s.boundaryAfter x = false → h.draw = d ∧ h.satCount = n ∧ h.closedW = g.closedW ∧ h.closedQ = g.closedQ ∧
        h.closedSat = g.closedSat) ∧
      (s.boundaryAfter x = true → h.closedW = w ∧ h.closedQ = min ((w + quantum - 1) / quantum) 65535 ∧
        h.draw = 0 ∧ h.satCount = 0 ∧ h.closedSat = n)

/-- R68 to R70, R72: the store's states after a sample set of store voltage v, and the reports of their changes. Charger
enable is formed before the detector's step or after it, the two orders R70 allows (notes/assumptions/1.md). -/
def Obligations.StoreStatesFollowTheirLevels : Prop :=
  ∀ (s : State) (x : SampleInput) (o : Orders), s.takesSample o →
    let v := (SampleSet.ofInput x).store
    let g := s.globalsAt o
    let threshold := g.storeRated * (55 + 5 * g.storeWarnSel) / 100
    g.storeWarnSel ≤ 7 → 10 ≤ g.storeMax →
    ∃ t, exec (.sampleSet x o) s = .next t ∧
      (s.store.warning = false → (t.store.warning = true ↔ v < threshold)) ∧
      (s.store.warning = true → (t.store.warning = false ↔ threshold + g.storeRated / 50 ≤ v)) ∧
      (s.store.overVoltage = false → (t.store.overVoltage = true ↔ g.storeMax < v)) ∧
      (s.store.overVoltage = true → (t.store.overVoltage = false ↔ v ≤ g.storeMax - 10)) ∧
      (t.store.charger = true →
        t.store.delay = 0 ∧ v < g.storeRated ∧ t.store.overVoltage = false ∧ t.loader.op = .running) ∧
      (o.storeEarly = true → (t.store.charger = true ↔ s.eventOpen = false ∧ s.store.delay = 0 ∧ v < g.storeRated ∧
        t.store.overVoltage = false ∧ s.loader.op = .running)) ∧
      (o.storeEarly = false → (∀ l, o.line.get l ≠ .last) →
        (t.store.charger = true ↔ t.eventOpen = false ∧ t.store.delay = 0 ∧ v < g.storeRated ∧
          t.store.overVoltage = false ∧ s.loader.op = .running)) ∧
      (let report (c : StoreCause) : Report := .store c (some v) t.store.quanta t.store.charger
       (s.store.warning = false → t.store.warning = true → s.link.carries t.link (report .warningSet)) ∧
       (s.store.warning = true → t.store.warning = false → s.link.carries t.link (report .warningClear)) ∧
       (s.store.overVoltage = false → t.store.overVoltage = true →
         s.link.carries t.link (report .overvoltageSet)) ∧
       (s.store.overVoltage = true → t.store.overVoltage = false →
         s.link.carries t.link (report .overvoltageClear)))

/-- R71, RECHARGE_DELAY_EXPIRY: at every boundary that ends no event, in an event and outside one, the delay counts down,
to 0 at its last; at an instant that is no boundary it stands. -/
def Obligations.RechargeDelayCountsDownAtBoundaries : Prop :=
  ∀ (s : State) (x : SampleInput) (o : Orders), s.takesSample o →
    ∃ t, exec (.sampleSet x o) s = .next t ∧
      (s.boundaryAfter x = false → t.store.delay = s.store.delay) ∧
      (s.boundaryAfter x = true →
        (s.eventOpen = false ∨ t.eventOpen = true → t.store.delay = s.store.delay - 1) ∧
        (s.store.delay = 1 → exec (.rechargeDelayExpiry x o) s = .next t))

/-- R48 to R55, R94, R118: the reference record a sending port sends at every sample instant. Where nothing of past
instants is left and the instant leaves the feeder's state, phase and mode and the detector's t as they were, the record
is the one R94's table and R51 to R53 give for them (a feeder FAULTED in CLOSING or HANDING_OVER on a LOST port:
notes/assumptions/31.md). The classes and levels of an instant are those `valuesAt` gives, also where a bank switch
taken just before an onset comes into force one instant into its event (the model's choice, notes/assumptions/34.md). A
QUIET port sends none, and has none in force at the next instant (the model's reading of R17, R57 and R59,
notes/assumptions/21.md). -/
def Obligations.ReferenceRecordsFollowTheStateWithinTheLimit : Prop :=
  (∀ (s : State) (x : SampleInput) (o : Orders) (f : Feeder), s.sampling = true → (s.port.get f).state = .quiet →
    ∃ t, exec (.sampleSet x o) s = .next t ∧ (t.port.get f).state = .quiet ∧ (t.port.get f).sent = none ∧
      (t.gen.get f).refs = (s.gen.get f).refs) ∧
  ∀ (s : State) (x : SampleInput) (o : Orders) (f : Feeder), s.sampling = true → (s.port.get f).state ≠ .quiet →
    let values := s.valuesAt o.writtenNow
    let injLimit := (values.feeders.get f).injLimit
    let limit := if (s.port.get f).derate then injLimit / 2 else injLimit
    let q := s.seq.get f
    ∃ t r, exec (.sampleSet x o) s = .next t ∧ (t.port.get f).sent = some r ∧ (t.gen.get f).refs = r.refs ∧
      (∀ p, -(limit : Int) ≤ r.refs.get p ∧ r.refs.get p ≤ limit) ∧
      (r.bypass = .open → r.command = .run) ∧
      (r.command = .idle ∨ r.command = .stop → r.refs = Tri.all 0) ∧
      (t.gen.get f).tag = (match r.command, r.bypass with
        | .start, _ => .arming
        | .run, .open => .injecting
        | _, _ => .other) ∧
      (s.settled → (t.seq.get f).state = q.state → (t.seq.get f).phase = q.phase → (t.seq.get f).mode = q.mode →
        t.detector.t = s.detector.t →
        let away := q.state = .releasing ∨ q.state = .faulted
        let engaged := q.state = .arming ∨ q.state = .injecting
        let target (m : Mode) (p : Phase) : Nat := match m with
          | .full => values.globals.targetFull
          | .floor => min values.globals.targetFull (max ((values.classOf f).floorAt s.detector.t)
              ((t.magnitude.mags.map fun m => m.get p).getD 0))
        let raw (m : Mode) (p : Phase) : Int :=
          let n := template values.globals.nominalPeak t.tracker.index p * (target m p : Int)
          n.sign * ((n.natAbs + 500) / 1000 : Nat) - (SampleSet.ofInput x).bus.get p
        (q.state = .standby ∨ q.state = .held → r = ⟨.idle, .close, Tri.all 0⟩) ∧
        (q.state = .arming → r.command = .start ∧ r.bypass = .close) ∧
        (q.state = .injecting → r.command = .run ∧ r.bypass = .open) ∧
        (away → q.phase = some .closing ∨ q.phase = some .handingOver → r = ⟨.run, .close, Tri.all 0⟩) ∧
        (away → q.phase = some .stopping → r = ⟨.stop, .close, Tri.all 0⟩) ∧
        (q.state = .faulted → q.phase = some .settled → r = ⟨.idle, .close, Tri.all 0⟩) ∧
        (∀ m, engaged → q.mode = some m → (∀ p, r.refs.get p = max (-(limit : Int)) (min limit (raw m p))) ∧
          ((t.gen.get f).clamped = true ↔ ∃ p, limit < (raw m p).natAbs)) ∧
        (¬ engaged → (t.gen.get f).clamped = false))

/-! ## Sag events (chapter 2) -/

/-- R10, R12, R19, R20, R22, R23, R37, R39, R46, FAST_TRIP: the comparator's run counts and its trip; an onset by the trip, or
by V_ret below ONSET_LEVEL, with its record and reports; and an onset whose request for HOLDING is taken before the
tracker's own handling of the sample set. -/
def Obligations.OnsetOpensAnEvent : Prop :=
  (∀ (s : State) (x : SampleInput) (o : Orders), s.takesSample o →
    let g := s.globalsAt o
    let q := s.trackerAfter x
    let far (p : Phase) : Prop := g.nominalPeak * g.fastFraction / 16 <
      (template g.nominalPeak q.index p - (SampleSet.ofInput x).bus.get p).natAbs
    ∃ t, exec (.sampleSet x o) s = .next t ∧
      (∀ p, (q.state = .locked → g.fastFraction ≠ 0 → far p →
          t.comparator.run.get p = min (s.comparator.run.get p + 1) 8) ∧
        (q.state ≠ .locked ∨ g.fastFraction = 0 ∨ ¬ far p → t.comparator.run.get p = 0)) ∧
      ((s.comparatorAfter x o).trips = true ↔ ∃ p, g.fastConfirm ≤ t.comparator.run.get p)) ∧
  (∀ (s : State) (x : SampleInput) (o : Orders), s.takesSample o → s.detector.state = .clear →
    let trips := (s.comparatorAfter x o).trips = true
    let entered := (s.trackerAfter x).state ≠ .seeking
    let listed := Feeder.list.filter fun f => (s.seq.get f).state != .offline
    trips ∨ (∃ v, s.vretAfter x o = some v ∧ v < (s.globalsAt o).onsetLevel) →
    ∃ t r, exec (.sampleSet x o) s = .next t ∧ (trips → exec (.fastTrip x o) s = .next t) ∧
      t.detector.state = .active ∧ t.detector.t = 0 ∧ t.detector.record = some r ∧ r.number = s.detector.nextNumber ∧
      t.detector.nextNumber = (if r.number = 65535 then 1 else r.number + 1) ∧
      (trips → r.cause = .fast) ∧ (¬ trips → r.cause = .rms) ∧
      (s.loader.op ≠ .running → r.comp = .notRunning) ∧
      (s.loader.op = .running → entered → r.comp = .compensable) ∧
      (s.loader.op = .running → ¬ entered → r.comp = .trackerNotLocked) ∧
      r.onset = (s.magsAfter x o).map readingOf ∧ r.minimum = r.onset ∧
      r.storeOnset = (SampleSet.ofInput x).store ∧ r.storeMin = r.storeOnset ∧
      r.quantaOnset = t.store.quanta ∧ r.duration = 0 ∧ r.endCause = none ∧ r.total = 0 ∧
      r.entries.map (·.feeder) = listed ∧
      (r.comp ≠ .compensable → quiet o → r.entries = listed.map fun f => {
        feeder := f, engaged := false, reason := none, firstMode := none, lastMode := none, injected := 0,
        quanta := 0, overdraw := 0, saturated := 0, release := none, verdict := .heldUp }) ∧
      t.detector.table = s.detector.table ∧
      (entered → t.tracker.state = .holding) ∧ (¬ entered → t.tracker.state = .seeking) ∧
      s.link.carries t.link (.eventOnset r.number r.cause r.comp r.onset r.entries.length) ∧
      ((s.trackerAfter x).state = .locked → s.link.carries t.link (.tracker .holding .eventOnset))) ∧
  ∀ (s : State) (x : SampleInput) (o : Orders) (v : Nat), s.sampling = true → s.settled → o.holdingFirst = true →
    s.detector.state = .clear → s.vretAfter x o = some v → v < (s.globalsAt o).onsetLevel →
    ∃ t r, exec (.sampleSet x o) s = .next t ∧ t.detector.record = some r ∧
      (s.tracker.state = .locked → t.tracker.state = .holding ∧ t.tracker.index = (s.tracker.index + 1) % 96 ∧
        t.tracker.miss = s.tracker.miss ∧ (s.loader.op = .running → r.comp = .compensable)) ∧
      (s.tracker.state = .seeking → t.tracker.state = (s.trackerAfter x).state ∧
        (s.loader.op = .running → r.comp = .trackerNotLocked))

/-- R40, R41, R73 to R87, R89, R91, R97, R136, R143: the allocation points of a compensable FAST, RMS and
EXTERNAL onset, and that of a boundary at which a compensable event goes on: which feeders are released, which form
units in unit order, what they need, what the division under the point's policy and reserve grants each and leaves, the
budgets, and what the point writes into the record's entries. Where it names
units and feeders, the acceptances and expiries of the instant are left to commands of their own. The classes and levels
of an instant are those `valuesAt` gives, also where a bank switch taken just before an onset comes into force one
instant into its event (the model's choice, notes/assumptions/34.md). That the boundary flags are of the feeders
INJECTING and not released at the point, its last clause, is the model's reading of R77's 'as this point read it'
(DEDUCED, notes/assumptions/20.md). -/
def Obligations.AllocationPointsDivideTheStore : Prop :=
  let started (f : Feeder) : Entry := {
    feeder := f, engaged := false, reason := none, firstMode := none, lastMode := none, injected := 0, quanta := 0,
    overdraw := 0, saturated := 0, release := none, verdict := .heldUp }
  (∀ (s : State) (x : SampleInput) (o : Orders) (c : OnsetCause), s.takesSample o → s.detector.state = .clear →
    s.loader.op = .running → (s.trackerAfter x).state ≠ .seeking →
    (c = .fast ∧ (s.comparatorAfter x o).trips = true ∨ c = .rms ∧ (s.comparatorAfter x o).trips = false ∧
      ∃ v, s.vretAfter x o = some v ∧ v < (s.globalsAt o).onsetLevel) →
    let values := s.valuesAt o.writtenNow
    let takes (f : Feeder) : Prop := c = .rms → ∃ v, s.vretAfter x o = some v ∧ v < (values.classOf f).immunity
    ∃ t m r, exec (.sampleSet x o) s = .next t ∧ (c = .fast → exec (.fastTrip x o) s = .next t) ∧
      t.detector.record = some r ∧ t.arbiter.summary = some m ∧ m.event = s.detector.nextNumber ∧
      m.point = .onset c ∧ m.vret = s.vretAfter x o ∧ m.available = t.store.quanta ∧
      m.policy = s.globals.allocPolicy ∧ m.reserve = s.globals.reserve ∧ m.Divides values 0 ∧
      (∀ u ∈ m.units, ∀ d ∈ u.members,
        d.full = (s.feeders.get d.feeder).onsetForecast ∧ d.measured = false ∧ d.floor ≤ d.full) ∧
      t.arbiter.flags = FeederSet.empty ∧ (groupsDisjoint s.groups → engagedWithin s.groups → t.budgeted m) ∧
      (quiet o → s.FormsCandidateUnits t values m takes ∧
        (groupsDisjoint s.groups → engagedWithin s.groups →
          ∀ d ∈ r.entries, s.WritesEntry m takes (started d.feeder) d))) ∧
  (∀ (s : State) (l : Line) (lv : Leave), (s.lines.get l).acceptanceDue = true → (s.lines.get l).sampled = some false →
    (s.lines.get l).binding = .extTrigger → (s.lines.get l).debounced = some true → s.detector.state = .clear →
    s.detector.clearedNow = false → s.loader.op = .running → s.tracker.state ≠ .seeking →
    let takes (_ : Feeder) : Prop := True
    ∃ t m r, exec (.lineAccepted ⟨l, lv⟩) s = .next t ∧ t.detector.record = some r ∧ t.arbiter.summary = some m ∧
      r.cause = .external ∧ m.event = s.detector.nextNumber ∧ m.point = .onset .external ∧ m.vret = s.vret ∧
      m.available = s.store.quanta ∧ m.policy = s.globals.allocPolicy ∧ m.reserve = s.globals.reserve ∧
      m.Divides s.inForce 0 ∧
      (∀ u ∈ m.units, ∀ d ∈ u.members, d.full = (s.feeders.get d.feeder).onsetForecast ∧ d.measured = false) ∧
      t.arbiter.flags = FeederSet.empty ∧ s.FormsCandidateUnits t s.inForce m takes ∧
      (groupsDisjoint s.groups → engagedWithin s.groups →
        t.budgeted m ∧ ∀ d ∈ r.entries, s.WritesEntry m takes (started d.feeder) d)) ∧
  ∀ (s : State) (x : SampleInput) (o : Orders) (r : Record) (v : Nat), s.takesSample o → s.boundaryAfter x = true →
    quiet o → s.eventOpen = true → s.detector.record = some r → r.comp = .compensable → s.vretAfter x o = some v →
    groupsDisjoint s.groups → engagedWithin s.groups →
    let values := s.valuesAt o.writtenNow
    let served (f : Feeder) : Prop := (values.classOf f).immunity ≤ v
    let engaged (g : GroupNo) : Prop := (s.groups.get g).state = .engaging ∨ (s.groups.get g).state = .active
    let parts (g : GroupNo) := (s.groups.get g).engaged.members.filter s.participant
    let released (f : Feeder) : Prop := s.participant f = true ∧
      (s.groupOf f = none ∧ served f ∨ ∃ g, engaged g ∧ f ∈ parts g ∧ ∀ h ∈ parts g, served h)
    ∃ t, exec (.sampleSet x o) s = .next t ∧ (t.eventOpen = true →
      ∃ m c, t.arbiter.summary = some m ∧ t.detector.record = some c ∧ c.entries.length = r.entries.length ∧
        (∀ (i : Nat) e d, r.entries[i]? = some e → c.entries[i]? = some d → s.WritesEntry m (fun f => ¬ served f) e d) ∧
        s.FormsCandidateUnits t values m (fun f => ¬ served f) ∧
        m.event = r.number ∧ m.point = .boundary (s.detector.t + 1) ∧ m.vret = some v ∧
        m.available = t.store.quanta ∧ m.policy = s.globals.allocPolicy ∧ m.reserve = s.globals.reserve ∧
        m.Divides values (s.detector.t + 1) ∧
        (∀ f, released f → (t.seq.get f).state = .releasing ∧ (t.seq.get f).phase = some .closing ∧
          (t.seq.get f).releaseCause = some .notNeeded ∧ (t.seq.get f).barred = true ∧
          ∀ u ∈ m.units, ∀ d ∈ u.members, d.feeder ≠ f) ∧
        (∀ g, engaged g → parts g ≠ [] → (∀ h ∈ parts g, served h) →
          t.groups.get g = { s.groups.get g with state := .idle }) ∧
        (∀ f, s.groupOf f = none → s.participant f = true → ¬ served f →
          ∃ u ∈ m.units, u.group = none ∧ u.candidate = false ∧ u.members.map (·.feeder) = [f] ∧
            u.level = (values.bankEntry f).level) ∧
        (∀ g, engaged g → (∃ h ∈ parts g, ¬ served h) → ∃ u ∈ m.units, u.group = some g ∧ u.candidate = false ∧
          u.members.map (·.feeder) = parts g ∧ u.level = (s.groups.get g).level) ∧
        (∀ u ∈ m.units, ∀ d ∈ u.members,
          let measured := (s.seq.get d.feeder).state = .injecting ∧ s.arbiter.flags.get d.feeder = true
          (d.measured = true ↔ measured) ∧ (measured → d.full = max (t.gen.get d.feeder).closedQ 1) ∧
            (¬ measured → d.full = (s.feeders.get d.feeder).onsetForecast)) ∧
        t.budgeted m ∧ ∀ f, t.arbiter.flags.get f = true ↔ (s.seq.get f).state = .injecting ∧ ¬ released f)

/-- R11, R12, R24, R25, R28, R36, R42, R44, R46, R101, R145, RECOVERED: the level test, t and the dwell count at a sample of an event that goes on;
the boundary that completes the dwell ends the event, its participants released, its record closed into the table, a
pending bank made the active one, and its reports posted; and an end at a crossing with candidate index 48,
its request for LOCKED taken before the tracker's own handling of the sample set or after. Its third clause is the
model's reading and not R11's words, which say that either order gives the same state: with the request taken first the
LOCKED tracker counts the crossing as a miss, R8 applying to it at index 48 (DEDUCED, notes/assumptions/11.md). -/
def Obligations.RecoveredClosesTheEvent : Prop :=
  (∀ (s : State) (x : SampleInput) (o : Orders), s.takesSample o → s.eventOpen = true →
    let level := (s.globalsAt o).recoveryLevel
    let dwell := if s.detector.state = .dwell then s.detector.dwell else 0
    let below := ∃ v, s.vretAfter x o = some v ∧ v < level
    let reached := ∃ v, s.vretAfter x o = some v ∧ level ≤ v
    ∃ t, exec (.sampleSet x o) s = .next t ∧
      (s.boundaryAfter x = false → t.eventOpen = true ∧ t.detector.t = s.detector.t ∧
        (reached → t.detector.state = .dwell ∧ t.detector.dwell = dwell) ∧ (below → t.detector.state = .active) ∧
        (s.vretAfter x o = none → t.detector.state = s.detector.state)) ∧
      (s.boundaryAfter x = true → s.detector.t + 1 ≠ (s.globalsAt o).eventLimit →
        (reached → dwell + 1 < (s.globalsAt o).recoveryDwell →
          t.detector.t = s.detector.t + 1 ∧ t.detector.state = .dwell ∧ t.detector.dwell = dwell + 1) ∧
        (below → t.detector.t = s.detector.t + 1 ∧ t.detector.state = .active))) ∧
  (∀ (s : State) (x : SampleInput) (o : Orders) (r : Record) (v : Nat), s.takesSample o → s.boundaryAfter x = true →
    s.detector.record = some r → s.vretAfter x o = some v → (s.globalsAt o).recoveryLevel ≤ v →
    (s.detector.state = .dwell ∧ (s.globalsAt o).recoveryDwell ≤ s.detector.dwell + 1 ∨
      s.detector.state = .active ∧ (s.globalsAt o).recoveryDwell = 1) →
    ∃ t c, exec (.recovered x o) s = .next t ∧ exec (.sampleSet x o) s = .next t ∧ t.detector.state = .clear ∧
      s.EndsEvent t o r c .recovered) ∧
  ∀ (s : State) (x : SampleInput) (o : Orders) (p : Int) (v : Nat), s.sampling = true → s.settled →
    s.tracker.state = .holding → s.tracker.index = 47 → s.tracker.prevA = some p → p < 0 →
    0 ≤ (SampleSet.ofInput x).bus.a → s.boundaryAfter x = true → s.vretAfter x o = some v →
    (s.globalsAt o).recoveryLevel ≤ v → s.detector.state = .dwell →
    (s.globalsAt o).recoveryDwell ≤ s.detector.dwell + 1 →
    ∃ t, exec (.sampleSet x o) s = .next t ∧ t.detector.state = .clear ∧ t.tracker.state = .locked ∧
      t.tracker.index = 48 ∧ t.tracker.spacing = 0 ∧ t.tracker.miss = if o.lockedFirst then 1 else 0

/-- R24, R26, R28, R36, R38, R41 to R44, R46, R62, R89, R100, R101, R145, EVENT_LIMIT: what every sample of an event writes into its
record, open still or just closed; and the boundary at which t reaches EVENT_LIMIT with the dwell not complete, in
ACTIVE or DWELL, which ends the event as RECOVERED does, in LOCKOUT. The classes and levels of an instant are those `valuesAt` gives, also where a bank switch taken just
before an onset comes into force one instant into its event (the model's choice, notes/assumptions/34.md). -/
def Obligations.EventLimitEntersLockout : Prop :=
  (∀ (s : State) (x : SampleInput) (o : Orders) (r : Record), s.takesSample o → s.eventOpen = true →
    s.detector.record = some r →
    let new := (s.magsAfter x o).map readingOf
    let lower := ∃ n, new = some n ∧ ∀ h, r.minimum = some h → n.vret < h.vret
    let closed := s.boundaryAfter x
    ∃ t c, exec (.sampleSet x o) s = .next t ∧
      (t.detector.record = some c ∨ t.detector.record = none ∧ t.detector.table.getLast? = some c) ∧
      c.number = r.number ∧ c.onset = r.onset ∧ c.cause = r.cause ∧ c.comp = r.comp ∧
      (lower → c.minimum = new) ∧ (¬ lower → c.minimum = r.minimum) ∧
      c.storeMin = min r.storeMin (SampleSet.ofInput x).store ∧
      c.total = r.total + (if closed then (r.entries.map fun e => (t.gen.get e.feeder).closedQ).sum else 0) ∧
      c.entries.length = r.entries.length ∧
      ∀ (i : Nat) (e : Entry), r.entries[i]? = some e → ∃ d : Entry, c.entries[i]? = some d ∧ d.feeder = e.feeder ∧
        (let g := t.gen.get e.feeder
         let floor := ((s.valuesAt o.writtenNow).classOf e.feeder).floorAt s.detector.t
         d.quanta = e.quanta + (if closed then g.closedQ else 0) ∧
         d.saturated = e.saturated + (if closed ∧ 1 ≤ g.closedSat then 1 else 0) ∧
         d.injected = e.injected + (if closed ∧ ((s.seq.get e.feeder).injected = true ∨
           (s.seq.get e.feeder).state = .injecting) then 1 else 0) ∧
         d.overdraw = e.overdraw + (match closed, s.arbiter.budgets.get e.feeder with
           | true, some b => if b.measured = true ∧ b.share < g.closedQ then 1 else 0
           | _, _ => 0) ∧
         (closed = false → d.verdict = e.verdict) ∧
         (∀ n, e.verdict = .violated n → d.verdict = .violated n) ∧
         (closed = true → e.verdict = .heldUp → ∀ m, t.magnitude.delivered = some m →
           d.verdict = if m.get e.feeder < floor then .violated s.detector.t else .heldUp))) ∧
  ∀ (s : State) (x : SampleInput) (o : Orders) (r : Record), s.takesSample o → s.boundaryAfter x = true →
    s.eventOpen = true → s.detector.record = some r → s.detector.t + 1 = (s.globalsAt o).eventLimit →
    let level := (s.globalsAt o).recoveryLevel
    let dwell := if s.detector.state = .dwell then s.detector.dwell else 0
    (∃ v, s.vretAfter x o = some v ∧ v < level) ∨
      (∃ v, s.vretAfter x o = some v ∧ level ≤ v ∧ dwell + 1 < (s.globalsAt o).recoveryDwell) ∨
      s.vretAfter x o = none ∧ (s.detector.state = .active ∨ dwell < (s.globalsAt o).recoveryDwell) →
    ∃ t c, exec (.eventLimit x o) s = .next t ∧ exec (.sampleSet x o) s = .next t ∧ t.detector.state = .lockout ∧
      t.detector.t = (s.globalsAt o).eventLimit ∧ s.EndsEvent t o r c .limit

/-- R27, LOCKOUT_DWELL_COMPLETE: a sample set in LOCKOUT, where no event is open and no onset is taken. -/
def Obligations.LockoutEndsWhenItsDwellCompletes : Prop :=
  ∀ (s : State) (x : SampleInput) (o : Orders), s.takesSample o → s.detector.state = .lockout → s.detector.record = none →
    let level := (s.globalsAt o).recoveryLevel
    let whole := (s.globalsAt o).recoveryDwell
    ∃ t, exec (.sampleSet x o) s = .next t ∧ t.detector.record = none ∧ t.eventOpen = false ∧
      t.detector.table = s.detector.table ∧ t.detector.t = s.detector.t ∧
      t.detector.nextNumber = s.detector.nextNumber ∧
      (s.boundaryAfter x = false → t.detector.state = .lockout ∧ t.detector.dwell = s.detector.dwell) ∧
      (s.boundaryAfter x = true →
        (∀ v, s.vretAfter x o = some v → level ≤ v →
          (whole ≤ s.detector.dwell + 1 → exec (.lockoutDwellComplete x o) s = .next t ∧
            t.detector.state = .clear ∧ t.detector.dwell = 0) ∧
          (s.detector.dwell + 1 < whole →
            t.detector.state = .lockout ∧ t.detector.dwell = s.detector.dwell + 1)) ∧
        ((∀ v, s.vretAfter x o = some v → v < level) →
          t.detector.state = .lockout ∧ t.detector.dwell = 0))

/-! ## Allocation (chapters 2 and 4) -/

/-- R78, as a state's forecast of a feeder. -/
def Obligations.FloorNeedFollowsItsTable : Prop :=
  ∀ (s : State) (boundary : Bool) (f : Feeder) (v : Nat), s.vret = some v →
    let d := s.forecast boundary f
    let target := s.inForce.globals.targetFull
    (s.floorNow f ≤ v → d.floor = 0) ∧
    (v < s.floorNow f → v < target → d.floor =
      min ((d.full * (s.floorNow f - v) + (target - v) - 1) / (target - v)) d.full) ∧
    (v < s.floorNow f → target ≤ v → d.floor = d.full) ∧ d.floor ≤ d.full

/-- R34: floor(t) is the floor of the first segment whose duration limit is above t, else the immunity; it never falls with
t and never exceeds the immunity. -/
def Obligations.ClassFloorsRiseToTheImmunity : Prop :=
  ∀ c : EnvClass, c.wf → ∀ t u : Nat, t ≤ u →
    c.floorAt t ≤ c.floorAt u ∧ c.floorAt u ≤ c.immunity ∧
      ((∀ g ∈ c.segments, g.limit ≤ t) → c.floorAt t = c.immunity) ∧
      ∀ early g later, c.segments = early ++ g :: later → (∀ e ∈ early, e.limit ≤ t) → t < g.limit →
        c.floorAt t = g.floor

/-- R81 to R85: the claims stand in unit order; under either policy every claim gets one grant, the grants fit the store, and
those of the levels above 0 leave the reserve. PRIORITY_FULL grants each unit FULL if its full need fits what is usable
at its turn, else FLOOR if its floor need does, else NONE. FLOOR_FIRST passes over all floor needs first, NONE being a
floor need that does not fit, and then over the upgrades in the same order. -/
def Obligations.GrantsNeverExceedTheStore : Prop :=
  (∀ (policy : Policy) (reserve available : Nat) (claims : List Claim),
     let d := divide policy reserve available claims
     let total (l : List (Claim × Grant)) := (l.map fun x => x.1.granted x.2).sum
     d.map (·.1) = claims ∧ total d ≤ available ∧
       total (d.filter fun x => x.1.level ≠ 0) ≤ available - reserve ∧
       (∀ x ∈ d, x.2 = .none → 0 < x.1.floorNeed)) ∧
  (∀ (reserve available : Nat) (claims : List Claim) (pre post : List (Claim × Grant)) (c : Claim) (g : Grant),
     let usable (remaining below : Nat) : Nat := if c.level = 0 then remaining else remaining - (reserve - below)
     let need (count : Claim × Grant → Nat) (l : List (Claim × Grant)) : Nat := (l.map count).sum
     let bottom (l : List (Claim × Grant)) := l.filter fun x => x.1.level = 0
     (divide .priorityFull reserve available claims = pre ++ (c, g) :: post →
       let granted (x : Claim × Grant) : Nat := x.1.granted x.2
       let left := usable (available - need granted pre) (need granted (bottom pre))
       g = if c.fullNeed ≤ left then .full else if c.floorNeed ≤ left then .floor else .none) ∧
     (divide .floorFirst reserve available claims = pre ++ (c, g) :: post →
       let floors (x : Claim × Grant) : Nat := if x.2 = .none then 0 else x.1.floorNeed
       let upgrades (x : Claim × Grant) : Nat := if x.2 = .full then x.1.fullNeed - x.1.floorNeed else 0
       let all := pre ++ (c, g) :: post
       let first := usable (available - need floors pre) (need floors (bottom pre))
       let second := usable (available - need floors all - need upgrades pre)
         (need floors (bottom all) + need upgrades (bottom pre))
       (g = .none ↔ first < c.floorNeed) ∧
         (g = .full ↔ c.floorNeed ≤ first ∧ c.fullNeed - c.floorNeed ≤ second))) ∧
  (∀ claims : List Claim,
     (orderClaims claims).Perm claims ∧
       (orderClaims claims).Pairwise fun a b => a.level < b.level ∨ a.level = b.level ∧ a.lowest ≤ b.lowest)

/-- R86, R87, R96, R97, R101, R113, R136, R142: a grant delivered to the feeder of an ungrouped unit, with its report, and
to the group table for the unit of a group. -/
def Obligations.GrantsReachTheSequencer : Prop :=
  (∀ (s : State) (u : UnitGrant) (f : Feeder), u.group = none → u.members.map (·.feeder) = [f] → s.groupOf f = none →
    let q := s.seq.get f
    let t := s.deliverUnit u
    (∀ h, h ≠ f → t.seq.get h = s.seq.get h) ∧ t.butCourse = s.butCourse ∧
    (∀ m, u.candidate = true → u.grant.mode = some m → q.state = .standby →
      t.seq.get f = { q with
        state := .arming, mode := some m, releaseCause := none, timer := some ⟨.arm, s.globals.armTimeout, true⟩ } ∧
      t.link = s.link.post (.feederState f .arming q.phase (some m) none)) ∧
    (∀ m, u.candidate = false → u.grant.mode = some m → q.state = .arming ∨ q.state = .injecting →
      t.seq.get f = { q with mode := some m } ∧ t.link = s.link) ∧
    (u.candidate = false → u.grant = .none → q.state = .arming ∨ q.state = .injecting →
      t.seq.get f = { q with
        state := .releasing, phase := some .closing, releaseCause := some .starved,
        timer := some ⟨.bypass, s.globals.bypassTimeout, true⟩, barred := q.barred || s.eventOpen } ∧
      t.link = s.link.post (.feederState f .releasing (some .closing) q.mode (some .starved))) ∧
    (u.candidate = true → u.grant = .none → t = s)) ∧
  ∀ (s : State) (u : UnitGrant) (g : GroupNo), u.group = some g → u.members ≠ [] →
    let t := s.deliverUnit u
    let r := s.groups.get g
    let inUnit : FeederSet := Six.of fun f => decide (f ∈ u.members.map (·.feeder))
    (∀ m, u.candidate = true → u.grant.mode = some m → (∀ d ∈ u.members, (s.seq.get d.feeder).state = .standby) →
      t.groups = s.groups.set g { r with
        state := .engaging, engaged := inUnit, acknowledged := .empty, refused := .empty, abandonCause := none } ∧
      (∀ d ∈ u.members, (t.seq.get d.feeder).state = .arming ∧ (t.seq.get d.feeder).mode = some m)) ∧
    (u.candidate = false → u.grant = .none →
      (r.state = .engaging ∨ r.state = .active →
        t.groups = s.groups.set g { r with state := .abandoned, abandonCause := some .starved }) ∧
      (r.state = .abandoned ∨ r.state = .idle → t.groups = s.groups) ∧ t.groupRequests = s.groupRequests ∧
      ∀ d ∈ u.members, s.participant d.feeder = true → (t.seq.get d.feeder).state = .releasing ∧
        (t.seq.get d.feeder).releaseCause = some .starved)

/-! ## Sequencers and groups (chapters 5 and 7) -/

/-- R98, R102, R105, R113, R114, ARM_TIMEOUT, with its two reports, the change of state posted first (the model's choice,
notes/assumptions/13.md). With no expiry of the ARM timer due the row does not arise (notes/assumptions/2.md). -/
def Obligations.ArmTimeoutFaultsTheFeeder : Prop :=
  ∀ (s : State) (f : Feeder) (lv : Leave),
    (s.expiryDue f .arm = false → exec (.armTimeout f lv) s = .next s) ∧
    (s.expiryDue f .arm = true → (s.seq.get f).state = .arming →
      ∃ t, exec (.armTimeout f lv) s = .next t ∧ t.butCourse = s.butCourse ∧
        t.seq.get f = { s.seq.get f with
          state := .faulted, phase := some .stopping, faultCause := some .armTimeout,
          timer := some ⟨.stop, s.globals.stopTimeout, true⟩, barred := (s.seq.get f).barred || s.eventOpen } ∧
        (lv.refusal = true ∨ lv.requests = true ∨
            s.groupOf f = none ∧ s.refusals = [] ∧ s.groupRequests = FeederSet.empty →
          (∀ h, h ≠ f → t.seq.get h = s.seq.get h) ∧
          (lv.choice = false → s.link.choiceOpen = false → t.link = s.link.posted [
            .feederState f .faulted (some .stopping) (s.seq.get f).mode (some .armTimeout),
            .feederFault f .armTimeout false (some .arming) (s.port.get f).status s.openNumber]) ∧
          ∀ r, s.detector.record = some r → t.detector.record = some { r with
            entries := r.entries.map fun e =>
              if e.feeder = f ∧ e.release = none then { e with release := some .armTimeout } else e }))

/-- R93, R99, R102 to R104, R109, R113, R114: a sample set lowers the count of a running timer by 1, but for one started at
its very instant, and at 0 its expiry is due or, where the orders place it in the instant, taken; and
BYPASS_TIMER_EXPIRY, HANDOVER_EXPIRY and STOP_TIMER_EXPIRY, by the state and phase they meet, with their reports. That FEEDER_STATE is posted before FEEDER_FAULT at an entry into FAULTED is the model's
choice (notes/assumptions/13.md). -/
def Obligations.TimerExpiriesFollowThePhase : Prop :=
  (∀ (s : State) (x : SampleInput) (o : Orders) (f : Feeder) (k : TimerKind) (n : Nat) (fresh : Bool),
     s.sampling = true → s.settled → (s.seq.get f).timer = some ⟨k, n, fresh⟩ →
     let q := s.seq.get f
     q.state = .arming ∨ q.state = .injecting ∨ q.state = .releasing ∨ q.state = .faulted →
     let m := if fresh = true ∧ o.started.get f = true then n else n - 1
     ∃ t, exec (.sampleSet x o) s = .next t ∧
       let stays := (t.seq.get f).state = q.state ∧ (t.seq.get f).phase = q.phase
       (stays → 1 ≤ m → (t.seq.get f).timer = some ⟨k, m, false⟩) ∧
       (stays → m = 0 → o.expiry.get f = .apart → t.expiryDue f k = true) ∧
       (m = 0 → o.expiry.get f ≠ .apart → (∀ j, 1 ≤ s.globals.timeout j) → t.anyExpiryDue f = false ∧
         (k = .arm ∧ q.state = .arming ∨ k = .bypass ∧ q.state = .injecting ∨
           k = .bypass ∧ q.state = .releasing ∧ q.phase = some .closing ∨ k = .handover ∧ q.phase = some .handingOver ∨
           k = .stop ∧ q.state = .releasing ∧ q.phase = some .stopping → ¬ stays) ∧
         (k = .stop ∧ q.state = .faulted ∧ q.phase = some .stopping →
           (t.seq.get f).timer = none ∧ (t.seq.get f).followOn = some .stopTimeout))) ∧
  (∀ (s : State) (f : Feeder) (lv : Leave), s.expiryDue f .bypass = true →
     let q := s.seq.get f
     (q.state = .injecting →
       ∃ t, exec (.bypassTimerExpiry f lv) s = .next t ∧ t.butCourse = s.butCourse ∧
         t.seq.get f = { q with
           state := .releasing, phase := some .closing, releaseCause := some .bypassStuck,
           timer := some ⟨.bypass, s.globals.bypassTimeout, true⟩, barred := q.barred || s.eventOpen } ∧
         (lv.refusal = true ∨ lv.requests = true ∨
             s.groupOf f = none ∧ s.refusals = [] ∧ s.groupRequests = FeederSet.empty →
           (∀ h, h ≠ f → t.seq.get h = s.seq.get h) ∧
           (lv.choice = false → s.link.choiceOpen = false →
             t.link = s.link.post (.feederState f .releasing (some .closing) q.mode (some .bypassStuck))))) ∧
     (q.state = .releasing → q.phase = some .closing →
       ∃ t, exec (.bypassTimerExpiry f lv) s = .next t ∧ t.butCourse = s.butCourse ∧ t.groups = s.groups ∧
         t.detector = s.detector ∧
         t.seq = s.seq.set f { q with
           state := .faulted, phase := some .closing, faultCause := some .bypassStuck, timer := none } ∧
         (lv.choice = false → s.link.choiceOpen = false → t.link = s.link.posted [
           .feederState f .faulted (some .closing) q.mode (some .bypassStuck),
           .feederFault f .bypassStuck false (some .releasing) (s.port.get f).status s.openNumber]))) ∧
  (∀ (s : State) (f : Feeder),
     (s.expiryDue f .handover = true → (s.seq.get f).phase = some .handingOver →
       exec (.handoverExpiry f) s = .next { s with seq := s.seq.set f { s.seq.get f with
         phase := some .stopping, timer := some ⟨.stop, s.globals.stopTimeout, true⟩ } }) ∧
     (s.expiryDue f .stop = true → (s.seq.get f).phase = some .stopping → ∀ lv : Leave,
       ((s.seq.get f).state = .releasing → ∃ t, exec (.stopTimerExpiry ⟨f, lv⟩) s = .next t ∧ t.butLink =
         State.butLink { s with seq := s.seq.set f { s.seq.get f with
           state := .faulted, faultCause := some .stopTimeout, timer := none } } ∧
         (lv.choice = false → s.link.choiceOpen = false → t.link = s.link.posted [
           .feederState f .faulted (some .stopping) (s.seq.get f).mode (some .stopTimeout),
           .feederFault f .stopTimeout false (some .releasing) (s.port.get f).status s.openNumber])) ∧
       ((s.seq.get f).state = .faulted → ∃ t, exec (.stopTimerExpiry ⟨f, lv⟩) s = .next t ∧ t.butLink =
         State.butLink { s with seq := s.seq.set f { s.seq.get f with
           followOn := some .stopTimeout, timer := none } } ∧
         (lv.choice = false → s.link.choiceOpen = false → t.link = s.link.post
           (.feederFault f .stopTimeout true none (s.port.get f).status s.openNumber)))))

/-- R138 to R142, R145: an engaged member that leaves engagement on its own account, by a command that R138 classes as a
refusal, abandons its group with the cause that it gives, and the other engaged members are released at once; or its refusal, or their requests, are left for later events of the instant (notes/assumptions/16.md), and a
refusal then taken by a group in ABANDONED or IDLE adds the member to the refused set and nothing else. -/
def Obligations.RefusalAbandonsTheGroup : Prop :=
  (∀ (s : State) (c : Instr) (a : AbandonCause) (f : Feeder) (g : GroupNo) (lv : Leave), s.Departs f lv c a →
    s.groupOf f = some g → (s.groups.get g).engaged.get f = true →
    (s.groups.get g).state = .engaging ∨ (s.groups.get g).state = .active → s.refusals = [] →
    let abandoned := s.groups.set g { s.groups.get g with
      state := .abandoned, abandonCause := some a, refused := (s.groups.get g).refused.set f true }
    ∃ t, exec c s = .next t ∧ (a = .memberRefused → (t.seq.get f).state = .faulted) ∧
      (a = .memberReleased → (t.seq.get f).state = .releasing) ∧ a ≠ .starved ∧
      (lv.refusal = true → t.refusals = [(f, a)] ∧ t.groups = s.groups ∧
        t.groupRequests = s.groupRequests ∧ ∀ h, h ≠ f → t.seq.get h = s.seq.get h) ∧
      (lv.refusal = false → t.refusals = [] ∧ t.groups = abandoned) ∧
      (lv.refusal = false → lv.requests = true →
        (∀ h, t.groupRequests.get h = (s.groupRequests.get h || (s.groups.get g).engaged.get h && h != f)) ∧
        ∀ h, h ≠ f → t.seq.get h = s.seq.get h) ∧
      (lv.refusal = false → lv.requests = false → t.groupRequests = FeederSet.empty ∧
        (∀ h, h ≠ f → (s.groups.get g).engaged.get h = true → s.participant h = true →
          t.seq.get h = { s.seq.get h with
            state := .releasing, phase := some .closing, releaseCause := some .groupAbandon,
            timer := some ⟨.bypass, s.globals.bypassTimeout, true⟩, barred := (s.seq.get h).barred || s.eventOpen }) ∧
        ∀ h, h ≠ f → (s.groups.get g).engaged.get h = false → s.groupRequests.get h = false →
          t.seq.get h = s.seq.get h)) ∧
  ∀ (s : State) (f : Feeder) (g : GroupNo) (a : AbandonCause), s.groupOf f = some g →
    (s.groups.get g).state = .abandoned ∨ (s.groups.get g).state = .idle → (s.groups.get g).engaged.get f = true →
    s.takeRefusal f a =
      { s with groups := s.groups.set g { s.groups.get g with refused := (s.groups.get g).refused.set f true } }

/-! ## Bridge ports and signal lines (chapters 6 and 8) -/

/-- R119, R120, R190: the tests of a good status record, and the check of a reference record. -/
def Obligations.BridgeRecordsCarryTheirCheck : Prop :=
  (∀ (m b d k c : Byte) (st : ModuleStatus), parseStatus [m, b, d, k, c] = some st ↔
    (m.toNat + b.toNat + d.toNat + k.toNat + c.toNat) % 256 = 0 ∧ m.toNat = st.module.code ∧
      b.toNat = st.bypass.code ∧ d.toNat = (if st.derate then 1 else 0) ∧ k.toNat = st.fault.code) ∧
  (∀ l : List Byte, l.length ≠ 5 → parseStatus l = none) ∧
  (∀ (early : List SlotRecord) (r : SlotRecord), r.whole = true → goodRecord (early ++ [r]) = parseStatus r.bytes) ∧
  (∀ (early : List SlotRecord) (r : SlotRecord), r.whole = false → goodRecord (early ++ [r]) = goodRecord early) ∧
  ∀ r : RefRecord, r.bytes.length = 9 ∧ (r.bytes.map (·.toNat)).sum % 256 = 0

/-- R98 to R100, R103, R104, R109, R113, R117, R121, R125, R137, SLOT_EXAMINATION: what a good status record other than FAULT
does to its feeder, by state and phase; a module that runs takes its feeder from ARMING to INJECTING and acknowledges it.
A port that examines no slot takes nothing. -/
def Obligations.RunningStatusBeginsInjection : Prop :=
  ∀ (s : State) (f : Feeder) (slot : Slot) (lv : Leave),
    (s.examines f slot.entry = false → exec (.slotExamination f slot lv) s = .next s) ∧
    (s.inReset = false → (s.port.get f).state ≠ .quiet →
      s.examines f false = true ∧
        ((s.port.get f).fresh = false → (s.port.get f).skipSlot = false → s.examines f true = true)) ∧
    (∀ st, goodRecord slot.records = some st → s.examines f slot.entry = true → (s.port.get f).state = .up →
      (s.seq.get f).state = .arming → st.module = .running →
      ∃ t, exec (.slotExamination f slot lv) s = .next t ∧
        t.seq = s.seq.set f { s.seq.get f with
          state := .injecting, timer := some ⟨.bypass, s.globals.bypassTimeout, true⟩, injected := true } ∧
        t.port = s.port.set f { s.port.get f with
          status := some st, run := min ((s.port.get f).run + 1) 8, miss := 0 } ∧
        (∀ g, s.groupOf f = some g → (s.groups.get g).engaged.get f = true →
          (t.groups.get g).acknowledged = (s.groups.get g).acknowledged.set f true ∧
          ((s.groups.get g).state = .engaging →
            ((t.groups.get g).state = .active ↔
              (s.groups.get g).acknowledged.set f true = (s.groups.get g).engaged))) ∧
        (lv.choice = false → s.link.choiceOpen = false → (s.port.get f).derate = st.derate →
          t.link = s.link.post (.feederState f .injecting (s.seq.get f).phase (s.seq.get f).mode none)) ∧
        t.detector = s.detector ∧ State.butCourse { t with port := s.port } = s.butCourse) ∧
    ∀ st, goodRecord slot.records = some st → s.examines f slot.entry = true → st.module ≠ .fault →
      let q := s.seq.get f
      let timer (k : TimerKind) : Option Timer := some ⟨k, s.globals.timeout k, true⟩
      let rests := st.module = .idle ∧ st.bypass = .closed
      ∃ t, exec (.slotExamination f slot lv) s = .next t ∧ (t.port.get f).status = some st ∧
        (∀ h, h ≠ f → t.port.get h = s.port.get h) ∧
        (q.state = .offline ∨ q.state = .standby ∨ q.state = .held → t.seq = s.seq) ∧
        (q.state = .arming → st.module ≠ .running → t.seq = s.seq) ∧
        (q.state = .injecting → st.module = .running →
          (st.bypass = .open → t.seq = s.seq.set f { q with timer := none }) ∧
          (st.bypass ≠ .open → q.timer ≠ none → t.seq = s.seq) ∧
          (st.bypass ≠ .open → q.timer = none → t.seq = s.seq.set f { q with timer := timer .bypass })) ∧
        (q.state = .injecting → st.module ≠ .running → t.seq.get f = { q with
          state := .faulted, phase := some .settled, faultCause := some .bridgeFault, timer := none,
          barred := q.barred || s.eventOpen }) ∧
        (q.state = .releasing ∨ q.state = .faulted → q.phase = some .closing →
          t.seq = if st.bypass = .closed then s.seq.set f { q with phase := some .handingOver, timer := timer .handover }
            else s.seq) ∧
        (q.state = .releasing ∨ q.state = .faulted → q.phase = some .handingOver ∨ q.phase = some .settled →
          t.seq = s.seq) ∧
        (q.state = .releasing → q.phase = some .stopping →
          (rests → t.seq = s.seq.set f { q with
            state := if s.holds.get f = 0 then .standby else .held, phase := none, timer := none }) ∧
          (¬ rests → t.seq = s.seq)) ∧
        (q.state = .faulted → q.phase = some .stopping →
          (rests → t.seq = s.seq.set f { q with phase := some .settled, timer := none }) ∧ (¬ rests → t.seq = s.seq))

/-- R107 to R109, R113, R114, R125, R129, PORT_LOST: a module in FAULT, and a port that becomes LOST, fault their feeder, or
leave a follow-on cause in a FAULTED one. That FEEDER_STATE is posted before FEEDER_FAULT at an entry into FAULTED is the
model's choice (notes/assumptions/13.md). -/
def Obligations.ModuleFaultAndLostPortFaultTheFeeder : Prop :=
  ∀ (s : State) (f : Feeder) (slot : Slot) (lv : Leave), s.examines f slot.entry = true →
    let q := s.seq.get f
    let p := s.port.get f
    let bar := q.barred || (q.state.engaged && s.eventOpen)
    (∀ st, goodRecord slot.records = some st → st.module = .fault →
      ∃ t, exec (.slotExamination f slot lv) s = .next t ∧ (t.port.get f).status = some st ∧
        (q.state ≠ .offline → q.state ≠ .faulted → t.seq.get f = { q with
          state := .faulted, phase := some .settled, faultCause := some .bridgeFault, timer := none, barred := bar }) ∧
        (q.state = .standby ∨ q.state = .held ∨ q.state = .releasing → p.state = .up → p.derate = st.derate →
          lv.choice = false → s.link.choiceOpen = false → t.link = s.link.posted [
            .feederState f .faulted (some .settled) q.mode (some .bridgeFault),
            .feederFault f .bridgeFault false (some q.state) (some st) s.openNumber]) ∧
        (q.state = .faulted → (∀ old, p.status = some old → old.module ≠ .fault) →
          t.seq = s.seq.set f { q with phase := some .settled, followOn := some .bridgeFault, timer := none }) ∧
        (q.state = .offline → t.seq = s.seq)) ∧
    (p.state = .up → goodRecord slot.records = none → 2 ≤ p.miss →
      ∃ t, exec (.portLost f slot lv) s = .next t ∧ exec (.slotExamination f slot lv) s = .next t ∧
        t.port = s.port.set f { p with state := .lost, run := 0, miss := 3 } ∧
        s.link.carries t.link (.port f .lost .lost p.status) ∧
        (q.state ≠ .offline → q.state ≠ .faulted → t.seq.get f = { q with
          state := .faulted, phase := some .stopping, faultCause := some .bridgeLost,
          timer := some ⟨.stop, s.globals.stopTimeout, true⟩, barred := bar } ∧
          s.link.carries t.link (.feederFault f .bridgeLost false (some q.state) p.status s.openNumber)) ∧
        (q.state = .faulted → t.seq.get f = { q with followOn := some .bridgeLost } ∧
          s.link.carries t.link (.feederFault f .bridgeLost true none p.status s.openNumber)) ∧
        (q.state = .offline → t.seq.get f = q))

/-- R122, R124 to R126, R129, PORT_UP and PORT_RECOVERED: the counts of every examination; the 8th good record in a row brings
a WAITING or LOST port UP, and the reports of a change of state and of derate. -/
def Obligations.EighthGoodRecordBringsThePortUp : Prop :=
  ∀ (s : State) (f : Feeder) (slot : Slot) (lv : Leave), s.examines f slot.entry = true →
    let p := s.port.get f
    (∀ st, goodRecord slot.records = some st →
      let up : Port := { p with state := .up, run := 8, miss := 0, status := some st }
      let derateReport (now : PortState) : List Report :=
        if p.derate = st.derate then [] else [.port f now (if st.derate then .derateSet else .derateClear) (some st)]
      (p.state = .waiting → 7 ≤ p.run → ∃ t, exec (.portUp f slot lv) s = .next t ∧
        exec (.slotExamination f slot lv) s = .next t ∧ t.port = s.port.set f up) ∧
      (p.state = .lost → 7 ≤ p.run → ∃ t, exec (.portRecovered f slot lv) s = .next t ∧
        exec (.slotExamination f slot lv) s = .next t ∧ t.port = s.port.set f up) ∧
      ∃ t, exec (.slotExamination f slot lv) s = .next t ∧
        (p.state = .waiting ∨ p.state = .lost → p.run < 7 →
          t.port = s.port.set f { p with run := p.run + 1, status := some st }) ∧
        (p.state = .up → t.port = s.port.set f { p with run := min (p.run + 1) 8, miss := 0, status := some st }) ∧
        ((s.seq.get f).state = .standby ∨ (s.seq.get f).state = .held → st.module ≠ .fault → lv.choice = false →
          s.link.choiceOpen = false → t.link = s.link.posted (
            if p.state = .waiting ∧ 7 ≤ p.run then .port f .up .up (some st) :: derateReport .up
            else if p.state = .lost ∧ 7 ≤ p.run then .port f .up .recovered (some st) :: derateReport .up
            else derateReport p.state))) ∧
    (goodRecord slot.records = none → ∃ t, exec (.slotExamination f slot lv) s = .next t ∧
      (p.state = .waiting ∨ p.state = .lost → t.port = s.port.set f { p with run := 0 }) ∧
      (p.state = .up → p.miss < 2 → t.port = s.port.set f { p with run := 0, miss := p.miss + 1 }) ∧
      (p.state ≠ .up ∨ p.miss < 2 → t.seq = s.seq ∧
        (lv.choice = false → s.link.choiceOpen = false → t.link = s.link)))

/-- R22, R36, R153, R154, R156, R158 to R160, LINE_ACCEPTED: the reading of every line at a sample set and the levels the outputs
are driven to, those of one code alike; and an accepted level, by the line's binding. A line with no acceptance due is left as it is
(notes/assumptions/2.md); one rebound from an output code at the very instant of the sample set, before it, is read by it (the
model's choice, notes/assumptions/35.md). -/
def Obligations.AcceptedLevelActsByItsBinding : Prop :=
  (∀ (s : State) (x : SampleInput) (o : Orders) (l : Line), s.takesSample o →
    let y := s.lines.get l
    let level := x.levels.get l
    let run := if y.sampled = some level then min (y.run.getD 0 + 1) 4 else 1
    ∃ t, exec (.sampleSet x o) s = .next t ∧
      (y.binding.isOutput = false →
        (run = 4 ∧ y.debounced ≠ some level → o.line.get l ≠ .apart →
          t.lines.get l = ⟨y.binding, some level, some run, some level, y.driven⟩) ∧
        (¬ (run = 4 ∧ y.debounced ≠ some level) ∨ o.line.get l = .apart →
          t.lines.get l = ⟨y.binding, some level, some run, y.debounced, y.driven⟩)) ∧
      (y.binding.isOutput = true →
        (stageOf o.output y.binding = some .start → t.lines.get l = { y with driven := some (s.condition y.binding) }) ∧
        (stageOf o.output y.binding = some .last → t.lines.get l = { y with driven := some (t.condition y.binding) }) ∧
        (∃ b, t.lines.get l = { y with driven := some b }) ∧
        ∀ k, (s.lines.get k).binding = y.binding → (t.lines.get k).driven = (t.lines.get l).driven)) ∧
  (∀ s : State,
    (∀ f, s.condition (.feederInjecting f) = true ↔ (s.seq.get f).state = .injecting) ∧
    (s.condition .eventActive = true ↔ s.detector.state = .active ∨ s.detector.state = .dwell) ∧
    s.condition .storeWarning = s.store.warning ∧ s.condition .chargerEnable = s.store.charger ∧
    (s.condition .ready = true ↔ s.loader.op = .running) ∧
    (s.condition .faultSummary = true ↔ s.store.overVoltage = true ∨
      ∃ f, (s.seq.get f).state = .faulted ∨ (s.port.get f).state = .lost) ∧
    (s.condition .trackerLocked = true ↔ s.tracker.state = .locked ∨ s.tracker.state = .holding) ∧
    ∀ g, s.condition (.groupActive g) = true ↔ (s.groups.get g).state = .active) ∧
  ∀ (s : State) (l : Line) (level : Bool) (lv : Leave), (s.lines.get l).sampled = some level →
    let x := s.lines.get l
    (x.acceptanceDue = true ↔ x.binding.isOutput = false ∧ x.run = some 4 ∧ x.debounced ≠ some level) ∧
    (x.acceptanceDue = false → exec (.lineAccepted ⟨l, lv⟩) s = .next s) ∧
    (x.acceptanceDue = true →
      ∃ t, exec (.lineAccepted ⟨l, lv⟩) s = .next t ∧ t.lines = s.lines.set l { x with debounced := some level } ∧
        let only (classes : ClassTable) : Prop := t = { s with lines := t.lines, classes := classes, link := t.link }
        let bank : Bank := if level then .b1 else .b0
        (x.binding = .none → only s.classes) ∧
        (∀ f, x.binding = .hold f → level = false → t.holds = s.holds.set f (min (s.holds.get f + 1) 255)) ∧
        (∀ f, x.binding = .hold f → level = true → x.debounced = some false →
          t.holds = s.holds.set f (s.holds.get f - 1)) ∧
        (∀ f, x.binding = .hold f → level = true → x.debounced = none → only s.classes) ∧
        (x.binding = .bankSelect → x.debounced = none → only s.classes) ∧
        (x.binding = .bankSelect → x.debounced ≠ none → s.eventOpen = false →
          only { s.classes with activeBank := bank, pendingBank := none }) ∧
        (x.binding = .bankSelect → x.debounced ≠ none → s.eventOpen = true →
          only { s.classes with pendingBank := some bank }) ∧
        (x.binding = .extTrigger → x.debounced = some true → s.detector.state = .clear →
          s.detector.clearedNow = false → t.detector.state = .active ∧
            t.detector.record.map (·.cause) = some .external) ∧
        (x.binding = .extTrigger → x.debounced ≠ some true → only s.classes) ∧
        (x.binding = .extTrigger → s.detector.state ≠ .clear ∨ s.detector.clearedNow = true → only s.classes))

/-! ## The supervisory link (chapter 9) -/

/-- R164, R165, R180, LINK_BYTE_RECEIVED and LINK_GAP_TIMEOUT: the receive assembler, and a frame whose check fails. -/
def Obligations.BytesAndGapDriveTheAssembler : Prop :=
  ∀ (s : State) (b : Byte) (lv : Leave),
    let goes (a : Assembler) : Host.Outcome State Fault Refusal := .next { s with link := { s.link with asm := a } }
    let byte := exec (.linkByteReceived ⟨b, lv⟩ false) s
    exec .linkGapTimeout s = goes .hunting ∧
    (s.inReset = true → exec (.linkByteReceived ⟨b, lv⟩ true) s = .next s ∧ byte = .next s) ∧
    (s.inReset = false →
      exec (.linkByteReceived ⟨b, lv⟩ true) s = goes .hunting ∧
      (s.link.asm = .hunting → byte = goes (if b = 0xA5 then .length else .hunting)) ∧
      (s.link.asm = .length → byte = goes (if 1 ≤ b.toNat ∧ b.toNat ≤ 250 then .body b.toNat [] else .hunting)) ∧
      (∀ n l, s.link.asm = .body n l → byte =
        goes (if l.length + 1 < n then .body n (l ++ [b]) else .check n (l ++ [b]) none)) ∧
      (∀ n l, s.link.asm = .check n l none → byte = goes (.check n l (some b))) ∧
      (∀ n l hi, s.link.asm = .check n l (some hi) → crc16 (byteOf n :: l) ≠ hi ++ b → byte = goes .hunting))

/-- R163 to R167, section 11.3: the frame of a request, received byte by byte, does what its row does. -/
def Obligations.RequestFrameBytesRunTheRequest : Prop :=
  ∀ (c : Instr) (k t : Byte) (p : List Byte) (s : State), c.request? = some (k, t, p) → p.length ≤ 248 →
    s.inReset = false → s.link.asm = .hunting → receive c.leave (frame k t p) s = exec c s

/-- R166 to R168, UNKNOWN_REQUEST: requests discarded, answered BUSY or answered UNKNOWN, by the replies queued and the
request in service. -/
def Obligations.RequestsAreAdmittedInOrder : Prop :=
  ∀ s : State,
    (∀ c k t p, Instr.request? c = some (k, t, p) →
      let queued := s.link.replies.length
      let busy := ∃ u, exec c s = .next u ∧ u.butLink = s.butLink ∧ Link.onlyAnswered s.link u.link ⟨k, t, .busy, []⟩
      (s.inReset = true ∨ 4 ≤ queued → exec c s = .next s) ∧
      (queued = 3 → (∃ tag offset n, s.link.service = some (.imageRead tag offset n)) ∨
        (∃ tag offset l, s.link.service = some (.imageWrite tag offset l)) → exec c s = .next s) ∧
      (s.inReset = false → queued < 3 → s.loader.op = .loading ∨ s.link.service ≠ none → busy) ∧
      (s.inReset = false → queued = 3 → (∃ tag, s.link.service = some (.restart tag)) ∨
        s.link.service = none ∧ s.loader.op = .loading → busy)) ∧
    (s.takesRequests → ∀ k t p, k.toNat = 0 ∨ 0x16 < k.toNat →
      (∃ u, exec (.unknownRequest k (some t) p) s = .next u ∧ u.butLink = s.butLink ∧
        Link.onlyAnswered s.link u.link ⟨k, t, .unknown, []⟩) ∧
      ∃ u, exec (.unknownRequest k none []) s = .next u ∧ u.butLink = s.butLink ∧
        Link.onlyAnswered s.link u.link ⟨k, 0, .unknown, []⟩)

/-- R173, R175 to R177, TRANSMIT_DONE: replies first, then reports with the overflow flag settled, else idle; and what
becomes of a posted report. That an idle transmitter's TRANSMIT_DONE changes nothing is the model's choice
(notes/assumptions/2.md). -/
def Obligations.ReportsAreQueuedAndTheTransmitterChooses : Prop :=
  (∀ s : State, (∀ tag r, s.link.service = some (.restart tag) → s.link.tx = some (.reply r) →
       ¬ (r.kind = 0x14 ∧ r.status = .ok)) →
     (s.link.tx = none → exec .transmitDone s = .next s) ∧
     (s.link.tx ≠ none →
       (∀ r rest, s.link.replies = r :: rest → exec .transmitDone s = .next { s with
         link := { s.link with tx := some (.reply r), replies := rest } }) ∧
       (∀ r rest, s.link.replies = [] → s.link.reports = r :: rest → exec .transmitDone s = .next { s with
         link := { s.link with tx := some (.report r s.link.overflow), reports := rest, overflow := false } }) ∧
       (s.link.replies = [] → s.link.reports = [] →
         exec .transmitDone s = .next { s with link := { s.link with tx := none } }))) ∧
  (∀ (s : State) (r : Report),
     let kept := s.link.mask.getLsbD (r.kind.toNat - 0x40) = true
     (¬ kept → s.post r = s) ∧
     (kept → s.link.tx ≠ none ∨ s.link.choiceOpen = true →
       (s.link.reports.length < 32 → s.post r = { s with link := { s.link with reports := s.link.reports ++ [r] } }) ∧
       (32 ≤ s.link.reports.length → s.post r = { s with link := { s.link with overflow := true } })) ∧
     (kept → s.link.tx = none → s.link.choiceOpen = false → s.link.replies = [] → s.link.reports = [] →
       s.post r = { s with link := { s.link with tx := some (.report r s.link.overflow), overflow := false } }))

/-! ## Requests that only read -/

/-- R45, R134, R149, R161, R170 to R172: the queries answer and change nothing else. -/
def Obligations.ReadRequestsChangeNothing : Prop :=
  ∀ (c : Instr) (k t : Byte) (p : List Byte) (s : State), c.readsOnly = true → c.request? = some (k, t, p) →
    s.takesRequests → ∃ u st body, exec c s = .next u ∧ u.butLink = s.butLink ∧ (st = .ok ∨ st = .value) ∧
      Link.onlyAnswered s.link u.link ⟨k, t, st, body⟩

/-- R63, R91, R115, R130, R134, R170, R172: what Identify, Feeder Query, Setting Read, Class Read, Group Read and Peek show,
each in the layout of section 11.3. The feeder byte 0xFF of a global setting and "halved by derate" 0 with no status
record held are the model's choice (notes/assumptions/14.md), as are the timer's bytes (5.md, 14.md) and the stored
INJ_LIMIT behind L_eff (25.md). -/
def Obligations.QueriesShowTheState : Prop :=
  ∀ (s : State) (tag b : Byte), s.takesRequests →
    (∃ u, exec (.identify tag) s = .next u ∧ Link.onlyAnswered s.link u.link ⟨0x01, tag, .ok,
      [0x06, 0x40, 0x41, 6, byteOf s.loader.op.code, truth s.loader.imageFault, truth s.straps.linkRate,
        truth s.straps.imageSrc]⟩) ∧
    (∀ f, Feeder.ofNumber? b.toNat = some f →
      let q := s.seq.get f
      let g := s.gen.get f
      let p := s.port.get f
      let injLimit := (s.feeders.get f).injLimit
      let units := (s.arbiter.summary.map (·.units)).getD []
      let budget := s.arbiter.budgets.get f
      let sequencer : List Byte :=
        [byteOf q.state.code, optByte (q.phase.map (·.code)), optByte (q.mode.map (·.code)), truth q.barred,
          byteOf (match q.timer with
            | none => 0
            | some ⟨.arm, _, _⟩ => 1
            | some ⟨.bypass, _, _⟩ => 2
            | some ⟨.handover, _, _⟩ => 3
            | some ⟨.stop, _, _⟩ => 4),
          optByte (q.timer.map (·.remaining)), optByte (q.releaseCause.map (·.code)),
          optByte (q.faultCause.map (·.code)), optByte (q.followOn.map (·.code)), truth (s.feeders.get f).enabled,
          truth (s.holds.get f != 0)]
      let generator : List Byte :=
        signedHalf g.refs.a ++ signedHalf g.refs.b ++ signedHalf g.refs.c ++ [byteOf g.tag.code] ++
          half (if p.derate then injLimit / 2 else injLimit) ++ [truth p.derate, byteOf g.satCount] ++ quad g.closedW ++
          half g.closedQ ++ [byteOf g.closedSat]
      let held : List Byte := [truth budget.isSome] ++ half ((budget.map (·.share)).getD 0) ++
        [truth (s.arbiter.flags.get f)]
      let port : List Byte := [byteOf p.state.code, byteOf p.run, byteOf p.miss] ++ (match p.status with
        | some st => [byteOf st.module.code, byteOf st.bypass.code, truth st.derate, byteOf st.fault.code]
        | none => [0xFF, 0xFF, 0xFF, 0xFF])
      (∃ (unit : List Byte) (u : State), exec (.feederQuery tag b) s = .next u ∧
        Link.onlyAnswered s.link u.link ⟨0x03, tag, .ok, [b] ++ sequencer ++ generator ++ unit ++ held ++ port⟩ ∧
        ((∀ w ∈ units, ∀ d ∈ w.members, d.feeder ≠ f) → unit = [0xFF, 0xFF, 0, 0, 0xFF, 0, 0, 0xFF]) ∧
        ∀ (early later : List UnitGrant) (w : UnitGrant) (before after : List Forecast) (d : Forecast),
          units = early ++ w :: later → w.members = before ++ d :: after → d.feeder = f →
          (∀ y ∈ early, ∀ e ∈ y.members, e.feeder ≠ f) → (∀ e ∈ before, e.feeder ≠ f) →
          unit = [byteOf ((w.group.map (·.number)).getD 0), byteOf w.level] ++ half d.full ++ [truth d.measured] ++
            half d.floor ++ [byteOf w.grant.code]) ∧
      ∃ u, exec (.peek tag b) s = .next u ∧ Link.onlyAnswered s.link u.link
        ⟨0x06, tag, .ok, [b, byteOf (s.holds.get f), byteOf (s.holds.get f)]⟩) ∧
    (∀ id f ident, SettingId.ofCode? (BitVec.toNat ident) = some id →
      (id.perFeeder = true → Feeder.ofNumber? b.toNat = some f) →
      ∃ u, exec (.settingRead tag ident b) s = .next u ∧ Link.onlyAnswered s.link u.link
        ⟨0x08, tag, .ok, [ident, if id.perFeeder then b else 0xFF] ++ half (s.settingValue id f)⟩) ∧
    (∀ c, ClassNo.ofNumber? b.toNat = some c → ∃ u, exec (.classRead tag b) s = .next u ∧
      Link.onlyAnswered s.link u.link ⟨0x0A, tag, .ok, [b] ++ half (s.classes.classes.get c).immunity ++
        [byteOf (s.classes.classes.get c).segments.length] ++
        (s.classes.classes.get c).segments.flatMap fun g => byteOf g.limit :: half g.floor⟩) ∧
    (∀ g, GroupNo.ofNumber? b.toNat = some g → ∃ u, exec (.groupRead tag b) s = .next u ∧
      Link.onlyAnswered s.link u.link ⟨0x0C, tag, .ok, [b, setByte (s.groups.get g).members,
        byteOf (s.groups.get g).level, truth (s.groups.get g).requireAll, byteOf (s.groups.get g).state.code,
        setByte (s.groups.get g).engaged, setByte (s.groups.get g).acknowledged, setByte (s.groups.get g).refused,
        optByte ((s.groups.get g).abandonCause.map (·.code))]⟩)

/-- R16, R72, R91, R161, R171: Status Query, whole, and Line Map Read, in the layouts of section 11.3. That the fields of the
allocation summary before the first point read 0 is the model's reading of R189 (DEDUCED, notes/assumptions/14.md). -/
def Obligations.StatusAndLineMapShowTheState : Prop :=
  ∀ (s : State) (tag : Byte), s.takesRequests →
    (let v := s.store
     let magnitudes : List Byte := match s.magnitude.mags with
       | some m => half m.a ++ half m.b ++ half m.c ++ half (min m.a (min m.b m.c)) ++
         [if m.a ≤ m.b ∧ m.a ≤ m.c then 0 else if m.b ≤ m.c then 1 else 2]
       | none => [0xFF, 0xFF, 0xFF, 0xFF, 0xFF, 0xFF, 0xFF, 0xFF, 0xFF]
     let ident (w : UnitGrant) : Nat := match w.group, w.members with
       | some g, _ => 0x10 + g.number
       | none, d :: _ => d.feeder.number
       | none, [] => 0
     let summary : List Byte := match s.arbiter.summary with
       | none => [0, 0, 0xFF, 0, 0, 0, 0, 0, 0, 0, 0, 0, 0, 0, 0, 0]
       | some m => half m.event ++
         (match m.point with
           | .onset .fast => [0, 0]
           | .onset .rms => [0, 1]
           | .onset .external => [0, 2]
           | .boundary t => [1, byteOf t]) ++
         optHalf m.vret ++ half m.available ++ [byteOf m.policy.code] ++ half m.reserve ++ half m.granted ++
         half m.unassigned ++ [byteOf m.units.length] ++
         m.units.flatMap fun w => [byteOf (ident w), byteOf w.grant.code]
     ∃ u, exec (.statusQuery tag) s = .next u ∧ Link.onlyAnswered s.link u.link ⟨0x02, tag, .ok,
       [byteOf s.loader.op.code, truth s.loader.imageFault, byteOf s.tracker.state.code, byteOf s.tracker.miss] ++
       magnitudes ++
       [byteOf s.detector.state.code, byteOf s.detector.t, byteOf s.detector.dwell] ++
       half ((s.detector.record.map (·.number)).getD 0) ++
       [byteOf s.classes.activeBank.number, optByte (s.classes.pendingBank.map (·.number))] ++
       optHalf v.volts ++ quad v.energy ++ half v.quanta ++
       [truth v.warning, truth v.overVoltage, truth v.charger, byteOf v.delay] ++ summary ++
       Feeder.list.map (fun f => byteOf (s.seq.get f).state.code) ++
       Feeder.list.map (fun f => byteOf (s.port.get f).state.code) ++
       GroupNo.list.map (fun g => byteOf (s.groups.get g).state.code) ++
       [s.link.mask.zeroExtend 8, byteOf s.link.reports.length, truth s.link.overflow]⟩) ∧
    ∃ u body, exec (.lineMapRead tag) s = .next u ∧ Link.onlyAnswered s.link u.link ⟨0x0E, tag, .ok, body⟩ ∧
      body.length = 36 ∧ ∀ l : Line,
        let x := s.lines.get l
        (body.drop (3 * (l.number - 1))).take 3 =
          if x.binding.isOutput then [byteOf x.binding.code, truth (x.driven == some true), 0xFF]
          else [byteOf x.binding.code, optByte (x.debounced.map fun b => if b then 1 else 0), optByte x.run]

/-- R37 to R39, R45: Event Query, which record it shows and each of the record's fields in the layout of section 11.3, and
Event List. -/
def Obligations.EventQueriesShowTheRecords : Prop :=
  ∀ (s : State) (tag : Byte) (n : Half), s.takesRequests →
    let reading (v : Option Reading) : List Byte := match v with
      | some ⟨k, p⟩ => half k ++ [match p with
        | .a => 0
        | .b => 1
        | .c => 2]
      | none => [0xFF, 0xFF, 0xFF]
    let entry (e : Entry) : List Byte :=
      [byteOf e.feeder.number, if e.engaged then 0 else 1, optByte (e.reason.map (·.code)),
        optByte (e.firstMode.map (·.code)), optByte (e.lastMode.map (·.code)), byteOf e.injected] ++ quad e.quanta ++
      [byteOf e.overdraw, byteOf e.saturated, optByte (e.release.map (·.code))] ++
      match e.verdict with
        | .heldUp => [0, 0xFF]
        | .violated t => [1, byteOf t]
    let shown (r : Record) (isOpen : Byte) (duration : Nat) : List Byte :=
      half r.number ++ [isOpen, byteOf r.cause.code, byteOf r.comp.code] ++ reading r.onset ++ reading r.minimum ++
      [byteOf duration, optByte (r.endCause.map (·.code))] ++ half r.storeOnset ++ half r.storeMin ++
      half r.quantaOnset ++ quad r.total ++ [byteOf r.entries.length] ++ r.entries.flatMap entry
    (∃ u, exec (.eventList tag) s = .next u ∧ Link.onlyAnswered s.link u.link ⟨0x05, tag, .ok,
      half ((s.detector.record.map (·.number)).getD 0) ++ [byteOf s.detector.table.length] ++
        s.detector.table.reverse.flatMap fun r => half r.number⟩) ∧
    (∀ r, s.detector.record = some r → n.toNat = 0 ∨ n.toNat = r.number →
      ∃ u, exec (.eventQuery tag n) s = .next u ∧
        Link.onlyAnswered s.link u.link ⟨0x04, tag, .ok, shown r 1 s.detector.t⟩) ∧
    (∀ r early, s.detector.record = none → n.toNat = 0 → s.detector.table = early ++ [r] →
      ∃ u, exec (.eventQuery tag n) s = .next u ∧
        Link.onlyAnswered s.link u.link ⟨0x04, tag, .ok, shown r 0 r.duration⟩) ∧
    (∀ r early later, s.detector.table = early ++ r :: later → n.toNat = r.number → n.toNat ≠ 0 →
      (∀ q ∈ early, q.number ≠ r.number) → (∀ q, s.detector.record = some q → q.number ≠ r.number) →
      ∃ u, exec (.eventQuery tag n) s = .next u ∧
        Link.onlyAnswered s.link u.link ⟨0x04, tag, .ok, shown r 0 r.duration⟩) ∧
    ((∀ q ∈ s.detector.table, n.toNat ≠ 0 ∧ q.number ≠ n.toNat) →
      (∀ q, s.detector.record = some q → n.toNat ≠ 0 ∧ q.number ≠ n.toNat) →
      ∃ u, exec (.eventQuery tag n) s = .next u ∧ Link.onlyAnswered s.link u.link ⟨0x04, tag, .value, []⟩) ∧
    ∀ (r : Record) (o : Byte) (d : Nat), (shown r o d).length = 24 + 15 * r.entries.length

/-! ## Holds -/

/-- R149, R151: the seven Hold requests on a feeder's count. -/
def Obligations.HoldRequestsApplyTheirOperation : Prop :=
  ∀ (s : State) (op : HoldOp) (tag b : Byte) (lv : Leave), s.takesRequests →
    (Feeder.ofNumber? b.toNat = none → ∃ u, exec (Instr.holdRow op tag b lv) s = .next u ∧ u.butLink = s.butLink ∧
      Link.onlyAnswered s.link u.link ⟨0x06, tag, .value, []⟩) ∧
    ∀ f, Feeder.ofNumber? b.toNat = some f →
      let c := s.holds.get f
      let after : Nat := match op with
        | .take => if c < 255 then c + 1 else 255
        | .drop => c - 1
        | .takeIfFree => if c = 0 then 1 else c
        | .takeIfHeld => if 1 ≤ c ∧ c < 255 then c + 1 else c
        | .forceClear => 0
        | .forceFull => 255
        | .peek => c
      ∃ u, exec (Instr.holdRow op tag b lv) s = .next u ∧ u.holds = s.holds.set f after ∧
        u.butCourse = State.butCourse { s with holds := s.holds.set f after } ∧
        Link.answered s.link u.link ⟨0x06, tag, .ok, [b, byteOf c, byteOf after]⟩ ∧
        ((c = 0 ↔ after = 0) → u.butLink = State.butLink { s with holds := s.holds.set f after })

/-- R106, R113, R114: every hold operation of a command, by request, by an accepted HOLD line or by the binding of a low
line, that changes a feeder's count from 0 to nonzero or back is answered by its sequencer in the same event, with its
report; no other feeder of an unchanged count is touched but through a group that the departure abandons. -/
def Obligations.HoldChangesReachTheSequencer : Prop :=
  ∀ (s : State) (c : Instr) (f : Feeder) (lv : Leave) (taken : Bool), s.TurnsHold f lv c taken →
    let q := s.seq.get f
    ∃ u, exec c s = .next u ∧ (u.holds.get f ≠ 0 ↔ taken = true) ∧
      (taken = true →
        (q.state = .standby → u.seq.get f = { q with state := .held, phase := none, timer := none } ∧
          s.link.carries u.link (.feederState f .held none q.mode (some .held))) ∧
        (q.state = .arming ∨ q.state = .injecting → u.seq.get f = { q with
          state := .releasing, phase := some .closing, releaseCause := some .held,
          timer := some ⟨.bypass, s.globals.bypassTimeout, true⟩, barred := q.barred || s.eventOpen } ∧
          s.link.carries u.link (.feederState f .releasing (some .closing) q.mode (some .held))) ∧
        (q.state = .offline ∨ q.state = .held ∨ q.state = .releasing ∨ q.state = .faulted → u.seq.get f = q)) ∧
      (taken = false →
        (q.state = .held → u.seq.get f = { q with state := .standby, phase := none, timer := none } ∧
          s.link.carries u.link (.feederState f .standby none q.mode none)) ∧
        (q.state ≠ .held → u.seq.get f = q)) ∧
      ((∀ tag b k, c ≠ .lineMapWrite tag b k) → ∀ h, h ≠ f → u.holds.get h = s.holds.get h) ∧
      (taken = false ∨ s.participant f = false ∨ lv.refusal = true ∨ lv.requests = true ∨
          s.groupOf f = none ∧ s.refusals = [] ∧ s.groupRequests = FeederSet.empty →
        ∀ h, h ≠ f → u.holds.get h = s.holds.get h → u.seq.get h = s.seq.get h)

/-! ## Settings, classes, groups, lines and banks -/

/-- R56, R67, R79, R112, R148, R168, R169, R172, SETTING_WRITE: a written value is limited to its range, answered CLAMPED if
that changed it, and stored, nothing else changing; an enumeration's value in its set is stored as it is. The refusals
change nothing. The feeder byte 0xFF of a global setting is the model's choice (notes/assumptions/14.md). -/
def Obligations.SettingWriteClampsStoresOrRefuses : Prop :=
  (∀ (s : State) (tag ident b : Byte) (v : Half) (id : SettingId) (f : Feeder), s.takesRequests →
     SettingId.ofCode? ident.toNat = some id → id ≠ .lineFreq → id ≠ .enabled →
     (id.perFeeder = true → Feeder.ofNumber? b.toNat = some f) → id.valueInSet v.toNat = true → s.eventOpen = false →
     s.globals.wf →
     let stored := match id.range s.globals with
       | some (low, high) => max low (min high v.toNat)
       | none => v.toNat
     ∃ u, exec (.settingWrite tag ident b v) s = .next u ∧ u.settingValue id f = stored ∧
       (∀ id' f', id' ≠ id ∨ id.perFeeder = true ∧ f' ≠ f → u.settingValue id' f' = s.settingValue id' f') ∧
       u.globals.wf ∧
       u.written = some s.stored ∧ State.butLink { u with
         globals := s.globals, feeders := s.feeders, classes := { u.classes with banks := s.classes.banks },
         written := s.written } = s.butLink ∧
       Link.onlyAnswered s.link u.link ⟨0x07, tag, if stored = v.toNat then .ok else .clamped,
         [ident, if id.perFeeder then b else 0xFF] ++ half stored⟩) ∧
  (∀ (s : State) (tag ident b : Byte) (v : Half), s.takesRequests →
     let refused (st : Status) := ∃ u, exec (.settingWrite tag ident b v) s = .next u ∧ u.butLink = s.butLink ∧
       Link.onlyAnswered s.link u.link ⟨0x07, tag, st, []⟩
     (SettingId.ofCode? ident.toNat = none → refused .value) ∧
     ∀ id, SettingId.ofCode? ident.toNat = some id →
       (id.perFeeder = true ∧ Feeder.ofNumber? b.toNat = none ∨ id.valueInSet v.toNat = false → refused .value) ∧
       ((id.perFeeder = true → Feeder.ofNumber? b.toNat ≠ none) → id.valueInSet v.toNat = true → s.eventOpen = true →
         refused .notNow))

/-- R3, SETTING_WRITE_LINE_FREQ: a change returns the tracker to SEEKING; the value in force changes nothing. -/
def Obligations.LineFreqWriteReturnsTrackerToSeeking : Prop :=
  ∀ (s : State) (tag b : Byte) (v : Half), s.takesRequests →
    let refused (st : Status) := ∃ u, exec (.settingWriteLineFreq tag b v) s = .next u ∧ u.butLink = s.butLink ∧
      Link.onlyAnswered s.link u.link ⟨0x07, tag, st, []⟩
    (v.toNat ≠ 50 → v.toNat ≠ 60 → refused .value) ∧
    (v.toNat = 50 ∨ v.toNat = 60 → s.eventOpen = true → refused .notNow) ∧
    ∀ q : LineFreq, v.toNat = q.code → s.eventOpen = false →
      ∃ u, exec (.settingWriteLineFreq tag b v) s = .next u ∧
        Link.answered s.link u.link ⟨0x07, tag, .ok, [0x01, 0xFF] ++ half v.toNat⟩ ∧
        (q = s.globals.lineFreq → u.butLink = s.butLink) ∧
        (q ≠ s.globals.lineFreq → u.butLink = State.butLink { s with
          globals := { s.globals with lineFreq := q }, written := some s.stored
          tracker := { s.tracker with state := .seeking, miss := 0, remembered := false } } ∧
          (s.tracker.state ≠ .seeking → s.link.carries u.link (.tracker .seeking .freqChange)))

/-- R111, SETTING_WRITE_ENABLED: a feeder brought up, taken out of service, or not to be disturbed. -/
def Obligations.EnabledWriteBringsUpOrTakesDown : Prop :=
  ∀ (s : State) (tag b : Byte) (f : Feeder), s.takesRequests → Feeder.ofNumber? b.toNat = some f →
    let q := s.seq.get f
    let answer (yes : Bool) : Reply := ⟨0x07, tag, .ok, [0x20, b] ++ half (if yes then 1 else 0)⟩
    let set (yes : Bool) : State :=
      { s with feeders := s.feeders.set f { s.feeders.get f with enabled := yes }, written := some s.stored }
    (∀ yes : Bool, q.state = .arming ∨ q.state = .injecting ∨ q.state = .releasing ∨ s.eventOpen = true →
      ∃ u, exec (.settingWriteEnabled tag b (if yes then 1 else 0)) s = .next u ∧ u.butLink = s.butLink ∧
        Link.onlyAnswered s.link u.link ⟨0x07, tag, .notNow, []⟩) ∧
    (s.eventOpen = false →
      (q.state = .offline → s.loader.op = .running → ∃ u, exec (.settingWriteEnabled tag b 1) s = .next u ∧
        Link.answered s.link u.link (answer true) ∧ u.feeders = (set true).feeders ∧ u.holds = s.holds ∧
        u.seq = s.seq.set f { q with
          state := if s.holds.get f = 0 then .standby else .held, phase := none, timer := none } ∧
        (∀ h, h ≠ f → u.port.get h = s.port.get h) ∧ (u.port.get f).state = .waiting ∧ (u.port.get f).run = 0 ∧
        (u.port.get f).miss = 0 ∧ (u.port.get f).status = none ∧
        s.link.carries u.link (.port f .waiting .waiting none)) ∧
      (q.state = .offline ∧ s.loader.op ≠ .running ∨ q.state = .standby ∨ q.state = .held ∨ q.state = .faulted →
        ∃ u, exec (.settingWriteEnabled tag b 1) s = .next u ∧ u.butLink = (set true).butLink ∧
          Link.onlyAnswered s.link u.link (answer true)) ∧
      (q.state = .standby ∨ q.state = .held ∨ q.state = .faulted →
        ∃ u, exec (.settingWriteEnabled tag b 0) s = .next u ∧ Link.answered s.link u.link (answer false) ∧
          u.feeders = (set false).feeders ∧ u.holds = s.holds ∧
          u.seq = s.seq.set f { q with
            state := .offline, phase := none, timer := none, faultCause := none, followOn := none } ∧
          (∀ h, h ≠ f → u.port.get h = s.port.get h) ∧ (u.port.get f).state = .quiet ∧
          s.link.carries u.link (.feederState f .offline none q.mode none) ∧
          ((s.port.get f).state ≠ .quiet → s.link.carries u.link (.port f .quiet .down none) ∧
            ((s.port.get f).derate = true → s.link.carries u.link (.port f .quiet .derateClear none)))) ∧
      (q.state = .offline → ∃ u, exec (.settingWriteEnabled tag b 0) s = .next u ∧
        u.butLink = (set false).butLink ∧ Link.onlyAnswered s.link u.link (answer false)))

/-- R31, R32, CLASS_WRITE: a class as it is stored, and the refusals. -/
def Obligations.ClassWriteClampsInOrder : Prop :=
  ∀ (s : State) (tag b : Byte) (m : Half) (n : Byte) (l : List Byte), s.takesRequests →
    let refused (st : Status) := ∃ u, exec (.classWrite tag b m n l) s = .next u ∧ u.butLink = s.butLink ∧
      Link.onlyAnswered s.link u.link ⟨0x09, tag, st, []⟩
    let asked : EnvClass := ⟨m.toNat, segmentsOf l⟩
    let limits := asked.segments.map fun g => max 1 (min 250 g.limit)
    (6 < n.toNat ∨ l.length ≠ 3 * n.toNat → refused .length) ∧
    (n.toNat ≤ 6 → l.length = 3 * n.toNat →
      (ClassNo.ofNumber? b.toNat = none → refused .value) ∧
      ∀ c, ClassNo.ofNumber? b.toNat = some c →
        (s.eventOpen = true → refused .notNow) ∧
        (s.eventOpen = false → ¬ limits.Pairwise (· < ·) → refused .value) ∧
        (s.eventOpen = false → limits.Pairwise (· < ·) →
          ∃ u k, exec (.classWrite tag b m n l) s = .next u ∧
            u.butLink = State.butLink { s with
              classes := { s.classes with classes := s.classes.classes.set c k }, written := some s.stored } ∧
            k.wf ∧ k.immunity = max 500 (min 1000 m.toNat) ∧ k.segments.map (·.limit) = limits ∧
            (∀ (i : Nat) g a, k.segments[i]? = some g → asked.segments[i]? = some a → g.floor =
              min (max (if i = 0 then 0 else ((k.segments[i - 1]?).map (·.floor)).getD 0) (min a.floor 1000))
                k.immunity) ∧
            (asked.wf → k = asked) ∧
            Link.onlyAnswered s.link u.link ⟨0x09, tag, if k = asked then .ok else .clamped,
              [b] ++ half k.immunity ++ [n] ++ k.segments.flatMap fun g => byteOf g.limit :: half g.floor⟩))

/-- R132, GROUP_WRITE: a group record replaced whole, and the refusals. -/
def Obligations.GroupWriteReplacesTheRecord : Prop :=
  ∀ (s : State) (tag b m level all : Byte), s.takesRequests →
    let refused (st : Status) := ∃ u, exec (.groupWrite tag b m level all) s = .next u ∧ u.butLink = s.butLink ∧
      Link.onlyAnswered s.link u.link ⟨0x0B, tag, st, []⟩
    let members : FeederSet := Six.of fun f => m.getLsbD (f.number - 1)
    let taken (g : GroupNo) := ∃ f h, members.get f = true ∧ h ≠ g ∧ (s.groups.get h).members.get f = true
    (GroupNo.ofNumber? b.toNat = none ∨ 64 ≤ m.toNat ∨ 2 ≤ all.toNat → refused .value) ∧
    ∀ g, GroupNo.ofNumber? b.toNat = some g → m.toNat < 64 → all.toNat < 2 →
      (s.eventOpen = true → refused .notNow) ∧
      (s.eventOpen = false → taken g → refused .value) ∧
      (s.eventOpen = false → ¬ taken g → ∃ u, exec (.groupWrite tag b m level all) s = .next u ∧
        u.butLink = State.butLink { s with groups := s.groups.set g { Group.default with
          members := members, level := min 3 level.toNat, requireAll := decide (all.toNat = 1) } } ∧
        Link.onlyAnswered s.link u.link ⟨0x0B, tag, if 3 < level.toNat then .clamped else .ok,
          [b, m, byteOf (min 3 level.toNat), all, 0, 0, 0, 0, 0xFF]⟩)

/-- R146, R76, R80, GROUP_ACKS_CLEAR: the sets of a group in IDLE or ABANDONED emptied; what a group in ABANDONED with its sets
cleared still does: a later refusal adds its member to the refused set, no unit is formed of it, and its available
members stand by with GROUP_INCOMPLETE. -/
def Obligations.GroupAcksClearEmptiesTheSets : Prop :=
  ∀ (s : State) (tag b : Byte), s.takesRequests →
    let refused (st : Status) := ∃ u, exec (.groupAcksClear tag b) s = .next u ∧ u.butLink = s.butLink ∧
      Link.onlyAnswered s.link u.link ⟨0x11, tag, st, []⟩
    (b.toNat < 1 ∨ 4 < b.toNat → refused .value) ∧
    ∀ g : GroupNo, g.number = b.toNat →
      ((s.groups.get g).state = .engaging ∨ (s.groups.get g).state = .active → refused .notNow) ∧
      ((s.groups.get g).state = .idle ∨ (s.groups.get g).state = .abandoned →
        let cleared : Group := { s.groups.get g with
          engaged := .empty, acknowledged := .empty, refused := .empty, abandonCause := none }
        ∃ u, exec (.groupAcksClear tag b) s = .next u ∧
          u.butLink = State.butLink { s with groups := s.groups.set g cleared } ∧
          Link.onlyAnswered s.link u.link ⟨0x11, tag, .ok, [b]⟩ ∧
          ((s.groups.get g).state = .abandoned →
            (∀ f a, s.groupOf f = some g → u.takeRefusal f a =
              { u with groups := u.groups.set g { cleared with refused := FeederSet.empty.set f true } }) ∧
            (∀ k released, u.groupClaim k u.groups released g = []) ∧
            ∀ k units f, s.groupOf f = some g → s.available f = true → unitOf units f = none →
              u.stoodBy k u.groups units f = some .groupIncomplete))

/-- R154, R155, R157, LINE_MAP_WRITE: a line rebound, with the holds its low level gives and takes. -/
def Obligations.LineMapWriteRebindsTheLine : Prop :=
  ∀ (s : State) (tag b code : Byte) (lv : Leave), s.takesRequests →
    (Line.ofNumber? b.toNat = none ∨ EventCode.ofCode? code.toNat = none →
      ∃ u, exec (.lineMapWrite tag b ⟨code, lv⟩) s = .next u ∧ u.butLink = s.butLink ∧
        Link.onlyAnswered s.link u.link ⟨0x0D, tag, .value, []⟩) ∧
    ∀ l c, Line.ofNumber? b.toNat = some l → EventCode.ofCode? code.toNat = some c →
      let x := s.lines.get l
      ∃ u, exec (.lineMapWrite tag b ⟨code, lv⟩) s = .next u ∧
        Link.answered s.link u.link ⟨0x0D, tag, .ok, [b, byteOf x.binding.code, code]⟩ ∧
        (c = x.binding → u.butLink = s.butLink) ∧
        (c ≠ x.binding →
          u.butCourse = State.butCourse { s with lines := u.lines, holds := u.holds } ∧
          (∀ k, k ≠ l → u.lines.get k = s.lines.get k) ∧ (u.lines.get l).binding = c ∧
          (c.isOutput = true → u.lines.get l = ⟨c, none, none, none, some false⟩) ∧
          (c.isOutput = false → x.binding.isOutput = true → u.lines.get l = ⟨c, none, none, none, none⟩) ∧
          (c.isOutput = false → x.binding.isOutput = false → u.lines.get l = { x with binding := c }) ∧
          ∀ f, u.holds.get f =
            if x.debounced = some false ∧ x.binding = .hold f then s.holds.get f - 1
            else if x.debounced = some false ∧ c = .hold f then (if s.holds.get f < 255 then s.holds.get f + 1 else 255)
            else s.holds.get f)

/-- R36, BANK_SELECT: stored at once outside an event, for the next sample instant (the model's reading of "applied",
notes/assumptions/12.md), pending within one. -/
def Obligations.BankSelectSwitchesOrPends : Prop :=
  ∀ (s : State) (tag b : Byte), s.takesRequests →
    (2 ≤ b.toNat → ∃ u, exec (.bankSelect tag b) s = .next u ∧ u.butLink = s.butLink ∧
      Link.onlyAnswered s.link u.link ⟨0x0F, tag, .value, []⟩) ∧
    ∀ k : Bank, k.number = b.toNat →
      (s.eventOpen = false → ∃ u, exec (.bankSelect tag b) s = .next u ∧
        u.butLink = State.butLink { s with
          classes := { s.classes with activeBank := k, pendingBank := none }, written := some s.stored } ∧
        Link.onlyAnswered s.link u.link ⟨0x0F, tag, .ok, [b, 0xFF]⟩) ∧
      (s.eventOpen = true → ∃ u, exec (.bankSelect tag b) s = .next u ∧
        u.butLink = State.butLink { s with classes := { s.classes with pendingBank := some k } } ∧
        Link.onlyAnswered s.link u.link ⟨0x0F, tag, .ok, [byteOf s.classes.activeBank.number, b]⟩)

/-! ## Fault Clear, Compensation Enable, Restart, Report Mask -/

/-- R110, FAULT_CLEAR. -/
def Obligations.FaultClearReturnsTheFeeder : Prop :=
  ∀ (s : State) (tag b : Byte), s.takesRequests →
    let refused (st : Status) := ∃ u, exec (.faultClear tag b) s = .next u ∧ u.butLink = s.butLink ∧
      Link.onlyAnswered s.link u.link ⟨0x10, tag, st, []⟩
    (Feeder.ofNumber? b.toNat = none → refused .value) ∧
    ∀ f, Feeder.ofNumber? b.toNat = some f →
      let q := s.seq.get f
      let clear := (s.port.get f).state = .up ∧
        ∃ st, (s.port.get f).status = some st ∧ st.module = .idle ∧ st.fault = .none ∧ st.bypass = .closed
      (q.state ≠ .faulted → ∃ u, exec (.faultClear tag b) s = .next u ∧ u.butLink = s.butLink ∧
        Link.onlyAnswered s.link u.link ⟨0x10, tag, .ok, [b, byteOf q.state.code]⟩) ∧
      (q.state = .faulted → ¬ clear → refused .refused) ∧
      (q.state = .faulted → clear → ∃ u, exec (.faultClear tag b) s = .next u ∧
        u.butLink = State.butLink { s with seq := s.seq.set f { q with
          state := if s.holds.get f = 0 then .standby else .held, phase := none, timer := none,
          faultCause := none, followOn := none } } ∧
        Link.answered s.link u.link ⟨0x10, tag, .ok, [b, if s.holds.get f = 0 then 1 else 2]⟩ ∧
        s.link.carries u.link (if s.holds.get f = 0 then .feederState f .standby none q.mode none
          else .feederState f .held none q.mode (some .held)))

/-- R95, R123, R185, COMPENSATION_ENABLE. -/
def Obligations.CompensationEnableEntersRunning : Prop :=
  ∀ (s : State) (tag : Byte), s.takesRequests →
    (s.loader.op = .running → ∃ u, exec (.compensationEnable tag) s = .next u ∧ u.butLink = s.butLink ∧
      Link.onlyAnswered s.link u.link ⟨0x15, tag, .ok, [2]⟩) ∧
    (s.loader.op = .configuring → ∃ u, exec (.compensationEnable tag) s = .next u ∧
      u.loader = { s.loader with op := .running } ∧ Link.answered s.link u.link ⟨0x15, tag, .ok, [2]⟩ ∧
      State.butLink { u with loader := s.loader, seq := s.seq, port := s.port, gen := s.gen } = s.butLink ∧
      ∀ f,
        ((s.feeders.get f).enabled = false →
          u.seq.get f = s.seq.get f ∧ u.port.get f = s.port.get f ∧ u.gen.get f = s.gen.get f) ∧
        ((s.feeders.get f).enabled = true →
          u.seq.get f = { s.seq.get f with
            state := if s.holds.get f = 0 then .standby else .held, phase := none, timer := none } ∧
          u.port.get f = ⟨.waiting, 0, 0, none, some ⟨.idle, .close, Tri.all 0⟩, true, false⟩ ∧
          s.link.carries u.link (.port f .waiting .waiting none)))

/-- R178, RESTART: refused in an event, else answered OK with the request in service until that reply has been sent. -/
def Obligations.RestartIsAnsweredBeforeTheReset : Prop :=
  ∀ (s : State) (tag : Byte), s.takesRequests →
    (s.eventOpen = true → ∃ u, exec (.restart tag) s = .next u ∧ u.butLink = s.butLink ∧
      Link.onlyAnswered s.link u.link ⟨0x14, tag, .notNow, []⟩) ∧
    (s.eventOpen = false → ∃ u, exec (.restart tag) s = .next u ∧ u.butLink = s.butLink ∧
      u.link.service = some (.restart tag) ∧ u.link.asm = s.link.asm ∧ u.link.mask = s.link.mask ∧
      u.link.reports = s.link.reports ∧ u.link.overflow = s.link.overflow ∧
      u.link.waitingReplies = s.link.waitingReplies ++ [⟨0x14, tag, .ok, []⟩])

/-- R174, REPORT_MASK: the mask replaced; a report posted before the request is tested against the old mask and one posted
after it against the new one; reports already queued stay, and are sent whatever the mask says. -/
def Obligations.ReportMaskReplacesTheMask : Prop :=
  ∀ (s : State) (tag m : Byte), s.takesRequests →
    (128 ≤ m.toNat → ∃ u, exec (.reportMask tag m) s = .next u ∧ u.butLink = s.butLink ∧
      Link.onlyAnswered s.link u.link ⟨0x16, tag, .value, []⟩) ∧
    (m.toNat < 128 → ∃ u, exec (.reportMask tag m) s = .next u ∧ u.butLink = s.butLink ∧
      u.link.mask.toNat = m.toNat ∧ u.link.asm = s.link.asm ∧ u.link.service = s.link.service ∧
      u.link.reports = s.link.reports ∧ u.link.overflow = s.link.overflow ∧
      u.link.waitingReplies = s.link.waitingReplies ++
        [⟨0x16, tag, .ok, [byteOf s.link.mask.toNat, m]⟩] ∧
      (∀ r : Report, (s.link.mask.getLsbD r.bit = false → s.post r = s) ∧ s.link.carries (s.post r).link r ∧
        (m.getLsbD r.bit = false → u.post r = u) ∧
        (m.getLsbD r.bit = true → r ∈ (u.post r).link.reports ∨
          32 ≤ (u.post r).link.reports.length ∧ (u.post r).link.overflow = true)) ∧
      ∀ r rest, s.link.reports = r :: rest →
        ∃ v, exec .transmitDone { u with link := { u.link with replies := [] } } = .next v ∧
          v.link.tx = some (.report r s.link.overflow) ∧ v.link.reports = rest)

/-! ## What every run keeps -/

/-- Every step keeps the bounds, orders and exclusions of `Sound` and R106 (R31, R32, R44, R106, R132, R149, R166,
R175, R179), and the engaged set of every group within its members (R80, R136). That a part held in reset shows LOADING,
a conjunct of `HoldsObeyed`, is the model's choice (notes/assumptions/10.md). -/
def Obligations.EveryStepKeepsTheInvariants : Prop :=
  (∀ s t : State, s.Sound → s.HoldsObeyed → step s = .next t → t.Sound ∧ t.HoldsObeyed) ∧
    ∀ s t : State, engagedWithin s.groups → step s = .next t → engagedWithin t.groups

/-- The state after reset has the invariants that every step keeps; that the part held in reset shows LOADING is the
model's choice (notes/assumptions/10.md). -/
def Obligations.ResetMeetsTheInvariants : Prop :=
  State.reset.Sound ∧ State.reset.HoldsObeyed ∧ engagedWithin State.reset.groups
end

