-- ==== Sys2Proof/Laws/State.lean ====
section
/-! SUPPORT. The fields of a state after each per-block update, each true by unfolding once, so that no later proof
unfolds a record update. -/

namespace Sys2Proof.Machine

open Sys2Proof

/-! ## post -/

@[simp] theorem State.post_inReset (s : State) (r : Report) : (s.post r).inReset = s.inReset := rfl
@[simp] theorem State.post_straps (s : State) (r : Report) : (s.post r).straps = s.straps := rfl
@[simp] theorem State.post_loader (s : State) (r : Report) : (s.post r).loader = s.loader := rfl
@[simp] theorem State.post_globals (s : State) (r : Report) : (s.post r).globals = s.globals := rfl
@[simp] theorem State.post_feeders (s : State) (r : Report) : (s.post r).feeders = s.feeders := rfl
@[simp] theorem State.post_classes (s : State) (r : Report) : (s.post r).classes = s.classes := rfl
@[simp] theorem State.post_inForce (s : State) (r : Report) : (s.post r).inForce = s.inForce := rfl
@[simp] theorem State.post_written (s : State) (r : Report) : (s.post r).written = s.written := rfl
@[simp] theorem State.post_sample (s : State) (r : Report) : (s.post r).sample = s.sample := rfl
@[simp] theorem State.post_tracker (s : State) (r : Report) : (s.post r).tracker = s.tracker := rfl
@[simp] theorem State.post_magnitude (s : State) (r : Report) : (s.post r).magnitude = s.magnitude := rfl
@[simp] theorem State.post_comparator (s : State) (r : Report) : (s.post r).comparator = s.comparator := rfl
@[simp] theorem State.post_detector (s : State) (r : Report) : (s.post r).detector = s.detector := rfl
@[simp] theorem State.post_gen (s : State) (r : Report) : (s.post r).gen = s.gen := rfl
@[simp] theorem State.post_store (s : State) (r : Report) : (s.post r).store = s.store := rfl
@[simp] theorem State.post_arbiter (s : State) (r : Report) : (s.post r).arbiter = s.arbiter := rfl
@[simp] theorem State.post_seq (s : State) (r : Report) : (s.post r).seq = s.seq := rfl
@[simp] theorem State.post_port (s : State) (r : Report) : (s.post r).port = s.port := rfl
@[simp] theorem State.post_groups (s : State) (r : Report) : (s.post r).groups = s.groups := rfl
@[simp] theorem State.post_groupRequests (s : State) (r : Report) : (s.post r).groupRequests = s.groupRequests := rfl
@[simp] theorem State.post_refusals (s : State) (r : Report) : (s.post r).refusals = s.refusals := rfl
@[simp] theorem State.post_holds (s : State) (r : Report) : (s.post r).holds = s.holds := rfl
@[simp] theorem State.post_lines (s : State) (r : Report) : (s.post r).lines = s.lines := rfl
@[simp] theorem State.post_link (s : State) (r : Report) : (s.post r).link = s.link.post r := rfl
@[simp] theorem State.post_image (s : State) (r : Report) : (s.post r).image = s.image := rfl
@[simp] theorem State.post_freeCount (s : State) (r : Report) : (s.post r).freeCount = s.freeCount := rfl
@[simp] theorem State.post_pending (s : State) (r : Report) : (s.post r).pending = s.pending := rfl

/-! ## queueReply -/

@[simp] theorem State.queueReply_inReset (s : State) (r : Reply) : (s.queueReply r).inReset = s.inReset := rfl
@[simp] theorem State.queueReply_straps (s : State) (r : Reply) : (s.queueReply r).straps = s.straps := rfl
@[simp] theorem State.queueReply_loader (s : State) (r : Reply) : (s.queueReply r).loader = s.loader := rfl
@[simp] theorem State.queueReply_globals (s : State) (r : Reply) : (s.queueReply r).globals = s.globals := rfl
@[simp] theorem State.queueReply_feeders (s : State) (r : Reply) : (s.queueReply r).feeders = s.feeders := rfl
@[simp] theorem State.queueReply_classes (s : State) (r : Reply) : (s.queueReply r).classes = s.classes := rfl
@[simp] theorem State.queueReply_inForce (s : State) (r : Reply) : (s.queueReply r).inForce = s.inForce := rfl
@[simp] theorem State.queueReply_written (s : State) (r : Reply) : (s.queueReply r).written = s.written := rfl
@[simp] theorem State.queueReply_sample (s : State) (r : Reply) : (s.queueReply r).sample = s.sample := rfl
@[simp] theorem State.queueReply_tracker (s : State) (r : Reply) : (s.queueReply r).tracker = s.tracker := rfl
@[simp] theorem State.queueReply_magnitude (s : State) (r : Reply) : (s.queueReply r).magnitude = s.magnitude := rfl
@[simp] theorem State.queueReply_comparator (s : State) (r : Reply) : (s.queueReply r).comparator = s.comparator := rfl
@[simp] theorem State.queueReply_detector (s : State) (r : Reply) : (s.queueReply r).detector = s.detector := rfl
@[simp] theorem State.queueReply_gen (s : State) (r : Reply) : (s.queueReply r).gen = s.gen := rfl
@[simp] theorem State.queueReply_store (s : State) (r : Reply) : (s.queueReply r).store = s.store := rfl
@[simp] theorem State.queueReply_arbiter (s : State) (r : Reply) : (s.queueReply r).arbiter = s.arbiter := rfl
@[simp] theorem State.queueReply_seq (s : State) (r : Reply) : (s.queueReply r).seq = s.seq := rfl
@[simp] theorem State.queueReply_port (s : State) (r : Reply) : (s.queueReply r).port = s.port := rfl
@[simp] theorem State.queueReply_groups (s : State) (r : Reply) : (s.queueReply r).groups = s.groups := rfl
@[simp] theorem State.queueReply_groupRequests (s : State) (r : Reply) : (s.queueReply r).groupRequests = s.groupRequests := rfl
@[simp] theorem State.queueReply_refusals (s : State) (r : Reply) : (s.queueReply r).refusals = s.refusals := rfl
@[simp] theorem State.queueReply_holds (s : State) (r : Reply) : (s.queueReply r).holds = s.holds := rfl
@[simp] theorem State.queueReply_lines (s : State) (r : Reply) : (s.queueReply r).lines = s.lines := rfl
@[simp] theorem State.queueReply_link (s : State) (r : Reply) : (s.queueReply r).link = Link.choose { s.link with replies := s.link.replies ++ [r], choiceOpen := false } := rfl
@[simp] theorem State.queueReply_image (s : State) (r : Reply) : (s.queueReply r).image = s.image := rfl
@[simp] theorem State.queueReply_freeCount (s : State) (r : Reply) : (s.queueReply r).freeCount = s.freeCount := rfl
@[simp] theorem State.queueReply_pending (s : State) (r : Reply) : (s.queueReply r).pending = s.pending := rfl

/-! ## setSeq -/

@[simp] theorem State.setSeq_inReset (s : State) (f : Feeder) (q : Sequencer) : (s.setSeq f q).inReset = s.inReset := rfl
@[simp] theorem State.setSeq_straps (s : State) (f : Feeder) (q : Sequencer) : (s.setSeq f q).straps = s.straps := rfl
@[simp] theorem State.setSeq_loader (s : State) (f : Feeder) (q : Sequencer) : (s.setSeq f q).loader = s.loader := rfl
@[simp] theorem State.setSeq_globals (s : State) (f : Feeder) (q : Sequencer) : (s.setSeq f q).globals = s.globals := rfl
@[simp] theorem State.setSeq_feeders (s : State) (f : Feeder) (q : Sequencer) : (s.setSeq f q).feeders = s.feeders := rfl
@[simp] theorem State.setSeq_classes (s : State) (f : Feeder) (q : Sequencer) : (s.setSeq f q).classes = s.classes := rfl
@[simp] theorem State.setSeq_inForce (s : State) (f : Feeder) (q : Sequencer) : (s.setSeq f q).inForce = s.inForce := rfl
@[simp] theorem State.setSeq_written (s : State) (f : Feeder) (q : Sequencer) : (s.setSeq f q).written = s.written := rfl
@[simp] theorem State.setSeq_sample (s : State) (f : Feeder) (q : Sequencer) : (s.setSeq f q).sample = s.sample := rfl
@[simp] theorem State.setSeq_tracker (s : State) (f : Feeder) (q : Sequencer) : (s.setSeq f q).tracker = s.tracker := rfl
@[simp] theorem State.setSeq_magnitude (s : State) (f : Feeder) (q : Sequencer) : (s.setSeq f q).magnitude = s.magnitude := rfl
@[simp] theorem State.setSeq_comparator (s : State) (f : Feeder) (q : Sequencer) : (s.setSeq f q).comparator = s.comparator := rfl
@[simp] theorem State.setSeq_detector (s : State) (f : Feeder) (q : Sequencer) : (s.setSeq f q).detector = s.detector := rfl
@[simp] theorem State.setSeq_gen (s : State) (f : Feeder) (q : Sequencer) : (s.setSeq f q).gen = s.gen := rfl
@[simp] theorem State.setSeq_store (s : State) (f : Feeder) (q : Sequencer) : (s.setSeq f q).store = s.store := rfl
@[simp] theorem State.setSeq_arbiter (s : State) (f : Feeder) (q : Sequencer) : (s.setSeq f q).arbiter = s.arbiter := rfl
@[simp] theorem State.setSeq_seq (s : State) (f : Feeder) (q : Sequencer) : (s.setSeq f q).seq = s.seq.set f q := rfl
@[simp] theorem State.setSeq_port (s : State) (f : Feeder) (q : Sequencer) : (s.setSeq f q).port = s.port := rfl
@[simp] theorem State.setSeq_groups (s : State) (f : Feeder) (q : Sequencer) : (s.setSeq f q).groups = s.groups := rfl
@[simp] theorem State.setSeq_groupRequests (s : State) (f : Feeder) (q : Sequencer) : (s.setSeq f q).groupRequests = s.groupRequests := rfl
@[simp] theorem State.setSeq_refusals (s : State) (f : Feeder) (q : Sequencer) : (s.setSeq f q).refusals = s.refusals := rfl
@[simp] theorem State.setSeq_holds (s : State) (f : Feeder) (q : Sequencer) : (s.setSeq f q).holds = s.holds := rfl
@[simp] theorem State.setSeq_lines (s : State) (f : Feeder) (q : Sequencer) : (s.setSeq f q).lines = s.lines := rfl
@[simp] theorem State.setSeq_link (s : State) (f : Feeder) (q : Sequencer) : (s.setSeq f q).link = s.link := rfl
@[simp] theorem State.setSeq_image (s : State) (f : Feeder) (q : Sequencer) : (s.setSeq f q).image = s.image := rfl
@[simp] theorem State.setSeq_freeCount (s : State) (f : Feeder) (q : Sequencer) : (s.setSeq f q).freeCount = s.freeCount := rfl
@[simp] theorem State.setSeq_pending (s : State) (f : Feeder) (q : Sequencer) : (s.setSeq f q).pending = s.pending := rfl

/-! ## setPort -/

@[simp] theorem State.setPort_inReset (s : State) (f : Feeder) (p : Port) : (s.setPort f p).inReset = s.inReset := rfl
@[simp] theorem State.setPort_straps (s : State) (f : Feeder) (p : Port) : (s.setPort f p).straps = s.straps := rfl
@[simp] theorem State.setPort_loader (s : State) (f : Feeder) (p : Port) : (s.setPort f p).loader = s.loader := rfl
@[simp] theorem State.setPort_globals (s : State) (f : Feeder) (p : Port) : (s.setPort f p).globals = s.globals := rfl
@[simp] theorem State.setPort_feeders (s : State) (f : Feeder) (p : Port) : (s.setPort f p).feeders = s.feeders := rfl
@[simp] theorem State.setPort_classes (s : State) (f : Feeder) (p : Port) : (s.setPort f p).classes = s.classes := rfl
@[simp] theorem State.setPort_inForce (s : State) (f : Feeder) (p : Port) : (s.setPort f p).inForce = s.inForce := rfl
@[simp] theorem State.setPort_written (s : State) (f : Feeder) (p : Port) : (s.setPort f p).written = s.written := rfl
@[simp] theorem State.setPort_sample (s : State) (f : Feeder) (p : Port) : (s.setPort f p).sample = s.sample := rfl
@[simp] theorem State.setPort_tracker (s : State) (f : Feeder) (p : Port) : (s.setPort f p).tracker = s.tracker := rfl
@[simp] theorem State.setPort_magnitude (s : State) (f : Feeder) (p : Port) : (s.setPort f p).magnitude = s.magnitude := rfl
@[simp] theorem State.setPort_comparator (s : State) (f : Feeder) (p : Port) : (s.setPort f p).comparator = s.comparator := rfl
@[simp] theorem State.setPort_detector (s : State) (f : Feeder) (p : Port) : (s.setPort f p).detector = s.detector := rfl
@[simp] theorem State.setPort_gen (s : State) (f : Feeder) (p : Port) : (s.setPort f p).gen = s.gen := rfl
@[simp] theorem State.setPort_store (s : State) (f : Feeder) (p : Port) : (s.setPort f p).store = s.store := rfl
@[simp] theorem State.setPort_arbiter (s : State) (f : Feeder) (p : Port) : (s.setPort f p).arbiter = s.arbiter := rfl
@[simp] theorem State.setPort_seq (s : State) (f : Feeder) (p : Port) : (s.setPort f p).seq = s.seq := rfl
@[simp] theorem State.setPort_port (s : State) (f : Feeder) (p : Port) : (s.setPort f p).port = s.port.set f p := rfl
@[simp] theorem State.setPort_groups (s : State) (f : Feeder) (p : Port) : (s.setPort f p).groups = s.groups := rfl
@[simp] theorem State.setPort_groupRequests (s : State) (f : Feeder) (p : Port) : (s.setPort f p).groupRequests = s.groupRequests := rfl
@[simp] theorem State.setPort_refusals (s : State) (f : Feeder) (p : Port) : (s.setPort f p).refusals = s.refusals := rfl
@[simp] theorem State.setPort_holds (s : State) (f : Feeder) (p : Port) : (s.setPort f p).holds = s.holds := rfl
@[simp] theorem State.setPort_lines (s : State) (f : Feeder) (p : Port) : (s.setPort f p).lines = s.lines := rfl
@[simp] theorem State.setPort_link (s : State) (f : Feeder) (p : Port) : (s.setPort f p).link = s.link := rfl
@[simp] theorem State.setPort_image (s : State) (f : Feeder) (p : Port) : (s.setPort f p).image = s.image := rfl
@[simp] theorem State.setPort_freeCount (s : State) (f : Feeder) (p : Port) : (s.setPort f p).freeCount = s.freeCount := rfl
@[simp] theorem State.setPort_pending (s : State) (f : Feeder) (p : Port) : (s.setPort f p).pending = s.pending := rfl

/-! ## setGen -/

@[simp] theorem State.setGen_inReset (s : State) (f : Feeder) (g : Generator) : (s.setGen f g).inReset = s.inReset := rfl
@[simp] theorem State.setGen_straps (s : State) (f : Feeder) (g : Generator) : (s.setGen f g).straps = s.straps := rfl
@[simp] theorem State.setGen_loader (s : State) (f : Feeder) (g : Generator) : (s.setGen f g).loader = s.loader := rfl
@[simp] theorem State.setGen_globals (s : State) (f : Feeder) (g : Generator) : (s.setGen f g).globals = s.globals := rfl
@[simp] theorem State.setGen_feeders (s : State) (f : Feeder) (g : Generator) : (s.setGen f g).feeders = s.feeders := rfl
@[simp] theorem State.setGen_classes (s : State) (f : Feeder) (g : Generator) : (s.setGen f g).classes = s.classes := rfl
@[simp] theorem State.setGen_inForce (s : State) (f : Feeder) (g : Generator) : (s.setGen f g).inForce = s.inForce := rfl
@[simp] theorem State.setGen_written (s : State) (f : Feeder) (g : Generator) : (s.setGen f g).written = s.written := rfl
@[simp] theorem State.setGen_sample (s : State) (f : Feeder) (g : Generator) : (s.setGen f g).sample = s.sample := rfl
@[simp] theorem State.setGen_tracker (s : State) (f : Feeder) (g : Generator) : (s.setGen f g).tracker = s.tracker := rfl
@[simp] theorem State.setGen_magnitude (s : State) (f : Feeder) (g : Generator) : (s.setGen f g).magnitude = s.magnitude := rfl
@[simp] theorem State.setGen_comparator (s : State) (f : Feeder) (g : Generator) : (s.setGen f g).comparator = s.comparator := rfl
@[simp] theorem State.setGen_detector (s : State) (f : Feeder) (g : Generator) : (s.setGen f g).detector = s.detector := rfl
@[simp] theorem State.setGen_gen (s : State) (f : Feeder) (g : Generator) : (s.setGen f g).gen = s.gen.set f g := rfl
@[simp] theorem State.setGen_store (s : State) (f : Feeder) (g : Generator) : (s.setGen f g).store = s.store := rfl
@[simp] theorem State.setGen_arbiter (s : State) (f : Feeder) (g : Generator) : (s.setGen f g).arbiter = s.arbiter := rfl
@[simp] theorem State.setGen_seq (s : State) (f : Feeder) (g : Generator) : (s.setGen f g).seq = s.seq := rfl
@[simp] theorem State.setGen_port (s : State) (f : Feeder) (g : Generator) : (s.setGen f g).port = s.port := rfl
@[simp] theorem State.setGen_groups (s : State) (f : Feeder) (g : Generator) : (s.setGen f g).groups = s.groups := rfl
@[simp] theorem State.setGen_groupRequests (s : State) (f : Feeder) (g : Generator) : (s.setGen f g).groupRequests = s.groupRequests := rfl
@[simp] theorem State.setGen_refusals (s : State) (f : Feeder) (g : Generator) : (s.setGen f g).refusals = s.refusals := rfl
@[simp] theorem State.setGen_holds (s : State) (f : Feeder) (g : Generator) : (s.setGen f g).holds = s.holds := rfl
@[simp] theorem State.setGen_lines (s : State) (f : Feeder) (g : Generator) : (s.setGen f g).lines = s.lines := rfl
@[simp] theorem State.setGen_link (s : State) (f : Feeder) (g : Generator) : (s.setGen f g).link = s.link := rfl
@[simp] theorem State.setGen_image (s : State) (f : Feeder) (g : Generator) : (s.setGen f g).image = s.image := rfl
@[simp] theorem State.setGen_freeCount (s : State) (f : Feeder) (g : Generator) : (s.setGen f g).freeCount = s.freeCount := rfl
@[simp] theorem State.setGen_pending (s : State) (f : Feeder) (g : Generator) : (s.setGen f g).pending = s.pending := rfl

/-! ## setGroup -/

@[simp] theorem State.setGroup_inReset (s : State) (g : GroupNo) (r : Group) : (s.setGroup g r).inReset = s.inReset := rfl
@[simp] theorem State.setGroup_straps (s : State) (g : GroupNo) (r : Group) : (s.setGroup g r).straps = s.straps := rfl
@[simp] theorem State.setGroup_loader (s : State) (g : GroupNo) (r : Group) : (s.setGroup g r).loader = s.loader := rfl
@[simp] theorem State.setGroup_globals (s : State) (g : GroupNo) (r : Group) : (s.setGroup g r).globals = s.globals := rfl
@[simp] theorem State.setGroup_feeders (s : State) (g : GroupNo) (r : Group) : (s.setGroup g r).feeders = s.feeders := rfl
@[simp] theorem State.setGroup_classes (s : State) (g : GroupNo) (r : Group) : (s.setGroup g r).classes = s.classes := rfl
@[simp] theorem State.setGroup_inForce (s : State) (g : GroupNo) (r : Group) : (s.setGroup g r).inForce = s.inForce := rfl
@[simp] theorem State.setGroup_written (s : State) (g : GroupNo) (r : Group) : (s.setGroup g r).written = s.written := rfl
@[simp] theorem State.setGroup_sample (s : State) (g : GroupNo) (r : Group) : (s.setGroup g r).sample = s.sample := rfl
@[simp] theorem State.setGroup_tracker (s : State) (g : GroupNo) (r : Group) : (s.setGroup g r).tracker = s.tracker := rfl
@[simp] theorem State.setGroup_magnitude (s : State) (g : GroupNo) (r : Group) : (s.setGroup g r).magnitude = s.magnitude := rfl
@[simp] theorem State.setGroup_comparator (s : State) (g : GroupNo) (r : Group) : (s.setGroup g r).comparator = s.comparator := rfl
@[simp] theorem State.setGroup_detector (s : State) (g : GroupNo) (r : Group) : (s.setGroup g r).detector = s.detector := rfl
@[simp] theorem State.setGroup_gen (s : State) (g : GroupNo) (r : Group) : (s.setGroup g r).gen = s.gen := rfl
@[simp] theorem State.setGroup_store (s : State) (g : GroupNo) (r : Group) : (s.setGroup g r).store = s.store := rfl
@[simp] theorem State.setGroup_arbiter (s : State) (g : GroupNo) (r : Group) : (s.setGroup g r).arbiter = s.arbiter := rfl
@[simp] theorem State.setGroup_seq (s : State) (g : GroupNo) (r : Group) : (s.setGroup g r).seq = s.seq := rfl
@[simp] theorem State.setGroup_port (s : State) (g : GroupNo) (r : Group) : (s.setGroup g r).port = s.port := rfl
@[simp] theorem State.setGroup_groups (s : State) (g : GroupNo) (r : Group) : (s.setGroup g r).groups = s.groups.set g r := rfl
@[simp] theorem State.setGroup_groupRequests (s : State) (g : GroupNo) (r : Group) : (s.setGroup g r).groupRequests = s.groupRequests := rfl
@[simp] theorem State.setGroup_refusals (s : State) (g : GroupNo) (r : Group) : (s.setGroup g r).refusals = s.refusals := rfl
@[simp] theorem State.setGroup_holds (s : State) (g : GroupNo) (r : Group) : (s.setGroup g r).holds = s.holds := rfl
@[simp] theorem State.setGroup_lines (s : State) (g : GroupNo) (r : Group) : (s.setGroup g r).lines = s.lines := rfl
@[simp] theorem State.setGroup_link (s : State) (g : GroupNo) (r : Group) : (s.setGroup g r).link = s.link := rfl
@[simp] theorem State.setGroup_image (s : State) (g : GroupNo) (r : Group) : (s.setGroup g r).image = s.image := rfl
@[simp] theorem State.setGroup_freeCount (s : State) (g : GroupNo) (r : Group) : (s.setGroup g r).freeCount = s.freeCount := rfl
@[simp] theorem State.setGroup_pending (s : State) (g : GroupNo) (r : Group) : (s.setGroup g r).pending = s.pending := rfl

/-! ## setLine -/

@[simp] theorem State.setLine_inReset (s : State) (l : Line) (x : LineState) : (s.setLine l x).inReset = s.inReset := rfl
@[simp] theorem State.setLine_straps (s : State) (l : Line) (x : LineState) : (s.setLine l x).straps = s.straps := rfl
@[simp] theorem State.setLine_loader (s : State) (l : Line) (x : LineState) : (s.setLine l x).loader = s.loader := rfl
@[simp] theorem State.setLine_globals (s : State) (l : Line) (x : LineState) : (s.setLine l x).globals = s.globals := rfl
@[simp] theorem State.setLine_feeders (s : State) (l : Line) (x : LineState) : (s.setLine l x).feeders = s.feeders := rfl
@[simp] theorem State.setLine_classes (s : State) (l : Line) (x : LineState) : (s.setLine l x).classes = s.classes := rfl
@[simp] theorem State.setLine_inForce (s : State) (l : Line) (x : LineState) : (s.setLine l x).inForce = s.inForce := rfl
@[simp] theorem State.setLine_written (s : State) (l : Line) (x : LineState) : (s.setLine l x).written = s.written := rfl
@[simp] theorem State.setLine_sample (s : State) (l : Line) (x : LineState) : (s.setLine l x).sample = s.sample := rfl
@[simp] theorem State.setLine_tracker (s : State) (l : Line) (x : LineState) : (s.setLine l x).tracker = s.tracker := rfl
@[simp] theorem State.setLine_magnitude (s : State) (l : Line) (x : LineState) : (s.setLine l x).magnitude = s.magnitude := rfl
@[simp] theorem State.setLine_comparator (s : State) (l : Line) (x : LineState) : (s.setLine l x).comparator = s.comparator := rfl
@[simp] theorem State.setLine_detector (s : State) (l : Line) (x : LineState) : (s.setLine l x).detector = s.detector := rfl
@[simp] theorem State.setLine_gen (s : State) (l : Line) (x : LineState) : (s.setLine l x).gen = s.gen := rfl
@[simp] theorem State.setLine_store (s : State) (l : Line) (x : LineState) : (s.setLine l x).store = s.store := rfl
@[simp] theorem State.setLine_arbiter (s : State) (l : Line) (x : LineState) : (s.setLine l x).arbiter = s.arbiter := rfl
@[simp] theorem State.setLine_seq (s : State) (l : Line) (x : LineState) : (s.setLine l x).seq = s.seq := rfl
@[simp] theorem State.setLine_port (s : State) (l : Line) (x : LineState) : (s.setLine l x).port = s.port := rfl
@[simp] theorem State.setLine_groups (s : State) (l : Line) (x : LineState) : (s.setLine l x).groups = s.groups := rfl
@[simp] theorem State.setLine_groupRequests (s : State) (l : Line) (x : LineState) : (s.setLine l x).groupRequests = s.groupRequests := rfl
@[simp] theorem State.setLine_refusals (s : State) (l : Line) (x : LineState) : (s.setLine l x).refusals = s.refusals := rfl
@[simp] theorem State.setLine_holds (s : State) (l : Line) (x : LineState) : (s.setLine l x).holds = s.holds := rfl
@[simp] theorem State.setLine_lines (s : State) (l : Line) (x : LineState) : (s.setLine l x).lines = s.lines.set l x := rfl
@[simp] theorem State.setLine_link (s : State) (l : Line) (x : LineState) : (s.setLine l x).link = s.link := rfl
@[simp] theorem State.setLine_image (s : State) (l : Line) (x : LineState) : (s.setLine l x).image = s.image := rfl
@[simp] theorem State.setLine_freeCount (s : State) (l : Line) (x : LineState) : (s.setLine l x).freeCount = s.freeCount := rfl
@[simp] theorem State.setLine_pending (s : State) (l : Line) (x : LineState) : (s.setLine l x).pending = s.pending := rfl

/-! ## openChoice -/

@[simp] theorem State.openChoice_inReset (s : State) : (s.openChoice).inReset = s.inReset := rfl
@[simp] theorem State.openChoice_straps (s : State) : (s.openChoice).straps = s.straps := rfl
@[simp] theorem State.openChoice_loader (s : State) : (s.openChoice).loader = s.loader := rfl
@[simp] theorem State.openChoice_globals (s : State) : (s.openChoice).globals = s.globals := rfl
@[simp] theorem State.openChoice_feeders (s : State) : (s.openChoice).feeders = s.feeders := rfl
@[simp] theorem State.openChoice_classes (s : State) : (s.openChoice).classes = s.classes := rfl
@[simp] theorem State.openChoice_inForce (s : State) : (s.openChoice).inForce = s.inForce := rfl
@[simp] theorem State.openChoice_written (s : State) : (s.openChoice).written = s.written := rfl
@[simp] theorem State.openChoice_sample (s : State) : (s.openChoice).sample = s.sample := rfl
@[simp] theorem State.openChoice_tracker (s : State) : (s.openChoice).tracker = s.tracker := rfl
@[simp] theorem State.openChoice_magnitude (s : State) : (s.openChoice).magnitude = s.magnitude := rfl
@[simp] theorem State.openChoice_comparator (s : State) : (s.openChoice).comparator = s.comparator := rfl
@[simp] theorem State.openChoice_detector (s : State) : (s.openChoice).detector = s.detector := rfl
@[simp] theorem State.openChoice_gen (s : State) : (s.openChoice).gen = s.gen := rfl
@[simp] theorem State.openChoice_store (s : State) : (s.openChoice).store = s.store := rfl
@[simp] theorem State.openChoice_arbiter (s : State) : (s.openChoice).arbiter = s.arbiter := rfl
@[simp] theorem State.openChoice_seq (s : State) : (s.openChoice).seq = s.seq := rfl
@[simp] theorem State.openChoice_port (s : State) : (s.openChoice).port = s.port := rfl
@[simp] theorem State.openChoice_groups (s : State) : (s.openChoice).groups = s.groups := rfl
@[simp] theorem State.openChoice_groupRequests (s : State) : (s.openChoice).groupRequests = s.groupRequests := rfl
@[simp] theorem State.openChoice_refusals (s : State) : (s.openChoice).refusals = s.refusals := rfl
@[simp] theorem State.openChoice_holds (s : State) : (s.openChoice).holds = s.holds := rfl
@[simp] theorem State.openChoice_lines (s : State) : (s.openChoice).lines = s.lines := rfl
@[simp] theorem State.openChoice_link (s : State) : (s.openChoice).link = { s.link with choiceOpen := true } := rfl
@[simp] theorem State.openChoice_image (s : State) : (s.openChoice).image = s.image := rfl
@[simp] theorem State.openChoice_freeCount (s : State) : (s.openChoice).freeCount = s.freeCount := rfl
@[simp] theorem State.openChoice_pending (s : State) : (s.openChoice).pending = s.pending := rfl

/-! ## settleChoice -/

@[simp] theorem State.settleChoice_inReset (s : State) (left : Bool) : (s.settleChoice left).inReset = s.inReset := by cases left <;> rfl
@[simp] theorem State.settleChoice_straps (s : State) (left : Bool) : (s.settleChoice left).straps = s.straps := by cases left <;> rfl
@[simp] theorem State.settleChoice_loader (s : State) (left : Bool) : (s.settleChoice left).loader = s.loader := by cases left <;> rfl
@[simp] theorem State.settleChoice_globals (s : State) (left : Bool) : (s.settleChoice left).globals = s.globals := by cases left <;> rfl
@[simp] theorem State.settleChoice_feeders (s : State) (left : Bool) : (s.settleChoice left).feeders = s.feeders := by cases left <;> rfl
@[simp] theorem State.settleChoice_classes (s : State) (left : Bool) : (s.settleChoice left).classes = s.classes := by cases left <;> rfl
@[simp] theorem State.settleChoice_inForce (s : State) (left : Bool) : (s.settleChoice left).inForce = s.inForce := by cases left <;> rfl
@[simp] theorem State.settleChoice_written (s : State) (left : Bool) : (s.settleChoice left).written = s.written := by cases left <;> rfl
@[simp] theorem State.settleChoice_sample (s : State) (left : Bool) : (s.settleChoice left).sample = s.sample := by cases left <;> rfl
@[simp] theorem State.settleChoice_tracker (s : State) (left : Bool) : (s.settleChoice left).tracker = s.tracker := by cases left <;> rfl
@[simp] theorem State.settleChoice_magnitude (s : State) (left : Bool) : (s.settleChoice left).magnitude = s.magnitude := by cases left <;> rfl
@[simp] theorem State.settleChoice_comparator (s : State) (left : Bool) : (s.settleChoice left).comparator = s.comparator := by cases left <;> rfl
@[simp] theorem State.settleChoice_detector (s : State) (left : Bool) : (s.settleChoice left).detector = s.detector := by cases left <;> rfl
@[simp] theorem State.settleChoice_gen (s : State) (left : Bool) : (s.settleChoice left).gen = s.gen := by cases left <;> rfl
@[simp] theorem State.settleChoice_store (s : State) (left : Bool) : (s.settleChoice left).store = s.store := by cases left <;> rfl
@[simp] theorem State.settleChoice_arbiter (s : State) (left : Bool) : (s.settleChoice left).arbiter = s.arbiter := by cases left <;> rfl
@[simp] theorem State.settleChoice_seq (s : State) (left : Bool) : (s.settleChoice left).seq = s.seq := by cases left <;> rfl
@[simp] theorem State.settleChoice_port (s : State) (left : Bool) : (s.settleChoice left).port = s.port := by cases left <;> rfl
@[simp] theorem State.settleChoice_groups (s : State) (left : Bool) : (s.settleChoice left).groups = s.groups := by cases left <;> rfl
@[simp] theorem State.settleChoice_groupRequests (s : State) (left : Bool) : (s.settleChoice left).groupRequests = s.groupRequests := by cases left <;> rfl
@[simp] theorem State.settleChoice_refusals (s : State) (left : Bool) : (s.settleChoice left).refusals = s.refusals := by cases left <;> rfl
@[simp] theorem State.settleChoice_holds (s : State) (left : Bool) : (s.settleChoice left).holds = s.holds := by cases left <;> rfl
@[simp] theorem State.settleChoice_lines (s : State) (left : Bool) : (s.settleChoice left).lines = s.lines := by cases left <;> rfl
@[simp] theorem State.settleChoice_link (s : State) (left : Bool) : (s.settleChoice left).link = if left then { s.link with choiceOpen := true } else s.link.closeChoice := by cases left <;> rfl
@[simp] theorem State.settleChoice_image (s : State) (left : Bool) : (s.settleChoice left).image = s.image := by cases left <;> rfl
@[simp] theorem State.settleChoice_freeCount (s : State) (left : Bool) : (s.settleChoice left).freeCount = s.freeCount := by cases left <;> rfl
@[simp] theorem State.settleChoice_pending (s : State) (left : Bool) : (s.settleChoice left).pending = s.pending := by cases left <;> rfl

/-! ## markWrite -/

@[simp] theorem State.markWrite_inReset (s : State) : (s.markWrite).inReset = s.inReset := rfl
@[simp] theorem State.markWrite_straps (s : State) : (s.markWrite).straps = s.straps := rfl
@[simp] theorem State.markWrite_loader (s : State) : (s.markWrite).loader = s.loader := rfl
@[simp] theorem State.markWrite_globals (s : State) : (s.markWrite).globals = s.globals := rfl
@[simp] theorem State.markWrite_feeders (s : State) : (s.markWrite).feeders = s.feeders := rfl
@[simp] theorem State.markWrite_classes (s : State) : (s.markWrite).classes = s.classes := rfl
@[simp] theorem State.markWrite_inForce (s : State) : (s.markWrite).inForce = s.inForce := rfl
@[simp] theorem State.markWrite_written (s : State) : (s.markWrite).written = some s.stored := rfl
@[simp] theorem State.markWrite_sample (s : State) : (s.markWrite).sample = s.sample := rfl
@[simp] theorem State.markWrite_tracker (s : State) : (s.markWrite).tracker = s.tracker := rfl
@[simp] theorem State.markWrite_magnitude (s : State) : (s.markWrite).magnitude = s.magnitude := rfl
@[simp] theorem State.markWrite_comparator (s : State) : (s.markWrite).comparator = s.comparator := rfl
@[simp] theorem State.markWrite_detector (s : State) : (s.markWrite).detector = s.detector := rfl
@[simp] theorem State.markWrite_gen (s : State) : (s.markWrite).gen = s.gen := rfl
@[simp] theorem State.markWrite_store (s : State) : (s.markWrite).store = s.store := rfl
@[simp] theorem State.markWrite_arbiter (s : State) : (s.markWrite).arbiter = s.arbiter := rfl
@[simp] theorem State.markWrite_seq (s : State) : (s.markWrite).seq = s.seq := rfl
@[simp] theorem State.markWrite_port (s : State) : (s.markWrite).port = s.port := rfl
@[simp] theorem State.markWrite_groups (s : State) : (s.markWrite).groups = s.groups := rfl
@[simp] theorem State.markWrite_groupRequests (s : State) : (s.markWrite).groupRequests = s.groupRequests := rfl
@[simp] theorem State.markWrite_refusals (s : State) : (s.markWrite).refusals = s.refusals := rfl
@[simp] theorem State.markWrite_holds (s : State) : (s.markWrite).holds = s.holds := rfl
@[simp] theorem State.markWrite_lines (s : State) : (s.markWrite).lines = s.lines := rfl
@[simp] theorem State.markWrite_link (s : State) : (s.markWrite).link = s.link := rfl
@[simp] theorem State.markWrite_image (s : State) : (s.markWrite).image = s.image := rfl
@[simp] theorem State.markWrite_freeCount (s : State) : (s.markWrite).freeCount = s.freeCount := rfl
@[simp] theorem State.markWrite_pending (s : State) : (s.markWrite).pending = s.pending := rfl

/-! ## adopt -/

@[simp] theorem State.adopt_inReset (s : State) (w : Bool) : (s.adopt w).inReset = s.inReset := rfl
@[simp] theorem State.adopt_straps (s : State) (w : Bool) : (s.adopt w).straps = s.straps := rfl
@[simp] theorem State.adopt_loader (s : State) (w : Bool) : (s.adopt w).loader = s.loader := rfl
@[simp] theorem State.adopt_globals (s : State) (w : Bool) : (s.adopt w).globals = s.globals := rfl
@[simp] theorem State.adopt_feeders (s : State) (w : Bool) : (s.adopt w).feeders = s.feeders := rfl
@[simp] theorem State.adopt_classes (s : State) (w : Bool) : (s.adopt w).classes = s.classes := rfl
@[simp] theorem State.adopt_inForce (s : State) (w : Bool) : (s.adopt w).inForce = s.valuesAt w := rfl
@[simp] theorem State.adopt_written (s : State) (w : Bool) : (s.adopt w).written = none := rfl
@[simp] theorem State.adopt_sample (s : State) (w : Bool) : (s.adopt w).sample = s.sample := rfl
@[simp] theorem State.adopt_tracker (s : State) (w : Bool) : (s.adopt w).tracker = s.tracker := rfl
@[simp] theorem State.adopt_magnitude (s : State) (w : Bool) : (s.adopt w).magnitude = s.magnitude := rfl
@[simp] theorem State.adopt_comparator (s : State) (w : Bool) : (s.adopt w).comparator = s.comparator := rfl
@[simp] theorem State.adopt_detector (s : State) (w : Bool) : (s.adopt w).detector = s.detector := rfl
@[simp] theorem State.adopt_gen (s : State) (w : Bool) : (s.adopt w).gen = s.gen := rfl
@[simp] theorem State.adopt_store (s : State) (w : Bool) : (s.adopt w).store = s.store := rfl
@[simp] theorem State.adopt_arbiter (s : State) (w : Bool) : (s.adopt w).arbiter = s.arbiter := rfl
@[simp] theorem State.adopt_seq (s : State) (w : Bool) : (s.adopt w).seq = s.seq := rfl
@[simp] theorem State.adopt_port (s : State) (w : Bool) : (s.adopt w).port = s.port := rfl
@[simp] theorem State.adopt_groups (s : State) (w : Bool) : (s.adopt w).groups = s.groups := rfl
@[simp] theorem State.adopt_groupRequests (s : State) (w : Bool) : (s.adopt w).groupRequests = s.groupRequests := rfl
@[simp] theorem State.adopt_refusals (s : State) (w : Bool) : (s.adopt w).refusals = s.refusals := rfl
@[simp] theorem State.adopt_holds (s : State) (w : Bool) : (s.adopt w).holds = s.holds := rfl
@[simp] theorem State.adopt_lines (s : State) (w : Bool) : (s.adopt w).lines = s.lines := rfl
@[simp] theorem State.adopt_link (s : State) (w : Bool) : (s.adopt w).link = s.link := rfl
@[simp] theorem State.adopt_image (s : State) (w : Bool) : (s.adopt w).image = s.image := rfl
@[simp] theorem State.adopt_freeCount (s : State) (w : Bool) : (s.adopt w).freeCount = s.freeCount := rfl
@[simp] theorem State.adopt_pending (s : State) (w : Bool) : (s.adopt w).pending = s.pending := rfl

end Sys2Proof.Machine
end

