-- ==== Sys2Proof/Laws/Link.lean ====
section
/-! SUPPORT. What the link's shared operations can do: the transmitter's choice, an offered report, a posted report, a
queued reply, and the admission of a request. -/

namespace Sys2Proof.Machine

open Sys2Proof

/-! ## The transmitter's choice (R177) -/

/-- Everything the choice can do: nothing while sending or with both queues empty, else the oldest reply, else the oldest
report with the marker settled into its flag. -/
theorem Link.choose_cases (l : Link) :
    (l.choose = l ∧ (l.tx ≠ none ∨ (l.replies = [] ∧ l.reports = []))) ∨
    (∃ r rest, l.tx = none ∧ l.replies = r :: rest ∧ l.choose = { l with replies := rest, tx := some (.reply r) }) ∨
    (∃ r rest, l.tx = none ∧ l.replies = [] ∧ l.reports = r :: rest ∧
      l.choose = { l with reports := rest, tx := some (.report r l.overflow), overflow := false }) := by
  obtain ⟨a, sv, rp, rt, o, m, tx, g⟩ := l
  cases tx with
  | some x => exact .inl ⟨rfl, .inl (by simp)⟩
  | none =>
    cases rp with
    | cons r rest => exact .inr (.inl ⟨r, rest, rfl, rfl, rfl⟩)
    | nil =>
      cases rt with
      | cons r rest => exact .inr (.inr ⟨r, rest, rfl, rfl, rfl, rfl⟩)
      | nil => exact .inl ⟨rfl, .inr ⟨rfl, rfl⟩⟩

@[simp] theorem Link.choose_asm (l : Link) : l.choose.asm = l.asm := by
  rcases l.choose_cases with ⟨h, -⟩ | ⟨r, rest, -, -, h⟩ | ⟨r, rest, -, -, -, h⟩ <;> rw [h]

@[simp] theorem Link.choose_service (l : Link) : l.choose.service = l.service := by
  rcases l.choose_cases with ⟨h, -⟩ | ⟨r, rest, -, -, h⟩ | ⟨r, rest, -, -, -, h⟩ <;> rw [h]

@[simp] theorem Link.choose_mask (l : Link) : l.choose.mask = l.mask := by
  rcases l.choose_cases with ⟨h, -⟩ | ⟨r, rest, -, -, h⟩ | ⟨r, rest, -, -, -, h⟩ <;> rw [h]

@[simp] theorem Link.choose_choiceOpen (l : Link) : l.choose.choiceOpen = l.choiceOpen := by
  rcases l.choose_cases with ⟨h, -⟩ | ⟨r, rest, -, -, h⟩ | ⟨r, rest, -, -, -, h⟩ <;> rw [h]

/-- The choice moves a reply into the transmitter or leaves it: none is lost or overtaken. -/
@[simp] theorem Link.choose_waitingReplies (l : Link) : l.choose.waitingReplies = l.waitingReplies := by
  rcases l.choose_cases with ⟨h, -⟩ | ⟨r, rest, t, p, h⟩ | ⟨r, rest, t, p, -, h⟩
  · rw [h]
  · rw [h]; simp [Link.waitingReplies, t, p]
  · rw [h]; simp [Link.waitingReplies, t, p]

theorem Link.choose_replies_length (l : Link) : l.choose.replies.length ≤ l.replies.length := by
  rcases l.choose_cases with ⟨h, -⟩ | ⟨r, rest, t, p, h⟩ | ⟨r, rest, t, p, -, h⟩ <;> rw [h]
  simp [p]

theorem Link.choose_reports_length (l : Link) : l.choose.reports.length ≤ l.reports.length := by
  rcases l.choose_cases with ⟨h, -⟩ | ⟨r, rest, t, p, h⟩ | ⟨r, rest, t, -, p, h⟩ <;> rw [h]
  simp [p]

/-! ## Offered and posted reports (R173, R175) -/

theorem Link.offer_reports_length (l : Link) (r : Report) (h : l.reports.length ≤ 32) :
    (l.offer r).reports.length ≤ 32 := by
  unfold Link.offer
  split
  · next c => simp [Config.reportCapacity] at c ⊢; omega
  · exact h

/-- What posting reports can do to the link: the queue of reports and the transmitter move, and nothing else. -/
structure Link.Posted (l m : Link) : Prop where
  asm : m.asm = l.asm
  service : m.service = l.service
  mask : m.mask = l.mask
  waiting : m.waitingReplies = l.waitingReplies
  replies : m.replies.length ≤ l.replies.length
  reports : l.reports.length ≤ 32 → m.reports.length ≤ 32

theorem Link.Posted.refl (l : Link) : Link.Posted l l := ⟨rfl, rfl, rfl, rfl, le_refl _, id⟩

theorem Link.Posted.trans {l m n : Link} (a : Link.Posted l m) (b : Link.Posted m n) : Link.Posted l n :=
  ⟨b.asm.trans a.asm, b.service.trans a.service, b.mask.trans a.mask,
    b.waiting.trans a.waiting, b.replies.trans a.replies, fun h => b.reports (a.reports h)⟩

theorem Link.choose_posted (l : Link) : Link.Posted l l.choose :=
  ⟨by simp, by simp, by simp, by simp, l.choose_replies_length, fun h => l.choose_reports_length.trans h⟩

theorem Link.offer_posted (l : Link) (r : Report) : Link.Posted l (l.offer r) := by
  refine ⟨?_, ?_, ?_, ?_, ?_, l.offer_reports_length r⟩ <;> unfold Link.offer <;> split <;> rfl

theorem Link.post_posted (l : Link) (r : Report) : Link.Posted l (l.post r) := by
  unfold Link.post
  split
  · split
    · exact l.offer_posted r
    · exact (l.offer_posted r).trans (l.offer r).choose_posted
  · exact Link.Posted.refl l

/-- A choice settled moves what the choice moves. -/
theorem Link.closeChoice_posted (l : Link) : Link.Posted l l.closeChoice := by
  unfold Link.closeChoice
  split
  · have h := Link.choose_posted { l with choiceOpen := false }
    exact ⟨h.asm, h.service, h.mask, h.waiting, h.replies, h.reports⟩
  · exact Link.Posted.refl _

/-- A choice left open changes its mark; a choice settled moves what the choice moves. -/
theorem State.settleChoice_posted (s : State) (left : Bool) : Link.Posted s.link (s.settleChoice left).link := by
  rw [State.settleChoice_link]
  split
  · exact ⟨rfl, rfl, rfl, rfl, le_refl _, id⟩
  · exact s.link.closeChoice_posted

/-- The reports that wait are out of the way, and nothing else has moved. -/
theorem Link.withoutWaiting_posted (l : Link) : Link.Posted l l.withoutWaiting := by
  unfold Link.withoutWaiting
  split
  · exact ⟨rfl, rfl, rfl, rfl, le_refl _, fun _ => by simp⟩
  · exact ⟨rfl, rfl, rfl, rfl, le_refl _, id⟩

/-- The reports that waited are back behind the others, as far as the queue has room. -/
theorem Link.resume_posted (l before : Link) : Link.Posted l (l.resume before) := by
  have fold (rs : List Report) : ∀ l, Link.Posted l (rs.foldl Link.offer l) := by
    induction rs with
    | nil => exact Link.Posted.refl
    | cons r rest ih => exact fun l => (l.offer_posted r).trans (ih _)
  have h := fold (if before.waits then before.reports else []) l
  exact ⟨h.asm, h.service, h.mask, h.waiting, h.replies, h.reports⟩

/-! ## Replies (R166, R177) -/

/-- A queued reply stands behind those that wait, and nothing else of the link but the transmitter's report moves. -/
theorem State.queueReply_answered (s : State) (r : Reply) : Link.answered s.link (s.queueReply r).link r := by
  refine ⟨?_, by simp, by simp, by simp⟩
  rw [State.queueReply_link, Link.choose_waitingReplies]
  unfold Link.waitingReplies
  cases s.link.tx with
  | none => rfl
  | some x => cases x <;> rfl

theorem State.queueReply_replies_length (s : State) (r : Reply) :
    (s.queueReply r).link.replies.length ≤ s.link.replies.length + 1 := by
  refine (Link.choose_replies_length _).trans ?_
  simp

theorem State.queueReply_reports_length (s : State) (r : Reply) :
    (s.queueReply r).link.reports.length ≤ s.link.reports.length :=
  Link.choose_reports_length _

/-! ## Request service (R166, R167) -/

theorem State.takesRequests.admission {s : State} (h : s.takesRequests) : s.admission = .serve := by
  obtain ⟨-, op, sv, len⟩ := h
  have c : ¬ (4 ≤ s.link.replies.length) := by omega
  simp [State.admission, State.noRoom, State.replyOwed, sv, op, Config.replyCapacity, c]

/-- A request that is served is answered by its own rule. -/
theorem State.serve_of_takes {s : State} (h : s.takesRequests) (kind tag : Byte) (rule : State → State × Option Answer) :
    s.serve kind tag rule =
      match rule s.openChoice with
      | (t, some a) => t.queueReply ⟨kind, tag, a.status, a.body⟩
      | (t, none) => { t with link := { t.link with choiceOpen := s.link.choiceOpen } } := by
  simp only [State.serve, h.1, h.admission]
  rfl

/-- R166, R167: everything that can become of a complete frame: nothing while held in reset or without room, BUSY, or its
own rule. -/
theorem State.serve_cases (s : State) (kind tag : Byte) (rule : State → State × Option Answer) :
    s.serve kind tag rule = s ∨
    (s.inReset = false ∧ s.noRoom = false ∧ s.serve kind tag rule = s.queueReply ⟨kind, tag, .busy, []⟩) ∨
    (s.takesRequests ∧ ∃ t a, rule s.openChoice = (t, some a) ∧
      s.serve kind tag rule = t.queueReply ⟨kind, tag, a.status, a.body⟩) ∨
    (s.takesRequests ∧ ∃ t, rule s.openChoice = (t, none) ∧
      s.serve kind tag rule = { t with link := { t.link with choiceOpen := s.link.choiceOpen } }) := by
  by_cases hr : s.inReset = true
  · exact .inl (by simp [State.serve, hr])
  have hr' : s.inReset = false := by simpa using hr
  by_cases hn : s.noRoom = true
  · exact .inl (by simp [State.serve, hr', State.admission, hn])
  have hn' : s.noRoom = false := by simpa using hn
  by_cases hb : s.loader.op = .loading ∨ s.link.service.isSome
  · exact .inr (.inl ⟨hr', hn', by simp only [State.serve, hr', State.admission, hn', hb]; rfl⟩)
  · have ht : s.takesRequests := by
      refine ⟨hr', fun e => hb (.inl e), ?_, ?_⟩
      · cases e : s.link.service with
        | none => rfl
        | some _ => exact absurd (.inr (by simp [e])) hb
      · simp [State.noRoom, Config.replyCapacity] at hn'
        exact of_decide_eq_false hn'.1 |> not_le.mp
    rw [State.serve_of_takes ht]
    rcases e : rule s.openChoice with ⟨t, _ | a⟩
    · exact .inr (.inr (.inr ⟨ht, t, rfl, rfl⟩))
    · exact .inr (.inr (.inl ⟨ht, t, a, rfl, rfl⟩))

end Sys2Proof.Machine
end

