-- ==== Sys2Proof/Laws/Sequencer.lean ====
section
/-! SUPPORT. What the feeder sequencers, the group table and the hold counters can do: the blocks they leave alone
(`SeqOnly`), and that a feeder with a hold on it is never engaged (`Obeys`, R106). -/

namespace Sys2Proof.Machine

open Sys2Proof

/-! ## Folds -/

/-- A step that stays within a reflexive and transitive relation stays within it over a list. -/
theorem foldl_rel {α : Type} {R : State → State → Prop} (refl : ∀ s, R s s)
    (trans : ∀ {a b c}, R a b → R b c → R a c) {step : State → α → State} (h : ∀ a s, R s (step s a)) (l : List α) :
    ∀ s, R s (l.foldl step s) := by
  induction l with
  | nil => exact fun s => refl s
  | cons a l ih => exact fun s => trans (h a s) (ih (step s a))

/-- A property that a step keeps is kept over a list. -/
theorem foldl_keeps {α : Type} {P : State → Prop} {step : State → α → State} (h : ∀ a s, P s → P (step s a))
    (l : List α) : ∀ s, P s → P (l.foldl step s) := by
  induction l with
  | nil => exact fun s hs => hs
  | cons a l ih => exact fun s hs => ih (step s a) (h a s hs)

/-! ## The frame of the sequencers and groups -/

/-- A record with its outcome entries set aside. -/
def Record.bare (r : Record) : Record := { r with entries := [] }

/-- What an event at the sequencers and the group table can do: seq, the groups' course, the waiting requests and refusals, the open
record's entries and the reports move; nothing else does, and no feeder leaves OFFLINE. -/
structure State.SeqOnly (s t : State) : Prop where
  rest : { t with seq := s.seq, groups := s.groups, groupRequests := s.groupRequests, refusals := s.refusals,
                  link := s.link, detector := s.detector } = s
  link : Link.Posted s.link t.link
  detector : { t.detector with record := s.detector.record } = s.detector
  record : t.detector.record.map Record.bare = s.detector.record.map Record.bare
  groups : ∀ g, (t.groups.get g).members = (s.groups.get g).members ∧ (t.groups.get g).level = (s.groups.get g).level ∧
    (t.groups.get g).requireAll = (s.groups.get g).requireAll
  offline : ∀ f, (s.seq.get f).state = .offline → (t.seq.get f).state = .offline

namespace State.SeqOnly

variable {s t u : State}

theorem refl (s : State) : SeqOnly s s :=
  ⟨rfl, Link.Posted.refl _, rfl, rfl, fun _ => ⟨rfl, rfl, rfl⟩, fun _ h => h⟩

theorem trans (a : SeqOnly s t) (b : SeqOnly t u) : SeqOnly s u where
  rest := by
    have h := b.rest
    have k := a.rest
    rw [← h] at k
    exact k
  link := a.link.trans b.link
  detector := by
    have h := b.detector
    have k := a.detector
    rw [← h] at k
    exact k
  record := b.record.trans a.record
  groups g :=
    ⟨(b.groups g).1.trans (a.groups g).1, (b.groups g).2.1.trans (a.groups g).2.1, (b.groups g).2.2.trans (a.groups g).2.2⟩
  offline f h := b.offline f (a.offline f h)

end State.SeqOnly

open State (SeqOnly)

theorem State.post_seqOnly (s : State) (r : Report) : SeqOnly s (s.post r) :=
  ⟨rfl, s.link.post_posted r, rfl, rfl, fun _ => ⟨rfl, rfl, rfl⟩, fun _ h => h⟩

theorem State.setSeq_seqOnly (s : State) (f : Feeder) (q : Sequencer)
    (h : (s.seq.get f).state = .offline → q.state = .offline) : SeqOnly s (s.setSeq f q) := by
  refine ⟨rfl, Link.Posted.refl _, rfl, rfl, fun _ => ⟨rfl, rfl, rfl⟩, fun k hk => ?_⟩
  by_cases e : k = f
  · subst e; simpa using h hk
  · simpa [Six.get_set_ne _ _ e] using hk

theorem State.setGroup_seqOnly (s : State) (g : GroupNo) (r : Group)
    (h : r.members = (s.groups.get g).members ∧ r.level = (s.groups.get g).level ∧
      r.requireAll = (s.groups.get g).requireAll) : SeqOnly s (s.setGroup g r) := by
  refine ⟨rfl, Link.Posted.refl _, rfl, rfl, fun k => ?_, fun _ h => h⟩
  by_cases e : k = g
  · subst e; simpa using h
  · simp [Four.get_set_ne _ _ e]

theorem State.updateEntry_seqOnly (s : State) (f : Feeder) (c : Entry → Entry) : SeqOnly s (s.updateEntry f c) := by
  unfold State.updateEntry
  split
  · next r e => exact ⟨rfl, Link.Posted.refl _, rfl, by simp [e, Record.bare], fun _ => ⟨rfl, rfl, rfl⟩, fun _ h => h⟩
  · exact SeqOnly.refl s

theorem State.noteRelease_seqOnly (s : State) (f : Feeder) (c : Cause) : SeqOnly s (s.noteRelease f c) :=
  s.updateEntry_seqOnly f _

theorem State.noteMode_seqOnly (s : State) (f : Feeder) (m : Mode) : SeqOnly s (s.noteMode f m) :=
  s.updateEntry_seqOnly f _

theorem State.postFeederState_seqOnly (s : State) (f : Feeder) (c : Option Cause) : SeqOnly s (s.postFeederState f c) :=
  s.post_seqOnly _

theorem State.postFeederFault_seqOnly (s : State) (f : Feeder) (c : Cause) (l : Option FeederState) :
    SeqOnly s (s.postFeederFault f c l) :=
  s.post_seqOnly _

theorem State.enterReady_seqOnly (s : State) (f : Feeder) (h : (s.seq.get f).state ≠ .offline) :
    SeqOnly s (s.enterReady f) :=
  (s.setSeq_seqOnly f _ (fun e => absurd e h)).trans (State.postFeederState_seqOnly _ _ _)

theorem FeederState.engaged_ne_offline {q : FeederState} (h : q.engaged = true) : q ≠ .offline := by
  cases q <;> simp_all [FeederState.engaged]

theorem State.releaseAlone_seqOnly (s : State) (f : Feeder) (c : Cause) : SeqOnly s (s.releaseAlone f c) := by
  unfold State.releaseAlone
  simp only
  split
  · next h =>
    exact ((s.setSeq_seqOnly f _ (fun e => absurd e (FeederState.engaged_ne_offline h))).trans
      (State.noteRelease_seqOnly _ f c)).trans (State.postFeederState_seqOnly _ f _)
  · exact SeqOnly.refl s

theorem State.faultAlone_seqOnly (s : State) (f : Feeder) (c : Cause) (ph : SeqPhase) (k : Option TimerKind)
    (h : (s.seq.get f).state ≠ .offline) : SeqOnly s (s.faultAlone f c ph k) := by
  unfold State.faultAlone
  simp only
  refine (SeqOnly.trans ?_ (State.postFeederState_seqOnly _ f _)).trans (State.postFeederFault_seqOnly _ f c _)
  split
  · exact (s.setSeq_seqOnly f _ (fun e => absurd e h)).trans (State.noteRelease_seqOnly _ f c)
  · exact s.setSeq_seqOnly f _ (fun e => absurd e h)

theorem State.followOn_seqOnly (s : State) (f : Feeder) (c : Cause) : SeqOnly s (s.followOn f c) :=
  (s.setSeq_seqOnly f { s.seq.get f with followOn := some c } id).trans (State.postFeederFault_seqOnly _ f c none)

theorem State.takeGroupRequests_seqOnly (s : State) : SeqOnly s s.takeGroupRequests := by
  unfold State.takeGroupRequests
  refine SeqOnly.trans (t := { s with groupRequests := FeederSet.empty })
    ⟨rfl, Link.Posted.refl _, rfl, rfl, fun _ => ⟨rfl, rfl, rfl⟩, fun _ h => h⟩ ?_
  refine foldl_rel SeqOnly.refl SeqOnly.trans (fun f s => ?_) _ _
  simp only
  split
  · exact s.releaseAlone_seqOnly f _
  · exact SeqOnly.refl s

theorem State.groupRequests_seqOnly (s : State) (w : FeederSet) : SeqOnly s { s with groupRequests := w } :=
  ⟨rfl, Link.Posted.refl _, rfl, rfl, fun _ => ⟨rfl, rfl, rfl⟩, fun _ h => h⟩

theorem State.refuse_seqOnly (s : State) (g : GroupNo) (f : Feeder) (a : AbandonCause) : SeqOnly s (s.refuse g f a) := by
  unfold State.refuse
  simp only
  split
  · exact (s.setGroup_seqOnly g { s.groups.get g with
      refused := (s.groups.get g).refused.insert f, abandonCause := some a, state := .abandoned } ⟨rfl, rfl, rfl⟩).trans
      (State.groupRequests_seqOnly _ _)
  · exact (s.setGroup_seqOnly g { s.groups.get g with
      refused := (s.groups.get g).refused.insert f, abandonCause := some a, state := .abandoned } ⟨rfl, rfl, rfl⟩).trans
      (State.groupRequests_seqOnly _ _)
  · exact s.setGroup_seqOnly g _ ⟨rfl, rfl, rfl⟩
  · exact s.setGroup_seqOnly g _ ⟨rfl, rfl, rfl⟩

theorem State.refusals_seqOnly (s : State) (w : List (Feeder × AbandonCause)) : SeqOnly s { s with refusals := w } :=
  ⟨rfl, Link.Posted.refl _, rfl, rfl, fun _ => ⟨rfl, rfl, rfl⟩, fun _ h => h⟩

theorem State.takeRefusal_seqOnly (s : State) (f : Feeder) (a : AbandonCause) : SeqOnly s (s.takeRefusal f a) := by
  unfold State.takeRefusal
  split
  · split
    · exact s.refuse_seqOnly _ f a
    · exact SeqOnly.refl s
  · exact SeqOnly.refl s

theorem State.takeRefusals_seqOnly (s : State) : SeqOnly s s.takeRefusals :=
  (s.refusals_seqOnly []).trans
    (foldl_rel (step := fun s (r : Feeder × AbandonCause) => s.takeRefusal r.1 r.2) SeqOnly.refl SeqOnly.trans
      (fun r s => s.takeRefusal_seqOnly r.1 r.2) _ _)

theorem State.settleGroups_seqOnly (s : State) (lv : Leave) : SeqOnly s (s.settleGroups lv) := by
  unfold State.settleGroups
  split
  · exact SeqOnly.refl s
  · split
    · exact s.takeRefusals_seqOnly
    · exact s.takeRefusals_seqOnly.trans (State.takeGroupRequests_seqOnly _)

theorem State.depart_seqOnly (s : State) (lv : Leave) (f : Feeder) (c : Cause) : SeqOnly s (s.depart lv f c) := by
  unfold State.depart
  split
  · exact (s.refusals_seqOnly _).trans (State.settleGroups_seqOnly _ lv)
  · exact SeqOnly.refl s

theorem State.release_seqOnly (s : State) (lv : Leave) (f : Feeder) (c : Cause) : SeqOnly s (s.release lv f c) := by
  unfold State.release
  split
  · exact (s.releaseAlone_seqOnly f c).trans (State.depart_seqOnly _ lv f c)
  · exact SeqOnly.refl s

theorem State.fault_seqOnly (s : State) (lv : Leave) (f : Feeder) (c : Cause) (ph : SeqPhase) (k : Option TimerKind)
    (h : (s.seq.get f).state ≠ .offline) : SeqOnly s (s.fault lv f c ph k) := by
  unfold State.fault
  split
  · exact (s.faultAlone_seqOnly f c ph k h).trans (State.depart_seqOnly _ lv f c)
  · exact s.faultAlone_seqOnly f c ph k h

/-- Settling a group changes its state alone. -/
theorem Group.settle_defs (r : Group) :
    r.settle.members = r.members ∧ r.settle.level = r.level ∧ r.settle.requireAll = r.requireAll := by
  unfold Group.settle
  split <;> exact ⟨rfl, rfl, rfl⟩

theorem State.engageGroup_seqOnly (s : State) (g : GroupNo) (e : FeederSet) : SeqOnly s (s.engageGroup g e) :=
  s.setGroup_seqOnly g _ (Group.settle_defs _)

theorem State.acknowledge_seqOnly (s : State) (f : Feeder) : SeqOnly s (s.acknowledge f) := by
  unfold State.acknowledge
  split
  · simp only
    split
    · exact s.setGroup_seqOnly _ _ (Group.settle_defs _)
    · exact SeqOnly.refl s
  · exact SeqOnly.refl s

theorem State.starveGroup_seqOnly (s : State) (g : GroupNo) : SeqOnly s (s.starveGroup g) := by
  unfold State.starveGroup
  simp only
  split
  · exact s.setGroup_seqOnly g _ ⟨rfl, rfl, rfl⟩
  · exact s.setGroup_seqOnly g _ ⟨rfl, rfl, rfl⟩
  · exact SeqOnly.refl s
  · exact SeqOnly.refl s

theorem State.groupNotNeeded_seqOnly (s : State) (g : GroupNo) : SeqOnly s (s.groupNotNeeded g) := by
  unfold State.groupNotNeeded
  simp only
  split
  · exact s.setGroup_seqOnly g _ ⟨rfl, rfl, rfl⟩
  · exact s.setGroup_seqOnly g _ ⟨rfl, rfl, rfl⟩
  · exact SeqOnly.refl s
  · exact SeqOnly.refl s

theorem State.groupEventEnd_seqOnly (s : State) (g : GroupNo) (e : EndCause) : SeqOnly s (s.groupEventEnd g e) := by
  have fold (t : State) (w : FeederSet) :
      SeqOnly t (forFeeders (fun f s => if w.get f then s.release .nothing f e.cause else s) t) := by
    refine foldl_rel SeqOnly.refl SeqOnly.trans (fun f s => ?_) _ _
    simp only
    split
    · exact s.release_seqOnly .nothing f _
    · exact SeqOnly.refl s
  unfold State.groupEventEnd
  simp only
  split
  · exact (s.setGroup_seqOnly g { s.groups.get g with state := .idle } ⟨rfl, rfl, rfl⟩).trans (fold _ _)
  · exact (s.setGroup_seqOnly g { s.groups.get g with state := .idle } ⟨rfl, rfl, rfl⟩).trans (fold _ _)
  · exact s.setGroup_seqOnly g _ ⟨rfl, rfl, rfl⟩
  · exact SeqOnly.refl s

theorem State.candidateGrant_seqOnly (s : State) (f : Feeder) (m : Mode) : SeqOnly s (s.candidateGrant f m) := by
  unfold State.candidateGrant
  simp only
  split
  · next h => exact (s.setSeq_seqOnly f _ (fun e => by rw [h] at e; cases e)).trans (State.postFeederState_seqOnly _ f none)
  · exact SeqOnly.refl s

theorem State.participantGrant_seqOnly (s : State) (f : Feeder) (m : Mode) : SeqOnly s (s.participantGrant f m) := by
  unfold State.participantGrant
  simp only
  split
  · split
    · exact s.setSeq_seqOnly f _ id
    · exact (s.setSeq_seqOnly f { s.seq.get f with mode := some m } id).trans (State.noteMode_seqOnly _ f m)
  · exact SeqOnly.refl s

theorem State.enterInjecting_seqOnly (s : State) (f : Feeder) (h : (s.seq.get f).state ≠ .offline) :
    SeqOnly s (s.enterInjecting f) :=
  ((s.setSeq_seqOnly f _ (fun e => absurd e h)).trans (State.postFeederState_seqOnly _ f none)).trans
    (State.acknowledge_seqOnly _ f)

theorem State.toPhase_seqOnly (s : State) (f : Feeder) (ph : SeqPhase) (k : Option TimerKind) :
    SeqOnly s (s.toPhase f ph k) :=
  s.setSeq_seqOnly f _ id

theorem State.stopTimer_seqOnly (s : State) (f : Feeder) : SeqOnly s (s.stopTimer f) := s.setSeq_seqOnly f _ id

theorem State.watchBypass_seqOnly (s : State) (f : Feeder) (b : BypassPosition) : SeqOnly s (s.watchBypass f b) := by
  unfold State.watchBypass
  simp only
  split
  · exact s.setSeq_seqOnly f _ id
  · exact s.setSeq_seqOnly f _ id
  · exact s.setSeq_seqOnly f _ id
  · exact SeqOnly.refl s

theorem State.faultedStatus_seqOnly (s : State) (f : Feeder) (st : ModuleStatus) (b : Option ModuleStatus) :
    SeqOnly s (s.faultedStatus f st b) := by
  unfold State.faultedStatus
  split
  · exact (s.toPhase_seqOnly f _ _).trans (State.followOn_seqOnly _ f _)
  · split
    · split
      · exact s.toPhase_seqOnly f _ _
      · exact SeqOnly.refl s
    · split
      · exact s.toPhase_seqOnly f _ _
      · exact SeqOnly.refl s
    all_goals exact SeqOnly.refl s

theorem State.takeStatus_seqOnly (s : State) (lv : Leave) (f : Feeder) (st : ModuleStatus) (b : Option ModuleStatus) :
    SeqOnly s (s.takeStatus lv f st b) := by
  unfold State.takeStatus
  split
  · exact SeqOnly.refl s
  · exact s.faultedStatus_seqOnly f st b
  · next h =>
    split
    · exact s.fault_seqOnly lv f _ _ _ (by simp [h])
    · exact SeqOnly.refl s
  · next h =>
    split
    · exact s.fault_seqOnly lv f _ _ _ (by simp [h])
    · exact SeqOnly.refl s
  · next h =>
    split
    · exact s.enterInjecting_seqOnly f (by simp [h])
    · exact s.fault_seqOnly lv f _ _ _ (by simp [h])
    all_goals exact SeqOnly.refl s
  · next h =>
    split
    · exact s.watchBypass_seqOnly f _
    all_goals exact s.fault_seqOnly lv f _ _ _ (by simp [h])
  · next h =>
    split
    · exact s.fault_seqOnly lv f _ _ _ (by simp [h])
    · split
      · split
        · exact s.toPhase_seqOnly f _ _
        · exact SeqOnly.refl s
      · split
        · exact s.enterReady_seqOnly f (by simp [h])
        · exact SeqOnly.refl s
      all_goals exact SeqOnly.refl s

theorem State.takePortLost_seqOnly (s : State) (lv : Leave) (f : Feeder) : SeqOnly s (s.takePortLost lv f) := by
  unfold State.takePortLost
  split
  case h_6 => exact s.followOn_seqOnly f _
  case h_7 => exact SeqOnly.refl s
  all_goals next h => exact s.fault_seqOnly lv f _ _ _ (by simp [h])

theorem State.armExpiry_seqOnly (s : State) (lv : Leave) (f : Feeder) : SeqOnly s (s.armExpiry lv f) := by
  unfold State.armExpiry
  split
  · next h => exact s.fault_seqOnly lv f _ _ _ (by simp [h])
  · exact s.stopTimer_seqOnly f

theorem State.bypassExpiry_seqOnly (s : State) (lv : Leave) (f : Feeder) : SeqOnly s (s.bypassExpiry lv f) := by
  unfold State.bypassExpiry
  split
  · exact s.release_seqOnly lv f _
  · next h _ => exact s.fault_seqOnly lv f _ _ _ (by simp [h])
  · exact s.stopTimer_seqOnly f

theorem State.handoverExpiry_seqOnly (s : State) (f : Feeder) : SeqOnly s (s.handoverExpiry f) := by
  unfold State.handoverExpiry
  split
  · exact s.toPhase_seqOnly f _ _
  · exact s.stopTimer_seqOnly f

theorem State.stopExpiry_seqOnly (s : State) (lv : Leave) (f : Feeder) : SeqOnly s (s.stopExpiry lv f) := by
  unfold State.stopExpiry
  split
  · next h _ => exact s.fault_seqOnly lv f _ _ _ (by simp [h])
  · exact (s.stopTimer_seqOnly f).trans (State.followOn_seqOnly _ f _)
  · exact s.stopTimer_seqOnly f

theorem State.expire_seqOnly (s : State) (lv : Leave) (f : Feeder) : SeqOnly s (s.expire lv f) := by
  unfold State.expire
  split
  · split
    · split
      · exact s.armExpiry_seqOnly lv f
      · exact s.bypassExpiry_seqOnly lv f
      · exact s.handoverExpiry_seqOnly f
      · exact s.stopExpiry_seqOnly lv f
    · exact SeqOnly.refl s
  · exact SeqOnly.refl s

theorem State.tickSequencer_seqOnly (s : State) (now : Bool) (f : Feeder) : SeqOnly s (s.tickSequencer now f) :=
  s.setSeq_seqOnly f _ id

theorem State.holdTaken_seqOnly (s : State) (lv : Leave) (f : Feeder) : SeqOnly s (s.holdTaken lv f) := by
  unfold State.holdTaken
  split
  case h_1 h => exact s.enterReady_seqOnly f (by simp [h])
  case h_2 => exact s.release_seqOnly lv f _
  case h_3 => exact s.release_seqOnly lv f _
  all_goals exact SeqOnly.refl s

theorem State.holdFreed_seqOnly (s : State) (f : Feeder) : SeqOnly s (s.holdFreed f) := by
  unfold State.holdFreed
  split
  · next h => exact s.enterReady_seqOnly f (by simp [h])
  · exact SeqOnly.refl s

/-- A hold operation sets one count, and leaves the rest to the sequencers and groups. -/
theorem State.hold_seqOnly (s : State) (lv : Leave) (f : Feeder) (op : HoldOp) :
    SeqOnly { s with holds := s.holds.set f (op.apply (s.holds.get f)) } (s.hold lv f op) := by
  unfold State.hold
  simp only
  split
  · exact State.holdTaken_seqOnly _ lv f
  · split
    · exact State.holdFreed_seqOnly _ f
    · exact SeqOnly.refl _

/-- A hold operation keeps a count within 0..255 (R147, R149). -/
theorem HoldOp.apply_le (op : HoldOp) (c : Nat) (h : c ≤ 255) : op.apply c ≤ 255 := by
  cases op <;> simp only [HoldOp.apply] <;> (try split) <;> omega

/-! ## No engagement under a hold (R106) -/

/-- What R106 asks of a feeder's state beside its hold count. -/
def ObeysAt (h : Nat) (q : FeederState) : Prop :=
  (q = .standby ∨ q = .arming ∨ q = .injecting → h = 0) ∧ (q = .held → h ≠ 0)

/-- R106 at every feeder. -/
def State.Obeys (s : State) : Prop := ∀ f, ObeysAt (s.holds.get f) (s.seq.get f).state

theorem State.Obeys.of_eq {s t : State} (h : s.Obeys) (a : t.holds = s.holds) (b : t.seq = s.seq) : t.Obeys := by
  intro f; rw [a, b]; exact h f

theorem State.Obeys.setSeq {s : State} (h : s.Obeys) (f : Feeder) (q : Sequencer)
    (k : ObeysAt (s.holds.get f) q.state) : (s.setSeq f q).Obeys := by
  intro g
  by_cases e : g = f
  · subst e; simpa using k
  · simpa [Six.get_set_ne _ _ e] using h g

theorem State.Obeys.same {s : State} (h : s.Obeys) (f : Feeder) (q : Sequencer) (k : q.state = (s.seq.get f).state) :
    (s.setSeq f q).Obeys :=
  h.setSeq f q (k ▸ h f)

theorem State.Obeys.updateEntry {s : State} (h : s.Obeys) (f : Feeder) (c : Entry → Entry) : (s.updateEntry f c).Obeys := by
  unfold State.updateEntry
  split
  · exact h.of_eq rfl rfl
  · exact h

theorem State.readyState_obeys (s : State) (f : Feeder) : ObeysAt (s.holds.get f) (s.readyState f) := by
  unfold State.readyState
  split
  · next h => simp [ObeysAt, h]
  · next h => simp [ObeysAt, h]

theorem State.Obeys.enterReady {s : State} (h : s.Obeys) (f : Feeder) : (s.enterReady f).Obeys :=
  (h.setSeq f { s.seq.get f with state := s.readyState f, phase := none, timer := none } (s.readyState_obeys f)).of_eq
    rfl rfl

/-- Entering READY obeys the hold of its own feeder whatever that feeder did before. -/
theorem State.enterReady_obeys_of_others {s : State} (f : Feeder)
    (h : ∀ g, g ≠ f → ObeysAt (s.holds.get g) (s.seq.get g).state) : (s.enterReady f).Obeys := by
  intro g
  by_cases e : g = f
  · subst e; simpa [State.enterReady, State.postFeederState] using s.readyState_obeys g
  · simpa [State.enterReady, State.postFeederState, Six.get_set_ne _ _ e] using h g e

theorem obeysAt_releasing (n : Nat) : ObeysAt n .releasing := by simp [ObeysAt]
theorem obeysAt_faulted (n : Nat) : ObeysAt n .faulted := by simp [ObeysAt]
theorem obeysAt_offline (n : Nat) : ObeysAt n .offline := by simp [ObeysAt]

/-- A release leaves its own feeder RELEASING, or finds it not engaged: R106 holds after it at that feeder if it held
there or the feeder was engaged. -/
theorem State.releaseAlone_obeys_of_others {s : State} (f : Feeder) (c : Cause) (he : s.participant f = true)
    (h : ∀ g, g ≠ f → ObeysAt (s.holds.get g) (s.seq.get g).state) : (s.releaseAlone f c).Obeys := by
  have he' : (s.seq.get f).state.engaged = true := he
  unfold State.releaseAlone
  simp only [he', if_true]
  refine State.Obeys.of_eq (s := (s.setSeq f _).noteRelease f c) (State.Obeys.updateEntry ?_ f _) rfl rfl
  intro g
  by_cases e : g = f
  · subst e; simpa using obeysAt_releasing _
  · simpa [Six.get_set_ne _ _ e] using h g e

theorem State.Obeys.releaseAlone {s : State} (h : s.Obeys) (f : Feeder) (c : Cause) : (s.releaseAlone f c).Obeys := by
  by_cases he : s.participant f = true
  · exact State.releaseAlone_obeys_of_others f c he fun g _ => h g
  · have he' : (s.seq.get f).state.engaged = false := by simpa [State.participant] using he
    unfold State.releaseAlone
    simpa [he'] using h

theorem State.Obeys.faultAlone {s : State} (h : s.Obeys) (f : Feeder) (c : Cause) (ph : SeqPhase)
    (k : Option TimerKind) : (s.faultAlone f c ph k).Obeys := by
  unfold State.faultAlone
  simp only
  refine State.Obeys.of_eq (s := if (s.seq.get f).state.engaged then (s.setSeq f _).noteRelease f c else s.setSeq f _) ?_
    rfl rfl
  split
  · exact (h.setSeq f _ (obeysAt_faulted _)).updateEntry f _
  · exact h.setSeq f _ (obeysAt_faulted _)

theorem State.Obeys.followOn {s : State} (h : s.Obeys) (f : Feeder) (c : Cause) : (s.followOn f c).Obeys :=
  (h.same f { s.seq.get f with followOn := some c } rfl).of_eq rfl rfl

theorem State.Obeys.takeGroupRequests {s : State} (h : s.Obeys) : s.takeGroupRequests.Obeys := by
  unfold State.takeGroupRequests
  refine foldl_keeps (P := State.Obeys) (fun f s hs => ?_) _ _ (h.of_eq (t := { s with groupRequests := _ }) rfl rfl)
  simp only
  split
  · exact hs.releaseAlone f _
  · exact hs

theorem State.Obeys.refuse {s : State} (h : s.Obeys) (g : GroupNo) (f : Feeder) (a : AbandonCause) :
    (s.refuse g f a).Obeys := by
  unfold State.refuse
  simp only
  split <;> exact h.of_eq rfl rfl

theorem State.Obeys.takeRefusals {s : State} (h : s.Obeys) : s.takeRefusals.Obeys := by
  unfold State.takeRefusals
  refine foldl_keeps (P := State.Obeys) (fun r s hs => ?_) _ _ (h.of_eq (t := { s with refusals := _ }) rfl rfl)
  unfold State.takeRefusal
  split
  · split
    · exact hs.refuse _ _ _
    · exact hs
  · exact hs

theorem State.Obeys.settleGroups {s : State} (h : s.Obeys) (lv : Leave) : (s.settleGroups lv).Obeys := by
  unfold State.settleGroups
  split
  · exact h
  · split
    · exact h.takeRefusals
    · exact h.takeRefusals.takeGroupRequests

theorem State.Obeys.depart {s : State} (h : s.Obeys) (lv : Leave) (f : Feeder) (c : Cause) : (s.depart lv f c).Obeys := by
  unfold State.depart
  split
  · next a _ => exact State.Obeys.settleGroups (h.of_eq (t := { s with refusals := s.refusals ++ [(f, a)] }) rfl rfl) lv
  · exact h

theorem State.Obeys.release {s : State} (h : s.Obeys) (lv : Leave) (f : Feeder) (c : Cause) : (s.release lv f c).Obeys := by
  unfold State.release
  split
  · exact (h.releaseAlone f c).depart lv f c
  · exact h

theorem State.Obeys.fault {s : State} (h : s.Obeys) (lv : Leave) (f : Feeder) (c : Cause) (ph : SeqPhase)
    (k : Option TimerKind) : (s.fault lv f c ph k).Obeys := by
  unfold State.fault
  split
  · exact (h.faultAlone f c ph k).depart lv f c
  · exact h.faultAlone f c ph k

theorem State.Obeys.groups {s t : State} (h : s.Obeys) (a : t.holds = s.holds) (b : t.seq = s.seq) : t.Obeys := h.of_eq a b

theorem State.Obeys.acknowledge {s : State} (h : s.Obeys) (f : Feeder) : (s.acknowledge f).Obeys := by
  unfold State.acknowledge
  split
  · simp only
    split
    · exact h.of_eq rfl rfl
    · exact h
  · exact h

theorem State.Obeys.starveGroup {s : State} (h : s.Obeys) (g : GroupNo) : (s.starveGroup g).Obeys := by
  unfold State.starveGroup
  simp only
  split <;> exact h.of_eq rfl rfl

theorem State.Obeys.groupNotNeeded {s : State} (h : s.Obeys) (g : GroupNo) : (s.groupNotNeeded g).Obeys := by
  unfold State.groupNotNeeded
  simp only
  split <;> exact h.of_eq rfl rfl

theorem State.Obeys.groupEventEnd {s : State} (h : s.Obeys) (g : GroupNo) (e : EndCause) : (s.groupEventEnd g e).Obeys := by
  have fold (t : State) (w : FeederSet) (ht : t.Obeys) :
      (forFeeders (fun f s => if w.get f then s.release .nothing f e.cause else s) t).Obeys := by
    refine foldl_keeps (P := State.Obeys) (fun f s hs => ?_) _ _ ht
    simp only
    split
    · exact hs.release .nothing f _
    · exact hs
  unfold State.groupEventEnd
  simp only
  split
  · exact fold _ _ (h.of_eq rfl rfl)
  · exact fold _ _ (h.of_eq rfl rfl)
  · exact h.of_eq rfl rfl
  · exact h

theorem State.Obeys.candidateGrant {s : State} (h : s.Obeys) (f : Feeder) (m : Mode) : (s.candidateGrant f m).Obeys := by
  unfold State.candidateGrant
  simp only
  split
  · next e =>
    refine State.Obeys.of_eq (s := s.setSeq f _) (h.setSeq f _ ?_) rfl rfl
    have := (h f).1 (.inl e)
    simp [ObeysAt, this]
  · exact h

theorem State.Obeys.participantGrant {s : State} (h : s.Obeys) (f : Feeder) (m : Mode) :
    (s.participantGrant f m).Obeys := by
  unfold State.participantGrant
  simp only
  split
  · split
    · exact h.same f _ rfl
    · exact (h.same f { s.seq.get f with mode := some m } rfl).updateEntry f _
  · exact h

theorem State.Obeys.enterInjecting {s : State} (h : s.Obeys) (f : Feeder) (e : (s.seq.get f).state = .arming) :
    (s.enterInjecting f).Obeys := by
  have z := (h f).1 (.inr (.inl e))
  have k : (s.setSeq f { s.seq.get f with
      state := .injecting, timer := s.globals.startTimer .bypass, injected := true }).Obeys :=
    h.setSeq f _ (by simp [ObeysAt, z])
  have k2 : (State.postFeederState (s.setSeq f { s.seq.get f with
      state := .injecting, timer := s.globals.startTimer .bypass, injected := true }) f none).Obeys :=
    k.of_eq rfl rfl
  exact k2.acknowledge f

theorem State.Obeys.watchBypass {s : State} (h : s.Obeys) (f : Feeder) (b : BypassPosition) : (s.watchBypass f b).Obeys := by
  unfold State.watchBypass
  simp only
  split
  · exact h.same f _ rfl
  · exact h.same f _ rfl
  · exact h.same f _ rfl
  · exact h

theorem State.Obeys.toPhase {s : State} (h : s.Obeys) (f : Feeder) (ph : SeqPhase) (k : Option TimerKind) :
    (s.toPhase f ph k).Obeys :=
  h.same f _ rfl

theorem State.Obeys.stopTimer {s : State} (h : s.Obeys) (f : Feeder) : (s.stopTimer f).Obeys := h.same f _ rfl

theorem State.Obeys.faultedStatus {s : State} (h : s.Obeys) (f : Feeder) (st : ModuleStatus) (b : Option ModuleStatus) :
    (s.faultedStatus f st b).Obeys := by
  unfold State.faultedStatus
  split
  · exact (h.toPhase f _ _).followOn f _
  · split
    · split
      · exact h.toPhase f _ _
      · exact h
    · split
      · exact h.toPhase f _ _
      · exact h
    all_goals exact h

theorem State.Obeys.takeStatus {s : State} (h : s.Obeys) (lv : Leave) (f : Feeder) (st : ModuleStatus)
    (b : Option ModuleStatus) : (s.takeStatus lv f st b).Obeys := by
  unfold State.takeStatus
  split
  · exact h
  · exact h.faultedStatus f st b
  · split
    · exact h.fault lv f _ _ _
    · exact h
  · split
    · exact h.fault lv f _ _ _
    · exact h
  · next e =>
    split
    · exact h.enterInjecting f e
    · exact h.fault lv f _ _ _
    all_goals exact h
  · split
    · exact h.watchBypass f _
    all_goals exact h.fault lv f _ _ _
  · split
    · exact h.fault lv f _ _ _
    · split
      · split
        · exact h.toPhase f _ _
        · exact h
      · split
        · exact h.enterReady f
        · exact h
      all_goals exact h

theorem State.Obeys.takePortLost {s : State} (h : s.Obeys) (lv : Leave) (f : Feeder) : (s.takePortLost lv f).Obeys := by
  unfold State.takePortLost
  split
  case h_6 => exact h.followOn f _
  case h_7 => exact h
  all_goals exact h.fault lv f _ _ _

theorem State.Obeys.expire {s : State} (h : s.Obeys) (lv : Leave) (f : Feeder) : (s.expire lv f).Obeys := by
  unfold State.expire
  split
  · split
    · split
      · unfold State.armExpiry
        split
        · exact h.fault lv f _ _ _
        · exact h.stopTimer f
      · unfold State.bypassExpiry
        split
        · exact h.release lv f _
        · exact h.fault lv f _ _ _
        · exact h.stopTimer f
      · unfold State.handoverExpiry
        split
        · exact h.toPhase f _ _
        · exact h.stopTimer f
      · unfold State.stopExpiry
        split
        · exact h.fault lv f _ _ _
        · exact (h.stopTimer f).followOn f _
        · exact h.stopTimer f
    · exact h
  · exact h

theorem State.Obeys.tickSequencer {s : State} (h : s.Obeys) (now : Bool) (f : Feeder) : (s.tickSequencer now f).Obeys :=
  h.same f _ rfl

/-- R106, R149, R150: a hold operation, with the sequencer's answer in the same event, leaves R106 in force. -/
theorem State.Obeys.hold {s : State} (h : s.Obeys) (lv : Leave) (f : Feeder) (op : HoldOp) : (s.hold lv f op).Obeys := by
  have others : ∀ g, g ≠ f → ObeysAt ((s.holds.set f (op.apply (s.holds.get f))).get g) (s.seq.get g).state := by
    intro g e; rw [Six.get_set_ne _ _ e]; exact h g
  have all (k : ObeysAt (op.apply (s.holds.get f)) (s.seq.get f).state) :
      State.Obeys { s with holds := s.holds.set f (op.apply (s.holds.get f)) } := by
    intro g
    by_cases e : g = f
    · subst e; simpa using k
    · exact others g e
  unfold State.hold
  simp only
  split
  · next c =>
    have free : (s.seq.get f).state ≠ .held := fun e => (h f).2 e c.1
    unfold State.holdTaken
    split
    case h_1 => exact State.enterReady_obeys_of_others f others
    case h_2 e =>
      have e' : (s.seq.get f).state = .arming := e
      have p : State.participant { s with holds := s.holds.set f (op.apply (s.holds.get f)) } f = true := by
        simp [State.participant, e', FeederState.engaged]
      unfold State.release
      simp only [p, if_true]
      exact (State.releaseAlone_obeys_of_others f .held p others).depart lv f .held
    case h_3 e =>
      have e' : (s.seq.get f).state = .injecting := e
      have p : State.participant { s with holds := s.holds.set f (op.apply (s.holds.get f)) } f = true := by
        simp [State.participant, e', FeederState.engaged]
      unfold State.release
      simp only [p, if_true]
      exact (State.releaseAlone_obeys_of_others f .held p others).depart lv f .held
    case h_4 e => exact all (by rw [show (s.seq.get f).state = _ from e]; exact obeysAt_offline _)
    case h_5 e => exact absurd e free
    case h_6 e => exact all (by rw [show (s.seq.get f).state = _ from e]; exact obeysAt_releasing _)
    case h_7 e => exact all (by rw [show (s.seq.get f).state = _ from e]; exact obeysAt_faulted _)
  · split
    · next c =>
      unfold State.holdFreed
      split
      · exact State.enterReady_obeys_of_others f others
      · next e =>
        have e' : (s.seq.get f).state ≠ .held := e
        refine all ⟨fun k => ?_, fun k => absurd k e'⟩
        exact absurd ((h f).1 k) c.1
    · next c d =>
      refine all ⟨fun k => ?_, fun k => ?_⟩
      · have z := (h f).1 k
        by_contra n
        exact c ⟨z, n⟩
      · have z := (h f).2 k
        intro n
        exact d ⟨z, n⟩

end Sys2Proof.Machine
end

