-- ==== Sys2Proof/Laws/Instant.lean ====
section
/-! SUPPORT. What the events of a sample instant can do: the blocks that none of them touches (`Within`), and the
measurements that those after the sample set's measurement leave alone (`Late`), with the small lemmas of grant lists and
departures. -/

namespace Sys2Proof.Machine

open Sys2Proof

/-! ## The frame of an instant -/

/-- What any part of a sample instant can do. The configuration, the image memory, the model's own fields and the groups'
definitions stay; the queues, the record table and the hold counts keep their bounds, and R106 holds, if they did
before. -/
structure State.Frame (s t : State) : Prop where
  fixed : t.inReset = s.inReset ∧ t.straps = s.straps ∧ t.loader = s.loader ∧ t.globals = s.globals ∧
    t.feeders = s.feeders ∧ t.image = s.image ∧ t.freeCount = s.freeCount ∧ t.pending = s.pending
  classes : t.classes.classes = s.classes.classes ∧ t.classes.banks = s.classes.banks
  link : Link.Posted s.link t.link
  groups : ∀ g, (t.groups.get g).members = (s.groups.get g).members ∧ (t.groups.get g).level = (s.groups.get g).level ∧
    (t.groups.get g).requireAll = (s.groups.get g).requireAll
  offline : ∀ f, (s.seq.get f).state = .offline → (t.seq.get f).state = .offline
  holds : (∀ f, s.holds.get f ≤ 255) → ∀ f, t.holds.get f ≤ 255
  table : s.detector.table.length ≤ 16 → t.detector.table.length ≤ 16
  obeys : s.Obeys → t.Obeys

/-- What any event of a sample instant can do: its frame, and a record is open exactly while an event is, if that held
before. -/
structure State.Within (s t : State) : Prop where
  frame : State.Frame s t
  record : s.detector.record.isSome = s.eventOpen → t.detector.record.isSome = t.eventOpen

/-- The measurements of an instant and the values it uses, as a state shows them. -/
def State.measured (s : State) :
    Values × Option SampleSet × Magnitude × Comparator × (Option Nat × Nat × Nat) × (Nat × Option Int × Bool × Nat × Bool) ×
      (Feeder → Int × Nat × Nat × Nat × Nat) :=
  (s.inForce, s.sample, s.magnitude, s.comparator, (s.store.volts, s.store.energy, s.store.quanta),
    (s.tracker.index, s.tracker.prevA, s.tracker.remembered, s.tracker.boundarySpacing, s.tracker.boundaryDeclared),
    fun f => ((s.gen.get f).draw, (s.gen.get f).satCount, (s.gen.get f).closedW, (s.gen.get f).closedQ,
      (s.gen.get f).closedSat))

/-- What an event after the measurement of its instant can do. -/
structure State.Late (s t : State) : Prop where
  within : State.Within s t
  measured : t.measured = s.measured

namespace State.Frame

variable {s t u : State}

theorem refl (s : State) : Frame s s :=
  ⟨⟨rfl, rfl, rfl, rfl, rfl, rfl, rfl, rfl⟩, ⟨rfl, rfl⟩, Link.Posted.refl _, fun _ => ⟨rfl, rfl, rfl⟩, fun _ h => h, id, id,
    id⟩

theorem trans (a : Frame s t) (b : Frame t u) : Frame s u where
  fixed := by
    obtain ⟨a1, a2, a3, a4, a5, a6, a7, a8⟩ := a.fixed
    obtain ⟨b1, b2, b3, b4, b5, b6, b7, b8⟩ := b.fixed
    exact ⟨b1.trans a1, b2.trans a2, b3.trans a3, b4.trans a4, b5.trans a5, b6.trans a6, b7.trans a7, b8.trans a8⟩
  classes := ⟨b.classes.1.trans a.classes.1, b.classes.2.trans a.classes.2⟩
  link := a.link.trans b.link
  groups g :=
    ⟨(b.groups g).1.trans (a.groups g).1, (b.groups g).2.1.trans (a.groups g).2.1, (b.groups g).2.2.trans (a.groups g).2.2⟩
  offline f h := b.offline f (a.offline f h)
  holds h := b.holds (a.holds h)
  table h := b.table (a.table h)
  obeys h := b.obeys (a.obeys h)

end State.Frame

namespace State.Within

variable {s t u : State}

theorem refl (s : State) : Within s s := ⟨State.Frame.refl s, id⟩

theorem trans (a : Within s t) (b : Within t u) : Within s u :=
  ⟨a.frame.trans b.frame, fun h => b.record (a.record h)⟩

/-- A change of nothing but measurements and marks. -/
theorem of_measure (h : { t with
    inForce := s.inForce, written := s.written, sample := s.sample, tracker := s.tracker, magnitude := s.magnitude, comparator := s.comparator, gen := s.gen,
    store := s.store, arbiter := s.arbiter, port := s.port, lines := s.lines } = s) : Within s t := by
  obtain
    ⟨a1, a2, a3, a4, a5, a6, a7, a8, a9, a10, a11, a12, a13, a14, a15, a16, a17, a18, a19, a20, a21, a22, a23, a24, a25, a26, a27⟩ := t
  obtain
    ⟨b1, b2, b3, b4, b5, b6, b7, b8, b9, b10, b11, b12, b13, b14, b15, b16, b17, b18, b19, b20, b21, b22, b23, b24, b25, b26, b27⟩ := s
  simp only [State.mk.injEq, true_and] at h
  obtain ⟨rfl, rfl, rfl, rfl, rfl, rfl, rfl, rfl, rfl, rfl, rfl, rfl, rfl, rfl, rfl, rfl⟩ := h
  exact ⟨⟨⟨rfl, rfl, rfl, rfl, rfl, rfl, rfl, rfl⟩, ⟨rfl, rfl⟩, Link.Posted.refl _, fun _ => ⟨rfl, rfl, rfl⟩, fun _ h => h,
    id, id, id⟩, id⟩

end State.Within

namespace State.Late

variable {s t u : State}

theorem refl (s : State) : Late s s := ⟨State.Within.refl s, rfl⟩

theorem trans (a : Late s t) (b : Late t u) : Late s u := ⟨a.within.trans b.within, b.measured.trans a.measured⟩

/-- A change of nothing but the arbiter, the ports, the lines and the store's states. -/
theorem of_rest (h : { t with
    arbiter := s.arbiter, port := s.port, lines := s.lines,
    store := { t.store with warning := s.store.warning, overVoltage := s.store.overVoltage, charger := s.store.charger,
                            delay := s.store.delay } } = s) : Late s t := by
  obtain
    ⟨a1, a2, a3, a4, a5, a6, a7, a8, a9, a10, a11, a12, a13, a14, a15, a16, a17, a18, a19, a20, a21, a22, a23, a24, a25, a26, a27⟩ := t
  obtain
    ⟨b1, b2, b3, b4, b5, b6, b7, b8, b9, b10, b11, b12, b13, b14, b15, b16, b17, b18, b19, b20, b21, b22, b23, b24, b25, b26, b27⟩ := s
  simp only [State.mk.injEq, true_and] at h
  obtain ⟨rfl, rfl, rfl, rfl, rfl, rfl, rfl, rfl, rfl, rfl, rfl, rfl, rfl, rfl, st, rfl, rfl, rfl, rfl, rfl, rfl, rfl, rfl,
    rfl⟩ := h
  obtain ⟨c1, c2, c3, c4, c5, c6, c7⟩ := a15
  obtain ⟨d1, d2, d3, d4, d5, d6, d7⟩ := b15
  simp only [Store.mk.injEq, and_true] at st
  obtain ⟨rfl, rfl, rfl⟩ := st
  exact ⟨⟨⟨⟨rfl, rfl, rfl, rfl, rfl, rfl, rfl, rfl⟩, ⟨rfl, rfl⟩, Link.Posted.refl _, fun _ => ⟨rfl, rfl, rfl⟩,
    fun _ h => h, id, id, id⟩, id⟩, rfl⟩

end State.Late

/-- What the sequencers and groups do is within an instant's frame, if R106 is kept. -/
theorem State.SeqOnly.late {s t : State} (h : SeqOnly s t) (o : s.Obeys → t.Obeys) : State.Late s t := by
  obtain ⟨rest, link, det, rec, groups, off⟩ := h
  obtain
    ⟨a1, a2, a3, a4, a5, a6, a7, a8, a9, a10, a11, a12, a13, a14, a15, a16, a17, a18, a19, a20, a21, a22, a23, a24, a25, a26, a27⟩ := t
  obtain
    ⟨b1, b2, b3, b4, b5, b6, b7, b8, b9, b10, b11, b12, b13, b14, b15, b16, b17, b18, b19, b20, b21, b22, b23, b24, b25, b26, b27⟩ := s
  simp only [State.mk.injEq] at rest
  obtain ⟨rfl, rfl, rfl, rfl, rfl, rfl, rfl, rfl, rfl, rfl, rfl, rfl, -, rfl, rfl, rfl, -, rfl, -, -, -, rfl, rfl, -, rfl, rfl,
    rfl⟩ := rest
  obtain ⟨d1, d2, d3, d4, d5, d6, d7⟩ := a13
  obtain ⟨e1, e2, e3, e4, e5, e6, e7⟩ := b13
  simp only [Detector.mk.injEq] at det
  obtain ⟨rfl, rfl, rfl, -, rfl, rfl, rfl⟩ := det
  refine ⟨⟨⟨⟨rfl, rfl, rfl, rfl, rfl, rfl, rfl, rfl⟩, ⟨rfl, rfl⟩, link, groups, off, id, id, o⟩, fun h => ?_⟩, rfl⟩
  have : d4.isSome = e4.isSome := by
    have := congrArg Option.isSome rec
    simpa using this
  rw [show (_ : Bool) = d4.isSome from rfl, this]
  exact h

open State (Late Within Frame)

/-! ## Sequencers and groups -/

theorem foldl_late {α : Type} {step : State → α → State} (h : ∀ a s, Late s (step s a)) (l : List α) (s : State) :
    Late s (l.foldl step s) :=
  foldl_rel Late.refl Late.trans h l s

theorem State.post_late (s : State) (r : Report) : Late s (s.post r) := (s.post_seqOnly r).late fun h => h.of_eq rfl rfl

theorem State.updateEntry_late (s : State) (f : Feeder) (c : Entry → Entry) : Late s (s.updateEntry f c) :=
  (s.updateEntry_seqOnly f c).late fun h => h.updateEntry f c

theorem State.release_late (s : State) (lv : Leave) (f : Feeder) (c : Cause) : Late s (s.release lv f c) :=
  (s.release_seqOnly lv f c).late fun h => h.release lv f c

theorem State.expire_late (s : State) (lv : Leave) (f : Feeder) : Late s (s.expire lv f) :=
  (s.expire_seqOnly lv f).late fun h => h.expire lv f

theorem State.settleGroups_late (s : State) (lv : Leave) : Late s (s.settleGroups lv) :=
  (s.settleGroups_seqOnly lv).late fun h => h.settleGroups lv

theorem State.takeRefusals_late (s : State) : Late s s.takeRefusals :=
  s.takeRefusals_seqOnly.late fun h => h.takeRefusals

theorem State.takeGroupRequests_late (s : State) : Late s s.takeGroupRequests :=
  s.takeGroupRequests_seqOnly.late fun h => h.takeGroupRequests

theorem State.tickSequencer_late (s : State) (now : Bool) (f : Feeder) : Late s (s.tickSequencer now f) :=
  (s.tickSequencer_seqOnly now f).late fun h => h.tickSequencer now f

theorem State.takeStatus_late (s : State) (lv : Leave) (f : Feeder) (st : ModuleStatus) (b : Option ModuleStatus) :
    Late s (s.takeStatus lv f st b) :=
  (s.takeStatus_seqOnly lv f st b).late fun h => h.takeStatus lv f st b

theorem State.takePortLost_late (s : State) (lv : Leave) (f : Feeder) : Late s (s.takePortLost lv f) :=
  (s.takePortLost_seqOnly lv f).late fun h => h.takePortLost lv f

theorem State.candidateGrant_late (s : State) (f : Feeder) (m : Mode) : Late s (s.candidateGrant f m) :=
  (s.candidateGrant_seqOnly f m).late fun h => h.candidateGrant f m

theorem State.participantGrant_late (s : State) (f : Feeder) (m : Mode) : Late s (s.participantGrant f m) :=
  (s.participantGrant_seqOnly f m).late fun h => h.participantGrant f m

theorem State.engageGroup_late (s : State) (g : GroupNo) (e : FeederSet) : Late s (s.engageGroup g e) :=
  (s.engageGroup_seqOnly g e).late fun h => h.of_eq rfl rfl

theorem State.starveGroup_late (s : State) (g : GroupNo) : Late s (s.starveGroup g) :=
  (s.starveGroup_seqOnly g).late fun h => h.starveGroup g

theorem State.groupNotNeeded_late (s : State) (g : GroupNo) : Late s (s.groupNotNeeded g) :=
  (s.groupNotNeeded_seqOnly g).late fun h => h.groupNotNeeded g

theorem State.groupEventEnd_late (s : State) (g : GroupNo) (e : EndCause) : Late s (s.groupEventEnd g e) :=
  (s.groupEventEnd_seqOnly g e).late fun h => h.groupEventEnd g e

theorem State.Obeys.holdTaken {s : State} (h : s.Obeys) (lv : Leave) (f : Feeder) : (s.holdTaken lv f).Obeys := by
  unfold State.holdTaken
  split
  · exact h.enterReady f
  · exact h.release lv f _
  · exact h.release lv f _
  all_goals exact h

theorem State.Obeys.holdFreed {s : State} (h : s.Obeys) (f : Feeder) : (s.holdFreed f).Obeys := by
  unfold State.holdFreed
  split
  · exact h.enterReady f
  · exact h

/-- A hold operation: one count moves, within 0..255, and the sequencer answers. -/
theorem State.hold_late (s : State) (lv : Leave) (f : Feeder) (op : HoldOp) : Late s (s.hold lv f op) := by
  have l : Late { s with holds := s.holds.set f (op.apply (s.holds.get f)) } (s.hold lv f op) := by
    refine (s.hold_seqOnly lv f op).late fun h => ?_
    unfold State.hold
    simp only
    split
    · exact h.holdTaken lv f
    · split
      · exact h.holdFreed f
      · exact h
  obtain ⟨⟨⟨fixed, classes, link, groups, offline, holds, table, -⟩, record⟩, measured⟩ := l
  refine ⟨⟨⟨fixed, classes, link, groups, offline, fun h => holds fun g => ?_, table, fun h => h.hold lv f op⟩, record⟩, measured⟩
  by_cases e : g = f
  · subst e; simpa using op.apply_le _ (h g)
  · simpa [Six.get_set_ne _ _ e] using h g

/-! ## The arbiter -/

theorem State.closeBudgets_late (s : State) : Late s s.closeBudgets := by
  unfold State.closeBudgets
  simp only
  refine Late.trans (foldl_late (fun f s => ?_) _ s) (Late.of_rest rfl)
  beta_reduce
  split
  · split
    · exact s.updateEntry_late f _
    · exact Late.refl s
  · exact Late.refl s

theorem State.releaseNotNeeded_late (s : State) (which : GroupNo → Bool) : Late s (s.releaseNotNeeded which) := by
  unfold State.releaseNotNeeded
  refine (foldl_late (fun f s => ?_) _ s).trans (foldl_late (fun g s => ?_) _ _)
  · beta_reduce
    unfold State.releaseUngrouped
    split
    · exact s.release_late .nothing f _
    · exact Late.refl s
  · beta_reduce
    split
    · exact foldl_late (fun f s => s.release_late .nothing f _) _ s
    · exact Late.refl s

/-- R143: everything the notices of releases do: a group told while ENGAGING or ACTIVE is IDLE, every other as it was, and
nothing else has moved. -/
theorem State.tellNotNeeded_eq (s : State) (which : GroupNo → Bool) :
    let told (g : GroupNo) (r : Group) : Group :=
      if which g = true ∧ (r.state = .engaging ∨ r.state = .active) then { r with state := .idle } else r
    s.tellNotNeeded which = { s with groups := Four.of fun g => told g (s.groups.get g) } := by
  intro told
  have one (g : GroupNo) (t : State) :
      (if which g then t.groupNotNeeded g else t) = t.setGroup g (told g (t.groups.get g)) := by
    have same : t.setGroup g (t.groups.get g) = t := by
      obtain ⟨⟩ := t; rename_i gs _ _ _ _ _ _ _; obtain ⟨⟩ := gs; cases g <;> rfl
    simp only [told, State.groupNotNeeded]
    split <;> split <;> simp_all
  simp only [State.tellNotNeeded, one]
  rfl
theorem State.tellNotNeeded_late (s : State) (which : GroupNo → Bool) : Late s (s.tellNotNeeded which) := by
  refine foldl_late (fun g s => ?_) _ s
  beta_reduce
  split
  · exact s.groupNotNeeded_late g
  · exact Late.refl s

theorem State.deliverStoodBy_late (s : State) (k : PointKind) (began : Four Group) (units : List UnitGrant) :
    Late s (s.deliverStoodBy k began units) := by
  unfold State.deliverStoodBy
  refine foldl_late (fun f s' => ?_) _ s
  beta_reduce
  split
  · exact s'.updateEntry_late f _
  · exact Late.refl s'

theorem State.deliverUnit_late (s : State) (u : UnitGrant) : Late s (s.deliverUnit u) := by
  unfold State.deliverUnit
  split
  · next m _ _ =>
    unfold State.deliverCandidate
    simp only
    have l := foldl_late (step := fun s f => (s.candidateGrant f m).updateEntry f fun e => e.engage m)
      (fun f s => (s.candidateGrant_late f m).trans (State.updateEntry_late _ f _)) u.feeders s
    split
    · exact l.trans (State.engageGroup_late _ _ _)
    · exact l
  · exact Late.refl s
  · exact foldl_late (fun f s => s.participantGrant_late f _) _ s
  · unfold State.deliverStarved
    simp only
    refine Late.trans ?_ (foldl_late (fun f s => s.release_late .nothing f _) _ _)
    split
    · exact s.starveGroup_late _
    · exact Late.refl s

theorem State.keepGrants_late (s : State) (k : PointKind) (units : List UnitGrant) :
    Late s ((s.setFlags k).keepGrants k units) :=
  Late.of_rest rfl

/-- R73: an allocation point, whatever its kind. -/
theorem State.allocate_late (s : State) (k : PointKind) (between : State → State) (hb : ∀ s, Late s (between s)) :
    Late s (s.allocate k between) := by
  unfold State.allocate
  simp only
  refine Late.trans (t := if k.isBoundary then s.releaseNotNeeded fun g => k.isBoundary && s.groupReleased g else s) ?_ ?_
  · split
    · exact s.releaseNotNeeded_late _
    · exact Late.refl s
  · refine Late.trans ?_ (foldl_late (fun u s => s.deliverUnit_late u) _ _)
    exact (((State.deliverStoodBy_late _ _ _ _).trans (State.keepGrants_late _ _ _)).trans (hb _)).trans
      (State.tellNotNeeded_late _ _)

/-! ## The sag detector -/

/-- The tracker's state, miss count and spacing count alone move. -/
theorem State.trackerTo_late (s : State) (t : Tracker) (c : TrackerCause)
    (h : (t.index, t.prevA, t.remembered, t.boundarySpacing, t.boundaryDeclared) =
      (s.tracker.index, s.tracker.prevA, s.tracker.remembered, s.tracker.boundarySpacing, s.tracker.boundaryDeclared)) :
    Late s (s.trackerTo t c) := by
  refine Late.trans (t := { s with tracker := t }) ⟨Within.of_measure rfl, ?_⟩ (State.post_late _ _)
  simp only [State.measured, Prod.mk.injEq] at h ⊢
  simp [h]

theorem State.openRecord_late (s : State) (c : OnsetCause) (k : Compensability) : Late s (s.openRecord c k) := by
  unfold State.openRecord
  refine Late.trans ?_ (State.post_late _ _)
  exact ⟨⟨⟨⟨rfl, rfl, rfl, rfl, rfl, rfl, rfl, rfl⟩, ⟨rfl, rfl⟩, Link.Posted.refl _, fun _ => ⟨rfl, rfl, rfl⟩,
    fun _ h => h, id, id, fun h => h.of_eq rfl rfl⟩, fun _ => rfl⟩, rfl⟩

theorem State.onset_late (s : State) (c : OnsetCause) (heard : Bool) (between : State → State)
    (hb : ∀ s, Late s (between s)) : Late s (s.onset c heard between) := by
  unfold State.onset
  simp only
  have l : Late s (if heard = true ∧ s.tracker.state = .locked then
      s.trackerTo s.tracker.requestHolding .eventOnset else s) := by
    split
    · next e => exact s.trackerTo_late _ _ (by simp [Tracker.requestHolding, e.2])
    · exact Late.refl s
  split
  · exact (l.trans (State.openRecord_late _ _ _)).trans (State.allocate_late _ _ _ hb)
  · exact l.trans (State.openRecord_late _ _ _)

theorem State.externalTrigger_late (s : State) : Late s s.externalTrigger := by
  unfold State.externalTrigger
  split
  · exact s.onset_late _ true id Late.refl
  · exact Late.refl s

/-- A change of nothing but the detector, whose table keeps its bound. -/
theorem State.detector_late (s : State) (d : Detector) (tb : s.detector.table.length ≤ 16 → d.table.length ≤ 16)
    (rc : s.detector.record.isSome = s.eventOpen → d.record.isSome = d.state.eventOpen) :
    Late s { s with detector := d } :=
  ⟨⟨⟨⟨rfl, rfl, rfl, rfl, rfl, rfl, rfl, rfl⟩, ⟨rfl, rfl⟩, Link.Posted.refl _, fun _ => ⟨rfl, rfl, rfl⟩,
    fun _ h => h, id, tb, fun h => h.of_eq rfl rfl⟩, rc⟩, rfl⟩

theorem State.addFacts_late (s : State) : Late s s.addFacts := by
  unfold State.addFacts
  split
  · next r e => exact s.detector_late _ id (fun h => by rw [e] at h; exact h)
  · exact Late.refl s

theorem State.updateMinima_late (s : State) : Late s s.updateMinima := by
  unfold State.updateMinima
  split
  · next r e => exact s.detector_late _ id (fun h => by rw [e] at h; exact h)
  · exact Late.refl s

theorem State.judge_late (s : State) : Late s s.judge := by
  unfold State.judge
  split
  · next r e => exact s.detector_late _ id (fun h => by rw [e] at h; exact h)
  · exact Late.refl s

theorem State.levelTest_late (s : State) : Late s s.levelTest := by
  unfold State.levelTest
  split
  · next e =>
    split
    · exact s.detector_late _ id (fun h => by simpa [State.eventOpen, DetectorState.eventOpen, e] using h)
    · exact Late.refl s
  · next e =>
    split
    · exact s.detector_late _ id (fun h => by simpa [State.eventOpen, DetectorState.eventOpen, e] using h)
    · exact Late.refl s
  · exact Late.refl s
  · exact Late.refl s

theorem State.countBoundary_late (s : State) : Late s s.countBoundary := by
  unfold State.countBoundary
  exact s.judge_late.trans (State.detector_late _ _ id id)

theorem appendRecord_length (table : List Record) (r : Record) (h : table.length ≤ 16) :
    (appendRecord table r).length ≤ 16 := by
  unfold appendRecord
  split
  · next c => simp [Config.recordCapacity] at c ⊢; omega
  · simp; omega

theorem State.endHolding_late (s : State) : Late s s.endHolding := by
  unfold State.endHolding
  split
  · next e => exact s.trackerTo_late _ _ (by simp [Tracker.requestLocked, e])
  · exact Late.refl s

/-- R28: the notices an end of an event gives before its record closes. -/
def State.notified (s : State) (e : EndCause) : State :=
  forGroups (fun g s => s.groupEventEnd g e) (forFeeders (fun f s => s.release .nothing f e.cause) (s.leaveEvent e))

/-- R28: what an end of an event does after its record has closed. -/
def State.settleEnd (s : State) : State := s.endHolding.loadRecharge.applyPendingBank.clearBarred.clearFlags

theorem State.endEvent_eq (s : State) (e : EndCause) : s.endEvent e = ((s.notified e).closeRecord e).settleEnd := rfl

theorem State.notified_seqOnly (s : State) (e : EndCause) : SeqOnly (s.leaveEvent e) (s.notified e) :=
  (foldl_rel SeqOnly.refl SeqOnly.trans (fun f s => s.release_seqOnly .nothing f _) _ _).trans
    (foldl_rel SeqOnly.refl SeqOnly.trans (fun g s => s.groupEventEnd_seqOnly g e) _ _)

theorem State.notified_late (s : State) (e : EndCause) : Late (s.leaveEvent e) (s.notified e) :=
  (foldl_late (fun f s => s.release_late .nothing f _) _ _).trans (foldl_late (fun g s => s.groupEventEnd_late g e) _ _)

theorem State.settleEnd_detector (s : State) : s.settleEnd.detector = s.detector := by
  unfold State.settleEnd State.endHolding
  split <;> rfl

theorem State.closeRecord_detector (s : State) (e : EndCause) :
    (s.closeRecord e).detector.record = none ∧ (s.closeRecord e).detector.state = s.detector.state := by
  unfold State.closeRecord
  split
  · exact ⟨rfl, rfl⟩
  · next h => exact ⟨h, rfl⟩

/-- R28: the end of an event leaves no open record and the detector in CLEAR or LOCKOUT. -/
theorem State.endEvent_closed (s : State) (e : EndCause) :
    (s.endEvent e).detector.record = none ∧ (s.endEvent e).eventOpen = false := by
  have lv : (s.leaveEvent e).detector.state.eventOpen = false := by cases e <;> rfl
  have st : (s.notified e).detector.state = (s.leaveEvent e).detector.state := by
    have d := congrArg Detector.state (s.notified_seqOnly e).detector
    exact d
  obtain ⟨a, b⟩ := (s.notified e).closeRecord_detector e
  unfold State.eventOpen
  rw [s.endEvent_eq, State.settleEnd_detector, a, b, st, lv]
  exact ⟨rfl, rfl⟩

theorem State.Obeys.ofSeq {s t : State} (h : s.Obeys) (a : t.holds = s.holds)
    (b : ∀ f, (t.seq.get f).state = (s.seq.get f).state) : t.Obeys := by
  intro f; rw [a, b f]; exact h f

theorem State.leaveEvent_frame (s : State) (e : EndCause) : Frame s (s.leaveEvent e) :=
  ⟨⟨rfl, rfl, rfl, rfl, rfl, rfl, rfl, rfl⟩, ⟨rfl, rfl⟩, Link.Posted.refl _, fun _ => ⟨rfl, rfl, rfl⟩,
    fun _ h => h, id, id, fun h => h.of_eq rfl rfl⟩

theorem State.closeRecord_frame (s : State) (e : EndCause) :
    Frame s (s.closeRecord e) ∧ (s.closeRecord e).measured = s.measured := by
  unfold State.closeRecord
  split
  · exact ⟨⟨⟨rfl, rfl, rfl, rfl, rfl, rfl, rfl, rfl⟩, ⟨rfl, rfl⟩, Link.post_posted _ _, fun _ => ⟨rfl, rfl, rfl⟩,
      fun _ h => h, id, fun h => appendRecord_length _ _ h, fun h => h.of_eq rfl rfl⟩, rfl⟩
  · exact ⟨Frame.refl s, rfl⟩

theorem State.settleEnd_late (s : State) : Late s s.settleEnd := by
  have k := s.endHolding_late
  have r (u : State) : Late u u.loadRecharge := Late.of_rest rfl
  have b (u : State) : Late u u.applyPendingBank :=
    ⟨⟨⟨⟨rfl, rfl, rfl, rfl, rfl, rfl, rfl, rfl⟩, ⟨rfl, rfl⟩, Link.Posted.refl _, fun _ => ⟨rfl, rfl, rfl⟩,
      fun _ h => h, id, id, fun h => h.of_eq rfl rfl⟩, id⟩, rfl⟩
  have c (u : State) : Late u u.clearBarred :=
    ⟨⟨⟨⟨rfl, rfl, rfl, rfl, rfl, rfl, rfl, rfl⟩, ⟨rfl, rfl⟩, Link.Posted.refl _, fun _ => ⟨rfl, rfl, rfl⟩,
      fun f h => by simpa [State.clearBarred] using h, id, id,
      fun h => h.ofSeq rfl fun f => by simp [State.clearBarred]⟩, id⟩, rfl⟩
  have d (u : State) : Late u u.clearFlags := Late.of_rest rfl
  exact (((k.trans (r _)).trans (b _)).trans (c _)).trans (d _)

/-- R28: the end of an event, whatever its cause. -/
theorem State.endEvent_late (s : State) (e : EndCause) : Late s (s.endEvent e) := by
  have l2 := s.notified_late e
  have l3 := (s.notified e).closeRecord_frame e
  have l4 := ((s.notified e).closeRecord e).settleEnd_late
  refine ⟨⟨(((s.leaveEvent_frame e).trans l2.within.frame).trans l3.1).trans l4.within.frame, fun _ => ?_⟩, ?_⟩
  · obtain ⟨a, b⟩ := s.endEvent_closed e
    rw [a, b]; rfl
  · exact l4.measured.trans (l3.2.trans l2.measured)

theorem State.boundaryStep_late (s : State) (stepped between : State → State) (hs : ∀ s, Late s (stepped s))
    (hb : ∀ s, Late s (between s)) : Late s (s.boundaryStep stepped between) := by
  unfold State.boundaryStep
  simp only
  have l := ((s.addFacts_late.trans (State.closeBudgets_late _)).trans (State.countBoundary_late _)).trans (hs _)
  split
  · exact l.trans (State.endEvent_late _ _)
  · split
    · exact l.trans (State.allocate_late _ _ _ hb)
    · exact l

theorem State.clearInjected_late (s : State) : Late s s.clearInjected :=
  ⟨⟨⟨⟨rfl, rfl, rfl, rfl, rfl, rfl, rfl, rfl⟩, ⟨rfl, rfl⟩, Link.Posted.refl _, fun _ => ⟨rfl, rfl, rfl⟩,
    fun f h => by simpa [State.clearInjected] using h, id, id,
    fun h => h.ofSeq rfl fun f => by simp [State.clearInjected]⟩, id⟩, rfl⟩

theorem State.lockoutStep_late (s : State) (h : s.detector.state = .lockout) : Late s s.lockoutStep := by
  unfold State.lockoutStep
  split
  · exact s.detector_late _ id (fun k => by simpa [State.eventOpen, DetectorState.eventOpen, h] using k)
  · exact s.detector_late _ id id

/-! ## Signal lines -/

theorem State.switchBank_late (s : State) (b : Bank) : Late s (s.switchBank b) := by
  unfold State.switchBank
  split <;>
    exact ⟨⟨⟨⟨rfl, rfl, rfl, rfl, rfl, rfl, rfl, rfl⟩, ⟨rfl, rfl⟩, Link.Posted.refl _, fun _ => ⟨rfl, rfl, rfl⟩,
      fun _ h => h, id, id, fun h => h.of_eq rfl rfl⟩, id⟩, rfl⟩

/-- R153, R156 to R159: the acceptance of a line's level. -/
theorem State.acceptLine_late (s : State) (weighed : Bool) (lv : Leave) (l : Line) : Late s (s.acceptLine weighed lv l) := by
  unfold State.acceptLine
  simp only
  split
  · have k (x : LineState) : Late s (s.setLine l x) := Late.of_rest rfl
    split
    · split
      · exact (k _).trans (State.hold_late _ _ _ _)
      · exact k _
    · split
      · exact (k _).trans (State.externalTrigger_late _)
      · exact k _
    · split
      · exact (k _).trans (State.switchBank_late _ _)
      · exact k _
    · exact k _
  · exact Late.refl s

theorem State.evaluateOutputs_late (s : State) (which : EventCode → Bool) : Late s (s.evaluateOutputs which) :=
  Late.of_rest rfl

theorem State.readLines_late (s : State) (levels : Twelve Bool) : Late s (s.readLines levels) := Late.of_rest rfl

/-! ## The stages of an instant -/

theorem State.takePlaced_late (s : State) (o : Orders) (p : Place) : Late s (s.takePlaced o p) := by
  unfold State.takePlaced
  refine (foldl_late (fun l s => ?_) _ s).trans (foldl_late (fun f s => ?_) _ _)
  · beta_reduce
    split
    · exact s.acceptLine_late _ _ l
    · exact Late.refl s
  · beta_reduce
    split
    · exact s.expire_late _ f
    · exact Late.refl s

theorem State.clearMark_late (s : State) : Late s { s with detector := { s.detector with clearedNow := false } } :=
  s.detector_late _ id id

theorem State.settleTimers_late (s : State) (kept : Feeder → Bool) : Late s (s.settleTimers kept) := by
  have k (f : Feeder) : ((s.settleTimers kept).seq.get f).state = (s.seq.get f).state := by
    simp only [State.settleTimers, Six.get_of]
    split <;> rfl
  exact ⟨⟨⟨⟨rfl, rfl, rfl, rfl, rfl, rfl, rfl, rfl⟩, ⟨rfl, rfl⟩, Link.Posted.refl _, fun _ => ⟨rfl, rfl, rfl⟩,
    fun f h => (k f).trans h, id, id, fun h => h.ofSeq rfl fun f => k f⟩, id⟩, rfl⟩

/-- A change of the link that posting reports could make. -/
theorem State.withLink_late (s : State) {l : Link} (h : Link.Posted s.link l) : Late s { s with link := l } :=
  ⟨⟨⟨⟨rfl, rfl, rfl, rfl, rfl, rfl, rfl, rfl⟩, ⟨rfl, rfl⟩, h, fun _ => ⟨rfl, rfl, rfl⟩,
    fun _ h => h, id, id, fun h => h.of_eq rfl rfl⟩, id⟩, rfl⟩

theorem State.settleChoice_late (s : State) (left : Bool) : Late s (s.settleChoice left) := by
  unfold State.settleChoice
  split
  · exact s.withLink_late (s.settleChoice_posted true)
  · exact s.withLink_late s.link.closeChoice_posted

/-- R177: an event leaves what it leaves whether or not the transmitter's choice waits for a reply. -/
theorem State.asEvent_late (s : State) (left : Bool) (event : State → State) (h : ∀ s, Late s (event s)) :
    Late s (s.asEvent left event) := by
  unfold State.asEvent
  refine Late.trans (t := if left then s.openChoice else s) ?_ ((h _).trans (State.settleChoice_late _ _))
  split
  · exact s.settleChoice_late true
  · exact Late.refl s

/-- A step taken or not. -/
theorem State.Late.ite {s t u : State} {c : Prop} [Decidable c] (a : Late s t) (b : Late s u) :
    Late s (if c then t else u) := by
  split
  · exact a
  · exact b

/-- R177: events of a past instant leave what they leave whether or not a choice of the present one is open. -/
theorem State.beforeChoice_late (s : State) (left : Bool) (event : State → State) (h : ∀ s, Late s (event s)) :
    Late s (s.beforeChoice left event) := by
  unfold State.beforeChoice
  split
  · exact ((s.withLink_late s.link.withoutWaiting_posted).trans (h _)).trans
      (State.withLink_late _ (Link.resume_posted _ _))
  · exact (s.withLink_late s.link.closeChoice_posted).trans (h _)

theorem State.takeLeftOver_late (s : State) (o : Orders) : Late s (s.takeLeftOver o) := by
  have e (s : State) : Late s (forFeeders (fun f s => if s.anyExpiryDue f then s.expire .nothing f else s) s) :=
    foldl_late (fun f s => Late.ite (s.expire_late .nothing f) (Late.refl s)) _ s
  have a (s : State) : Late s (forLines (fun l s => s.acceptLine false .nothing l) s) :=
    foldl_late (fun l s => s.acceptLine_late false .nothing l) _ s
  have g (s : State) : Late s (if o.refusals = .atOnce then s.takeRefusals else s) :=
    Late.ite s.takeRefusals_late (Late.refl s)
  have q (s : State) : Late s (if o.requests = .atOnce then s.takeGroupRequests else s) :=
    Late.ite s.takeGroupRequests_late (Late.refl s)
  unfold State.takeLeftOver
  exact ((((g s).trans (q _)).trans (e _)).trans (a _)).trans (State.settleTimers_late _ _)

theorem State.closeInstant_late (s : State) (o : Orders) : Late s (s.closeInstant o) :=
  (s.beforeChoice_late _ _ fun s => s.takeLeftOver_late o).trans (State.clearMark_late _)

theorem State.postStore_late (s : State) (c : Option StoreCause) : Late s (s.postStore c) := by
  unfold State.postStore
  split
  · exact s.post_late _
  · exact Late.refl s

theorem State.storeStates_late (s : State) (w o c : Bool) :
    Late s { s with store := { s.store with warning := w, overVoltage := o, charger := c } } :=
  Late.of_rest rfl

theorem State.updateStore_late (s : State) (v : Nat) : Late s (s.updateStore v) := by
  unfold State.updateStore
  exact ((s.storeStates_late _ _ _).trans (State.postStore_late _ _)).trans (State.postStore_late _ _)

theorem State.sendRecord_late (s : State) (f : Feeder) (bus : Tri Int) : Late s (s.sendRecord f bus) := by
  have g (h : Feeder) : ((s.sendRecord f bus).gen.get h).draw = (s.gen.get h).draw ∧
      ((s.sendRecord f bus).gen.get h).satCount = (s.gen.get h).satCount ∧
      ((s.sendRecord f bus).gen.get h).closedW = (s.gen.get h).closedW ∧
      ((s.sendRecord f bus).gen.get h).closedQ = (s.gen.get h).closedQ ∧
      ((s.sendRecord f bus).gen.get h).closedSat = (s.gen.get h).closedSat := by
    by_cases e : h = f
    · subst e; simp [State.sendRecord]
    · simp [State.sendRecord, Six.get_set_ne _ _ e]
  have k : (fun h => (((s.sendRecord f bus).gen.get h).draw, ((s.sendRecord f bus).gen.get h).satCount,
      ((s.sendRecord f bus).gen.get h).closedW, ((s.sendRecord f bus).gen.get h).closedQ,
      ((s.sendRecord f bus).gen.get h).closedSat)) =
      fun h => ((s.gen.get h).draw, (s.gen.get h).satCount, (s.gen.get h).closedW, (s.gen.get h).closedQ,
        (s.gen.get h).closedSat) := by
    funext h
    obtain ⟨a, b, c, d, e⟩ := g h
    rw [a, b, c, d, e]
  refine ⟨Within.of_measure rfl, ?_⟩
  unfold State.measured
  rw [k]
  rfl

/-- The assembly of records moves the generators' references and the ports' records, and nothing else. -/
theorem State.sendRecords_keeps (s : State) (bus : Tri Int) (which : Feeder → Bool) :
    (s.sendRecords bus which).detector = s.detector ∧ (s.sendRecords bus which).seq = s.seq ∧
      (s.sendRecords bus which).groups = s.groups ∧ (s.sendRecords bus which).link = s.link := by
  let R (a b : State) : Prop := b.detector = a.detector ∧ b.seq = a.seq ∧ b.groups = a.groups ∧ b.link = a.link
  have tr {a b c : State} (h : R a b) (k : R b c) : R a c :=
    ⟨k.1.trans h.1, k.2.1.trans h.2.1, k.2.2.1.trans h.2.2.1, k.2.2.2.trans h.2.2.2⟩
  refine foldl_rel (R := R) (fun _ => ⟨rfl, rfl, rfl, rfl⟩) tr (fun f s => ?_) _ s
  beta_reduce
  split
  · unfold State.sendIfSending
    split <;> exact ⟨rfl, rfl, rfl, rfl⟩
  · exact ⟨rfl, rfl, rfl, rfl⟩

theorem State.sendRecords_late (s : State) (bus : Tri Int) (which : Feeder → Bool) :
    Late s (s.sendRecords bus which) := by
  unfold State.sendRecords
  refine foldl_late (fun f s => ?_) _ s
  beta_reduce
  split
  · unfold State.sendIfSending
    split
    · exact s.sendRecord_late f bus
    · exact Late.of_rest rfl
  · exact Late.refl s

theorem State.ticks_late (s : State) (o : Orders) :
    Late s (forFeeders (fun f s => s.tickSequencer (o.started.get f) f) s) :=
  foldl_late (fun f s => s.tickSequencer_late _ f) _ s

theorem State.adopt_within (s : State) (w : Bool) : Within s (s.adopt w) := Within.of_measure rfl

theorem State.takeSample_within (s : State) (x : SampleInput) (o : Orders) : Within s (s.takeSample x o) := by
  unfold State.takeSample
  refine ((s.adopt_within o.writtenNow).trans (State.ticks_late (s.adopt o.writtenNow) o).within).trans ?_
  generalize forFeeders (fun f s => s.tickSequencer (o.started.get f) f) (s.adopt o.writtenNow) = u
  exact Within.of_measure rfl

theorem State.measure_within (s : State) (x : SampleSet) : Within s (s.measure x) := Within.of_measure rfl

/-- A step taken or not. -/
theorem State.Within.ite {s t u : State} {c : Prop} [Decidable c] (a : Within s t) (b : Within s u) :
    Within s (if c then t else u) := by
  split
  · exact a
  · exact b

theorem State.evaluateAt_late (s : State) (o : Orders) (p : Stage) : Late s (s.evaluateAt o p) :=
  s.evaluateOutputs_late _

/-- The instant up to the tracker's handling. -/
theorem State.prepare_within (s : State) (x : SampleInput) (o : Orders) : Within s (s.prepare x o) := by
  unfold State.prepare
  simp only
  have l := (((s.closeInstant_late o).within.trans (State.takeSample_within _ x o)).trans
    (State.evaluateAt_late _ o .start).within).trans (State.measure_within _ (SampleSet.ofInput x))
  exact Within.ite (l.trans (State.updateStore_late _ _).within) l

theorem State.track_within (s : State) (x : SampleSet) (o : Orders) : Within s (s.track x o) := by
  have m (c : Comparator) (t : Tracker) : Within s { s with comparator := c, tracker := t } := Within.of_measure rfl
  unfold State.track State.trackerTo
  simp only
  split
  · exact (m _ _).trans (State.post_late _ _).within
  · split
    · exact (m _ _).trans (State.post_late _ _).within
    · split
      · exact (m _ _).trans (State.post_late _ _).within
      · exact m _ _

theorem State.closeHalfCycle_within (s : State) (n : Nat) : Within s (s.closeHalfCycle n) := Within.of_measure rfl

theorem State.recordsAt_late (s : State) (x : SampleInput) (o : Orders) (p : RecordPlace) :
    Late s (s.recordsAt x o p) :=
  s.sendRecords_late _ _

theorem State.refusalsBetween_late (s : State) (o : Orders) : Late s (s.refusalsBetween o) :=
  Late.ite s.takeRefusals_late (Late.refl s)

/-- R21 to R28: the sag detector's handling of an instant. -/
theorem State.detect_late (s : State) (x : SampleInput) (o : Orders) (boundary external heard : Bool) :
    Late s (s.detect x o boundary external heard) := by
  have last (u v : State) (h : Late u v) : Late u (if boundary then v.clearInjected else v) :=
    Late.ite (h.trans (State.clearInjected_late _)) h
  have st (u : State) : Late u (u.recordsAt x o .stepped) := u.recordsAt_late x o _
  have bt (u : State) : Late u (u.refusalsBetween o) := u.refusalsBetween_late o
  have opened (u : State) : Late u (if boundary then u.updateMinima.levelTest.boundaryStep
      (fun s => s.recordsAt x o .stepped) (fun s => s.refusalsBetween o)
      else State.recordsAt u.updateMinima.levelTest x o .stepped) :=
    Late.ite ((u.updateMinima_late.trans (State.levelTest_late _)).trans (State.boundaryStep_late _ _ _ st bt))
      ((u.updateMinima_late.trans (State.levelTest_late _)).trans (st _))
  unfold State.detect
  simp only
  refine last _ _ ?_
  split
  · split
    · exact (st s).trans (State.onset_late _ _ _ _ bt)
    · exact st s
  · exact opened s
  · exact opened s
  · next h =>
    refine Late.ite ((st s).trans (State.lockoutStep_late _ ?_)) (st s)
    exact (congrArg Detector.state (s.sendRecords_keeps _ _).1).trans h

theorem State.finish_late (s : State) (x : SampleInput) (o : Orders) : Late s (s.finish x o) := by
  unfold State.finish
  simp only
  have l := (((s.settleGroups_late o.leaveLate).trans (State.evaluateAt_late _ o .detected)).trans
    (State.takePlaced_late _ o .middle)).trans (State.recordsAt_late _ x o .last)
  have l2 := Late.ite (c := o.storeEarly = true) l (l.trans (State.updateStore_late _ (SampleSet.ofInput x).store))
  exact ((((l2.trans (State.evaluateAt_late _ o .stored)).trans (State.takePlaced_late _ o .last)).trans
    (State.evaluateAt_late _ o .last)).trans (State.settleTimers_late _ _)).trans (State.settleChoice_late _ _)

theorem State.closing_within (s : State) (x : SampleInput) (o : Orders) (n : Option Nat) : Within s (s.closing x o n) := by
  have k (u : State) : Within u (((((u.evaluateAt o .tracked).recordsAt x o .first).takePlaced o .first).recordsAt x o
      .placed).evaluateAt o .placed) :=
    (((((u.evaluateAt_late o .tracked).trans (State.recordsAt_late _ x o .first)).trans
      (State.takePlaced_late _ o .first)).trans (State.recordsAt_late _ x o .placed)).trans
      (State.evaluateAt_late _ o .placed)).within
  unfold State.closing
  simp only
  split
  · exact (s.closeHalfCycle_within _).trans (k _)
  · exact k s

theorem State.atDetector_within (s : State) (x : SampleInput) (o : Orders) : Within s (s.atDetector x o) := by
  unfold State.atDetector State.tracked
  exact ((s.prepare_within x o).trans (State.track_within _ (SampleSet.ofInput x) o)).trans (State.closing_within _ x o _)

/-- One sample instant, whole. -/
theorem State.instant_within (s : State) (x : SampleInput) (o : Orders) : Within s (s.instant x o) := by
  unfold State.instant
  exact ((s.atDetector_within x o).trans (State.detect_late _ _ _ _ _ _).within).trans (State.finish_late _ x o).within

/-- What the detector and the stages after it find measured at an instant is what the instant leaves measured. -/
theorem State.instant_measured (s : State) (x : SampleInput) (o : Orders) :
    (s.instant x o).measured = (s.atDetector x o).measured := by
  unfold State.instant
  exact (State.finish_late _ x o).measured.trans (State.detect_late _ _ _ _ _ _).measured

/-! ## Grant lists and departures -/

@[simp] theorem Claim.entry_claim (c : Claim) (g : Grant) : (c.entry g).claim = c := rfl
@[simp] theorem Claim.entry_grant (c : Claim) (g : Grant) : (c.entry g).grant = g := rfl
@[simp] theorem Claim.entry_members (c : Claim) (g : Grant) : (c.entry g).members = c.members := rfl
@[simp] theorem Claim.entry_quanta (c : Claim) (g : Grant) : (c.entry g).quanta = c.granted g := rfl

/-- R85: a grant list read back as claims and grants is the division it was formed from. -/
theorem State.grantList_divides (s : State) (k : PointKind) (began : Four Group) (released : GroupNo → Bool) :
    (s.grantList k began released).map (fun u => (u.claim, u.grant)) =
      divide s.globals.allocPolicy s.globals.reserve s.store.quanta (s.claims k began released) := by
  simp [State.grantList, Function.comp_def]

/-- R74, R105: what leaves engagement was engaged. -/
theorem State.Departs.engaged {s : State} {f : Feeder} {lv : Leave} {c : Instr} {a : AbandonCause}
    (h : s.Departs f lv c a) : s.participant f = true := by
  cases h <;> first | assumption | simp_all [State.participant, FeederState.engaged]

end Sys2Proof.Machine
end

