-- ==== Sys2Proof/Laws/Memory.lean ====
section
/-! SUPPORT. The image memory: every operation keeps the canonical form and the 4096 bytes, a byte written is read back,
and every other byte reads as before. -/

namespace Sys2Proof.Machine

open Sys2Proof

/-! ## Bounds -/

theorem memAbove_iff (n : Nat) (m : List Host.Cell) : memAbove n m = true ↔ ∀ c ∈ m, n < c.1 := by simp [memAbove]

theorem memAbove_mono {a b : Nat} (h : a ≤ b) {m : List Host.Cell} (k : memAbove b m = true) : memAbove a m = true := by
  rw [memAbove_iff] at *
  exact fun c i => lt_of_le_of_lt h (k c i)

/-- A write adds no address but its own. -/
theorem memWrite_mem {m : List Host.Cell} {a : Nat} {v : Byte} {c : Host.Cell} (h : c ∈ memWrite m a v) :
    c ∈ m ∨ c.1 = a := by
  induction m with
  | nil =>
    unfold memWrite at h
    split at h
    · exact .inl h
    · simp at h; exact .inr (by rw [h])
  | cons d rest ih =>
    obtain ⟨k, w⟩ := d
    unfold memWrite at h
    split at h
    · split at h
      · exact .inl h
      · rcases List.mem_cons.mp h with h | h
        · exact .inr (by rw [h])
        · exact .inl h
    · split at h
      · split at h
        · exact .inl (List.mem_cons_of_mem _ h)
        · rcases List.mem_cons.mp h with h | h
          · exact .inr (by rw [h])
          · exact .inl (List.mem_cons_of_mem _ h)
      · rcases List.mem_cons.mp h with h | h
        · exact .inl (by rw [h]; exact List.mem_cons_self)
        · rcases ih h with k | k
          · exact .inl (List.mem_cons_of_mem _ k)
          · exact .inr k

/-! ## The canonical form -/

theorem memWf_cons {a : Nat} {b : Byte} {rest : List Host.Cell} :
    memWf ((a, b) :: rest) = true ↔ memAbove a rest = true ∧ b ≠ Config.imageDefault ∧ memWf rest = true := by
  simp [memWf, and_assoc]

/-- A write keeps the canonical form. -/
theorem memWrite_wf {m : List Host.Cell} (h : memWf m = true) (a : Nat) (v : Byte) : memWf (memWrite m a v) = true := by
  induction m with
  | nil =>
    unfold memWrite
    split
    · rfl
    · next e => simp [memWf, memAbove, e]
  | cons d rest ih =>
    obtain ⟨k, w⟩ := d
    obtain ⟨hk, hw, hr⟩ := memWf_cons.mp h
    unfold memWrite
    split
    · next lt =>
      split
      · exact h
      · next e =>
        refine memWf_cons.mpr ⟨?_, e, h⟩
        rw [memAbove_iff] at hk ⊢
        intro c i
        rcases List.mem_cons.mp i with i | i
        · rw [i]; exact lt
        · exact lt.trans (hk c i)
    · next nlt =>
      split
      · next e =>
        subst e
        split
        · exact hr
        · next e => exact memWf_cons.mpr ⟨hk, e, hr⟩
      · next ne =>
        refine memWf_cons.mpr ⟨?_, hw, ih hr⟩
        rw [memAbove_iff] at hk ⊢
        intro c i
        rcases memWrite_mem i with i | i
        · exact hk c i
        · omega

/-! ## Reading -/

theorem memRead_of_above {m : List Host.Cell} {n a : Nat} (h : memAbove n m = true) (k : a ≤ n) :
    memRead m a = Config.imageDefault := by
  induction m with
  | nil => rfl
  | cons d rest ih =>
    rw [memAbove_iff] at h
    have := h d List.mem_cons_self
    rw [memRead, if_neg (by omega)]
    exact ih ((memAbove_iff _ _).mpr fun c i => h c (List.mem_cons_of_mem _ i))

/-- A byte written is read back. -/
theorem memRead_memWrite_self {m : List Host.Cell} (h : memWf m = true) (a : Nat) (v : Byte) :
    memRead (memWrite m a v) a = v := by
  induction m with
  | nil =>
    unfold memWrite
    split
    · next e => rw [memRead, e]
    · simp [memRead]
  | cons d rest ih =>
    obtain ⟨k, w⟩ := d
    obtain ⟨hk, hw, hr⟩ := memWf_cons.mp h
    unfold memWrite
    split
    · next lt =>
      split
      · next e =>
        rw [e, memRead, if_neg (by omega)]
        exact memRead_of_above hk (by omega)
      · simp [memRead]
    · split
      · next e =>
        subst e
        split
        · next e => rw [e]; exact memRead_of_above hk (le_refl _)
        · simp [memRead]
      · next ne =>
        rw [memRead, if_neg (fun e => ne e.symm)]
        exact ih hr

/-- Every other byte reads as before. -/
theorem memRead_memWrite_ne (m : List Host.Cell) {a x : Nat} (v : Byte) (ne : x ≠ a) (h : memWf m = true) :
    memRead (memWrite m a v) x = memRead m x := by
  induction m with
  | nil =>
    unfold memWrite
    split
    · rfl
    · simp [memRead, ne.symm]
  | cons d rest ih =>
    obtain ⟨k, w⟩ := d
    obtain ⟨hk, hw, hr⟩ := memWf_cons.mp h
    unfold memWrite
    split
    · split
      · rfl
      · rw [memRead, if_neg ne.symm]
    · split
      · next e =>
        subst e
        split
        · rw [memRead, if_neg ne.symm]
        · rw [memRead, if_neg ne.symm, memRead, if_neg ne.symm]
      · by_cases c : k = x
        · simp [memRead, c]
        · rw [memRead, memRead, if_neg c, if_neg c]
          exact ih hr

/-! ## Runs of bytes -/

/-- The form that `State.Sound` keeps of a memory: canonical, and within the 4096 bytes. -/
def memGood (m : List Host.Cell) : Prop := memWf m = true ∧ ∀ c ∈ m, c.1 < Config.imageSize

theorem memGood_nil : memGood [] := ⟨rfl, by simp⟩

theorem memGood.write {m : List Host.Cell} (h : memGood m) {a : Nat} (v : Byte) (k : a < Config.imageSize) :
    memGood (memWrite m a v) :=
  ⟨memWrite_wf h.1 a v, fun c i => by
    rcases memWrite_mem i with i | i
    · exact h.2 c i
    · omega⟩

theorem memGood.store {m : List Host.Cell} (h : memGood m) (offset : Nat) (bytes : List Byte) :
    memGood (memStore m offset bytes) := by
  induction bytes generalizing m offset with
  | nil => exact h
  | cons b rest ih =>
    unfold memStore
    split
    · next c => exact ih (h.write b c) (offset + 1)
    · exact ih h (offset + 1)

theorem memGood.change {m : List Host.Cell} (h : memGood m) (changed : Changed) : memGood (memChange m changed) := by
  unfold memChange
  induction changed generalizing m with
  | nil => exact h
  | cons c rest ih =>
    rw [List.foldl_cons]
    split
    · next k => exact ih (h.write c.2 k)
    · exact ih h

/-- A run of bytes stored leaves every byte outside it as before. -/
theorem memRead_memStore_outside {m : List Host.Cell} (h : memWf m = true) (offset : Nat) (bytes : List Byte) (x : Nat)
    (out : x < offset ∨ offset + bytes.length ≤ x) : memRead (memStore m offset bytes) x = memRead m x := by
  induction bytes generalizing m offset with
  | nil => rfl
  | cons b rest ih =>
    simp only [List.length_cons] at out
    unfold memStore
    split
    · rw [ih (memWrite_wf h _ _) (offset + 1) (by omega), memRead_memWrite_ne m b (by omega) h]
    · exact ih h (offset + 1) (by omega)

/-- Each byte of a run stored within the memory is read back. -/
theorem memRead_memStore_inside {m : List Host.Cell} (h : memWf m = true) (offset : Nat) (bytes : List Byte)
    (fits : offset + bytes.length ≤ Config.imageSize) (i : Nat) (lt : i < bytes.length) :
    memRead (memStore m offset bytes) (offset + i) = bytes[i] := by
  induction bytes generalizing m offset i with
  | nil => simp at lt
  | cons b rest ih =>
    simp only [List.length_cons] at fits lt
    unfold memStore
    rw [if_pos (by omega)]
    cases i with
    | zero =>
      rw [Nat.add_zero, memRead_memStore_outside (memWrite_wf h _ _) _ _ _ (.inl (by omega))]
      exact memRead_memWrite_self h offset b
    | succ j =>
      have := ih (memWrite_wf h offset b) (offset + 1) (by omega) j (by omega)
      rw [show offset + (j + 1) = offset + 1 + j by omega, this]
      rfl

@[simp] theorem memLoad_length (m : List Host.Cell) (offset n : Nat) : (memLoad m offset n).length = n := by
  induction n generalizing offset with
  | zero => rfl
  | succ k ih => simp [memLoad, ih]

/-- A run of bytes stored within the memory is loaded back whole. -/
theorem memLoad_memStore {m : List Host.Cell} (h : memWf m = true) (offset : Nat) (bytes : List Byte)
    (fits : offset + bytes.length ≤ Config.imageSize) : memLoad (memStore m offset bytes) offset bytes.length = bytes := by
  induction bytes generalizing m offset with
  | nil => rfl
  | cons b rest ih =>
    simp only [List.length_cons] at fits
    unfold memStore
    rw [if_pos (by omega), List.length_cons, memLoad, ih (memWrite_wf h _ _) (offset + 1) (by omega),
      memRead_memStore_outside (memWrite_wf h _ _) _ _ _ (.inl (by omega)), memRead_memWrite_self h]

/-- A byte outside the changed ones reads as before. -/
theorem memRead_memChange_outside {m : List Host.Cell} (h : memWf m = true) (changed : Changed) (x : Nat)
    (out : ∀ c ∈ changed, c.1 ≠ x) : memRead (memChange m changed) x = memRead m x := by
  unfold memChange
  induction changed generalizing m with
  | nil => rfl
  | cons c rest ih =>
    have o := out c List.mem_cons_self
    have r : ∀ d ∈ rest, d.1 ≠ x := fun d i => out d (List.mem_cons_of_mem _ i)
    rw [List.foldl_cons]
    split
    · rw [ih (memWrite_wf h _ _) r, memRead_memWrite_ne m _ (Ne.symm o) h]
    · exact ih h r

/-! ## The states that carry a memory -/

theorem State.reset_memGood : memGood State.reset.image := memGood_nil

theorem State.stopWrite_memGood {s : State} (h : memGood s.image) (offset : Nat) (bytes : List Byte) (written : Nat) :
    memGood (s.stopWrite offset bytes written).image := by
  unfold State.stopWrite
  simp only
  split
  · exact (h.store _ _).store _ _
  · exact h.store _ _

end Sys2Proof.Machine
end

