-- ==== Sys2Proof/Laws/Kept.lean ====
section
/-! SUPPORT. What a request's own rule, a port and the loader can do to the facts every run keeps (`State.Sound`,
`State.HoldsObeyed`). -/

namespace Sys2Proof.Machine

open Sys2Proof
open State (Late Within Frame)

/-! ## Inside a sample instant -/

theorem State.Sound.of_within {s t : State} (h : s.Sound) (w : Within s t) : t.Sound := by
  obtain ⟨fr, rec⟩ := w
  obtain ⟨e1, e2, e3, e4, e5, e6, e7, e8⟩ := fr.fixed
  refine ⟨by rw [e6]; exact h.memory, fr.link.reports h.reports, ⟨fr.link.replies.trans h.replies.1, fun o => ?_⟩,
    fr.table h.table, fr.holds h.holds, by rw [e4]; exact h.settings, fun c => by rw [fr.classes.1]; exact h.classes c,
    fun g k f a b => ?_, rec h.record⟩
  · exact fr.link.replies.trans (h.replies.2 (by simpa [State.replyOwed, fr.link.service] using o))
  · rw [(fr.groups g).1] at a
    rw [(fr.groups k).1] at b
    exact h.groups g k f a b

theorem State.HoldsObeyed.obeys {s : State} (h : s.HoldsObeyed) : s.Obeys := fun f => ⟨h.free f, h.held f⟩

theorem State.HoldsObeyed.of_within {s t : State} (h : s.HoldsObeyed) (w : Within s t) : t.HoldsObeyed := by
  have o := w.frame.obeys h.obeys
  obtain ⟨e1, e2, e3, -⟩ := w.frame.fixed
  exact ⟨fun f => (o f).1, fun f => (o f).2, fun k f => w.frame.offline f (h.offline (by rw [← e3]; exact k) f),
    fun k => by rw [e3] at *; rw [e1] at k; exact h.loading k⟩

/-- The two together. -/
def State.Kept (s : State) : Prop := s.Sound ∧ s.HoldsObeyed

theorem State.Kept.of_within {s t : State} (h : s.Kept) (w : Within s t) : t.Kept := ⟨h.1.of_within w, h.2.of_within w⟩

/-! ## Ports -/

theorem State.setPort_late (s : State) (f : Feeder) (p : Port) : Late s (s.setPort f p) := Late.of_rest rfl

theorem State.postPort_late (s : State) (f : Feeder) (c : PortCause) : Late s (s.postPort f c) := s.post_late _

theorem State.reportChange_late (s : State) (f : Feeder) (b : PortState) : Late s (s.reportChange f b) := by
  unfold State.reportChange
  split
  · exact s.postPort_late f _
  · exact Late.refl s

theorem State.reportDerate_late (s : State) (f : Feeder) (b : Bool) : Late s (s.reportDerate f b) := by
  unfold State.reportDerate
  simp only
  split
  · exact Late.refl s
  · exact s.postPort_late f _

/-- R119 to R126: the examination of a slot. -/
theorem State.examine_late (s : State) (lv : Leave) (f : Feeder) (slot : Slot) : Late s (s.examine lv f slot) := by
  unfold State.examine
  split
  · unfold State.goodSlot
    exact ((((s.setPort_late f _).trans (State.takeStatus_late _ lv f _ _)).trans (State.setPort_late _ f _)).trans
      (State.reportChange_late _ f _)).trans (State.reportDerate_late _ f _)
  · unfold State.emptySlot
    simp only
    have l := (s.setPort_late f (s.port.get f).countMiss).trans (State.reportChange_late _ f (s.port.get f).state)
    exact Late.ite (l.trans (State.takePortLost_late _ lv f)) l

theorem State.takeDown_late (s : State) (f : Feeder) : Late s (s.takeDown f) := by
  unfold State.takeDown
  simp only
  have l (p : Port) := (s.setPort_late f p).trans (State.postPort_late _ f .down)
  exact Late.ite (Late.refl s) (Late.ite ((l _).trans (State.postPort_late _ f _)) (l _))

/-! ## Entry to RUNNING and ENABLED (R95, R111) -/

/-- What an entry to RUNNING, or an enabled feeder, can do: as within an instant, but that feeders may leave OFFLINE. -/
structure State.Raised (s t : State) : Prop where
  fixed : t.inReset = s.inReset ∧ t.straps = s.straps ∧ t.loader = s.loader ∧ t.globals = s.globals ∧
    t.image = s.image ∧ t.freeCount = s.freeCount ∧ t.pending = s.pending
  classes : t.classes.classes = s.classes.classes
  link : Link.Posted s.link t.link
  groups : ∀ g, (t.groups.get g).members = (s.groups.get g).members
  holds : t.holds = s.holds
  detector : t.detector = s.detector
  obeys : s.Obeys → t.Obeys

theorem State.Raised.refl (s : State) : State.Raised s s :=
  ⟨⟨rfl, rfl, rfl, rfl, rfl, rfl, rfl⟩, rfl, Link.Posted.refl _, fun _ => rfl, rfl, rfl, id⟩

theorem State.Raised.trans {s t u : State} (a : State.Raised s t) (b : State.Raised t u) : State.Raised s u := by
  obtain ⟨a1, a2, a3, a4, a5, a6, a7⟩ := a.fixed
  obtain ⟨b1, b2, b3, b4, b5, b6, b7⟩ := b.fixed
  exact ⟨⟨b1.trans a1, b2.trans a2, b3.trans a3, b4.trans a4, b5.trans a5, b6.trans a6, b7.trans a7⟩,
    b.classes.trans a.classes, a.link.trans b.link, fun g => (b.groups g).trans (a.groups g), b.holds.trans a.holds,
    b.detector.trans a.detector, fun h => b.obeys (a.obeys h)⟩

theorem State.enterReady_raised (s : State) (f : Feeder) : State.Raised s (s.enterReady f) :=
  ⟨⟨rfl, rfl, rfl, rfl, rfl, rfl, rfl⟩, rfl, Link.post_posted _ _, fun _ => rfl, rfl, rfl, fun h => h.enterReady f⟩

theorem State.enterWaiting_raised (s : State) (f : Feeder) : State.Raised s (s.enterWaiting f) :=
  ⟨⟨rfl, rfl, rfl, rfl, rfl, rfl, rfl⟩, rfl, Link.post_posted _ _, fun _ => rfl, rfl, rfl, fun h => h.of_eq rfl rfl⟩

theorem State.bringUp_raised (s : State) (f : Feeder) : State.Raised s (s.bringUp f) := by
  unfold State.bringUp
  split
  · exact (s.enterReady_raised f).trans (State.enterWaiting_raised _ f)
  · exact State.Raised.refl s

/-- R95: entry to RUNNING, beside the operating state itself. -/
theorem State.enterRunning_raised (s : State) :
    State.Raised { s with loader := { s.loader with op := .running } } s.enterRunning :=
  foldl_rel State.Raised.refl State.Raised.trans (fun f s => s.bringUp_raised f) _ _

theorem State.Sound.of_raised {s t : State} (h : s.Sound) (w : State.Raised s t) : t.Sound := by
  obtain ⟨e1, e2, e3, e4, e5, e6, e7⟩ := w.fixed
  refine ⟨by rw [e5]; exact h.memory, w.link.reports h.reports, ⟨w.link.replies.trans h.replies.1, fun o => ?_⟩,
    by rw [w.detector]; exact h.table, by rw [w.holds]; exact h.holds, by rw [e4]; exact h.settings,
    fun c => by rw [w.classes]; exact h.classes c, fun g k f a b => ?_,
    by unfold State.eventOpen; rw [w.detector]; exact h.record⟩
  · exact w.link.replies.trans (h.replies.2 (by simpa [State.replyOwed, w.link.service] using o))
  · rw [w.groups g] at a
    rw [w.groups k] at b
    exact h.groups g k f a b

theorem State.HoldsObeyed.of_raised {s t : State} (h : s.HoldsObeyed) (w : State.Raised s t)
    (r : s.loader.op = .running) : t.HoldsObeyed := by
  have o := w.obeys h.obeys
  obtain ⟨e1, e2, e3, -⟩ := w.fixed
  exact ⟨fun f => (o f).1, fun f => (o f).2, fun k => absurd (by rw [e3]; exact r) k,
    fun k => by rw [e3] at *; rw [e1] at k; exact h.loading k⟩

/-- R95: entry to RUNNING from a state with no load in flight. -/
theorem State.Kept.enterRunning {s : State} (h : s.Sound) (o : s.Obeys) (live : s.inReset = false)
    (idle : s.loader.memOp ≠ .load) : s.enterRunning.Kept := by
  have w := s.enterRunning_raised
  have h' : State.Sound { s with loader := { s.loader with op := .running } } :=
    ⟨h.memory, h.reports, h.replies, h.table, h.holds, h.settings, h.classes, h.groups, h.record⟩
  have k' : State.HoldsObeyed { s with loader := { s.loader with op := .running } } := by
    refine ⟨fun f => (o f).1, fun f => (o f).2, fun k => absurd rfl k, fun k => ?_⟩
    rcases k with k | k
    · simp only [live] at k; exact absurd k (by simp)
    · exact absurd k idle
  exact ⟨h'.of_raised w, k'.of_raised w rfl⟩

/-! ## Settings, classes, groups -/

theorem clampNat_bounds {lo hi v : Nat} (h : lo ≤ hi) : lo ≤ clampNat lo hi v ∧ clampNat lo hi v ≤ hi := by
  unfold clampNat; omega

/-- R29, R67, R169: a stored setting keeps the levels and the store voltages in order. -/
theorem Globals.wf.store {g : Globals} (h : g.wf) (id : SettingId) (v : Nat) : (g.store id (g.clampSetting id v)).wf := by
  obtain ⟨h1, h2, h3, h4, h5, h6, h7⟩ := h
  cases id <;>
    simp only [Globals.store, Globals.clampSetting, Globals.clampOnset, Globals.wf, clampNat] <;>
    refine ⟨?_, ?_, ?_, ?_, ?_, ?_, ?_⟩ <;> omega

theorem Globals.default_wf : Globals.default.wf := by
  unfold Globals.wf; decide

theorem loadGlobals_wf (v : Nat → Option Nat) : (loadGlobals v).wf := by
  simp only [loadGlobals, Globals.wf, clampNat]
  refine ⟨?_, ?_, ?_, ?_, ?_, ?_, ?_⟩ <;> omega

theorem clampFloors_spec (m : Nat) (segs : List Segment) : ∀ p,
    (∀ g ∈ clampFloors m p segs, min p m ≤ g.floor ∧ g.floor ≤ m ∧ ∃ x ∈ segs, x.limit = g.limit) ∧
      (clampFloors m p segs).length = segs.length ∧
      (segs.Pairwise (fun a b => a.limit < b.limit) →
        (clampFloors m p segs).Pairwise fun a b => a.limit < b.limit ∧ a.floor ≤ b.floor) := by
  induction segs with
  | nil => intro p; simp [clampFloors]
  | cons x rest ih =>
    intro p
    obtain ⟨a, b, c⟩ := ih (max p x.floor)
    refine ⟨fun g i => ?_, by simp [clampFloors, b], fun pw => ?_⟩
    · rcases List.mem_cons.mp i with i | i
      · subst i
        refine ⟨?_, ?_, x, List.mem_cons_self, rfl⟩ <;> simp only <;> omega
      · obtain ⟨k1, k2, y, k3, k4⟩ := a g i
        exact ⟨by omega, k2, y, List.mem_cons_of_mem _ k3, k4⟩
    · rw [List.pairwise_cons] at pw
      refine List.pairwise_cons.mpr ⟨fun g i => ?_, c pw.2⟩
      obtain ⟨k1, k2, y, k3, k4⟩ := a g i
      have := pw.1 y k3
      exact ⟨by simp only; omega, by simp only; omega⟩

theorem limitsAscend_pairwise : ∀ l : List Segment, limitsAscend l = true → l.Pairwise fun a b => a.limit < b.limit
  | [], _ => List.Pairwise.nil
  | [_], _ => List.pairwise_singleton _ _
  | a :: b :: rest, h => by
    simp only [limitsAscend, Bool.and_eq_true, decide_eq_true_eq] at h
    have ih := limitsAscend_pairwise (b :: rest) h.2
    refine List.pairwise_cons.mpr ⟨fun c i => ?_, ih⟩
    rcases List.mem_cons.mp i with i | i
    · rw [i]; exact h.1
    · exact h.1.trans ((List.pairwise_cons.mp ih).1 c i)

/-- R32, R33: clamped ranges in ascending order, clamped in order, are a class as R31 keeps it. -/
theorem EnvClass.clampOrder_wf (c : EnvClass) (len : c.segments.length ≤ 6)
    (r : 500 ≤ c.immunity ∧ c.immunity ≤ 1000) (l : ∀ g ∈ c.segments, 1 ≤ g.limit ∧ g.limit ≤ 250)
    (p : c.segments.Pairwise fun a b => a.limit < b.limit) : c.clampOrder.wf := by
  obtain ⟨a, b, d⟩ := clampFloors_spec c.immunity c.segments 0
  refine ⟨r.1, r.2, by simpa [EnvClass.clampOrder, b] using len, fun g i => ?_, d p⟩
  obtain ⟨-, k2, y, k3, k4⟩ := a g i
  rw [← k4]
  exact ⟨(l y k3).1, (l y k3).2, k2⟩

theorem EnvClass.clampRanges_spec (c : EnvClass) :
    (500 ≤ c.clampRanges.immunity ∧ c.clampRanges.immunity ≤ 1000) ∧
      (∀ g ∈ c.clampRanges.segments, 1 ≤ g.limit ∧ g.limit ≤ 250) ∧
      c.clampRanges.segments.length = c.segments.length := by
  refine ⟨clampNat_bounds (by omega), fun g i => ?_, by simp [EnvClass.clampRanges]⟩
  simp only [EnvClass.clampRanges, List.mem_map] at i
  obtain ⟨x, -, rfl⟩ := i
  exact clampNat_bounds (by omega)

theorem cutAscending_spec (l : List Segment) : ∀ p,
    (∀ g ∈ cutAscending p l, g ∈ l ∧ ∀ n, p = some n → n < g.limit) ∧ (cutAscending p l).length ≤ l.length ∧
      (cutAscending p l).Pairwise fun a b => a.limit < b.limit := by
  induction l with
  | nil => intro p; cases p <;> simp [cutAscending]
  | cons x rest ih =>
    have k (p : Option Nat) (hp : ∀ n, p = some n → n < x.limit) :
        (∀ g ∈ x :: cutAscending (some x.limit) rest, g ∈ x :: rest ∧ ∀ n, p = some n → n < g.limit) ∧
          (x :: cutAscending (some x.limit) rest).length ≤ (x :: rest).length ∧
          (x :: cutAscending (some x.limit) rest).Pairwise fun a b => a.limit < b.limit := by
      obtain ⟨a, b, c⟩ := ih (some x.limit)
      refine ⟨fun g i => ?_, by simpa using b, List.pairwise_cons.mpr ⟨fun g i => (a g i).2 _ rfl, c⟩⟩
      rcases List.mem_cons.mp i with i | i
      · subst i; exact ⟨List.mem_cons_self, hp⟩
      · exact ⟨List.mem_cons_of_mem _ (a g i).1, fun n e => (hp n e).trans ((a g i).2 _ rfl)⟩
    intro p
    cases p with
    | none => exact k none (by simp)
    | some n =>
      unfold cutAscending
      split
      · next lt => exact k (some n) (by intro m e; cases e; exact lt)
      · simp

/-- R33: a loaded class is a class as R31 keeps it. -/
theorem EnvClass.load_wf (c : EnvClass) : c.load.wf := by
  unfold EnvClass.load
  simp only
  obtain ⟨r, l, len⟩ := EnvClass.clampRanges_spec ⟨c.immunity, c.segments.take 6⟩
  obtain ⟨a, b, d⟩ := cutAscending_spec (EnvClass.clampRanges ⟨c.immunity, c.segments.take 6⟩).segments none
  refine EnvClass.clampOrder_wf _ ?_ r (fun g i => l g (a g i).1) d
  simp only [List.length_take] at len
  exact b.trans (by omega)

theorem ClassTable.default_wf (c : ClassNo) : (ClassTable.default.classes.get c).wf := by
  cases c <;> exact ⟨by decide, by decide, by decide, by decide, by decide⟩

theorem segmentsOf_length : ∀ (n : Nat) (l : List Byte), l.length = 3 * n → (segmentsOf l).length = n
  | 0, l, h => by
    have : l = [] := List.length_eq_zero_iff.mp (by omega)
    subst this; rfl
  | n + 1, l, h => by
    match l, h with
    | a :: b :: c :: rest, h =>
      simp only [List.length_cons] at h
      simp [segmentsOf, segmentsOf_length n rest (by omega)]
    | [], h => simp at h
    | [_], h => simp at h; omega
    | [_, _], h => simp at h; omega

/-- R132: a conflict-free member set keeps the groups disjoint. -/
theorem groupsDisjoint_set {v : Four Group} (h : groupsDisjoint v) (g : GroupNo) (r : Group)
    (c : ∀ k, k ≠ g → ∀ f, r.members.get f = true → (v.get k).members.get f = false) :
    groupsDisjoint (v.set g r) := by
  intro a b f ha hb
  by_cases ea : a = g <;> by_cases eb : b = g
  · rw [ea, eb]
  · subst ea
    simp only [Four.get_set_self] at ha
    rw [Four.get_set_ne _ _ eb] at hb
    rw [c b eb f ha] at hb
    exact absurd hb (by simp)
  · subst eb
    simp only [Four.get_set_self] at hb
    rw [Four.get_set_ne _ _ ea] at ha
    rw [c a ea f hb] at ha
    exact absurd ha (by simp)
  · rw [Four.get_set_ne _ _ ea] at ha
    rw [Four.get_set_ne _ _ eb] at hb
    exact h a b f ha hb

theorem loadGroup_placed (m : List Host.Cell) (placed : FeederSet) (g : GroupNo) (f : Feeder)
    (h : (loadGroup m placed g).members.get f = true) : placed.get f = false := by
  unfold loadGroup at h
  split at h
  · simp only [Six.get_of, Bool.and_eq_true, Bool.not_eq_true'] at h
    exact h.2
  · simp [Group.default, FeederSet.empty] at h

/-- R133: the loaded groups share no feeder. -/
theorem loadGroups_disjoint (m : List Host.Cell) : groupsDisjoint (loadGroups m) := by
  have u (x y : FeederSet) (f : Feeder) (h : (FeederSet.union x y).get f = false) : x.get f = false ∧ y.get f = false := by
    simpa [FeederSet.union] using h
  have h2 (f : Feeder) (h : (loadGroups m).g2.members.get f = true) : (loadGroups m).g1.members.get f = false :=
    loadGroup_placed m _ .g2 f h
  have h3 (f : Feeder) (h : (loadGroups m).g3.members.get f = true) :
      (loadGroups m).g1.members.get f = false ∧ (loadGroups m).g2.members.get f = false :=
    u _ _ f (loadGroup_placed m _ .g3 f h)
  have h4 (f : Feeder) (h : (loadGroups m).g4.members.get f = true) :
      ((loadGroups m).g1.members.get f = false ∧ (loadGroups m).g2.members.get f = false) ∧
        (loadGroups m).g3.members.get f = false := by
    have k := u _ _ f (loadGroup_placed m _ .g4 f h)
    exact ⟨u _ _ f k.1, k.2⟩
  intro a b f ha hb
  have k2 := h2 f
  have k3 := h3 f
  have k4 := h4 f
  clear h2 h3 h4 u
  rw [show ((loadGroups m).get a).members.get f = (Four.of fun g => ((loadGroups m).get g).members.get f).get a by simp] at ha
  rw [show ((loadGroups m).get b).members.get f = (Four.of fun g => ((loadGroups m).get g).members.get f).get b by simp] at hb
  simp only [Four.of, Four.get] at ha hb
  generalize (loadGroups m).g1.members.get f = x1 at *
  generalize (loadGroups m).g2.members.get f = x2 at *
  generalize (loadGroups m).g3.members.get f = x3 at *
  generalize (loadGroups m).g4.members.get f = x4 at *
  revert k2 k3 k4 ha hb
  cases x1 <;> cases x2 <;> cases x3 <;> cases x4 <;> cases a <;> cases b <;> simp

end Sys2Proof.Machine
end

