-- ==== Sys2Proof/Laws/Requests.lean ====
section
/-! SUPPORT. What each request's own rule can do to the facts every run keeps. -/

namespace Sys2Proof

theorem Feeder.mem_list (f : Feeder) : f ∈ Feeder.list := by cases f <;> decide

theorem GroupNo.mem_list (g : GroupNo) : g ∈ GroupNo.list := by cases g <;> decide

end Sys2Proof

namespace Sys2Proof.Machine

open Sys2Proof
open State (Late Within Frame SeqOnly)

/-- A state that differs in what no fact of `State.Kept` speaks of. -/
theorem State.Kept.of_same {s t : State} (h : s.Kept) (g : t.globals.wf) (c : ∀ c, (t.classes.classes.get c).wf)
    (m : t.image = s.image) (d : t.detector = s.detector) (l : t.loader = s.loader ∧ t.inReset = s.inReset)
    (q : t.seq = s.seq) (v : groupsDisjoint t.groups) (hd : t.holds = s.holds)
    (k : t.link.replies = s.link.replies ∧ t.link.reports = s.link.reports ∧ t.link.service = s.link.service) : t.Kept := by
  obtain ⟨a, b⟩ := h
  obtain ⟨b1, b2, b3, b4⟩ := b
  refine ⟨⟨by rw [m]; exact a.memory, by rw [k.2.1]; exact a.reports, by
      unfold State.replyOwed; rw [k.1, k.2.2]; exact a.replies, by rw [d]; exact a.table, by rw [hd]; exact a.holds, g, c, v, by
      unfold State.eventOpen; rw [d]; exact a.record⟩, by rw [q, hd]; exact b1, by rw [q, hd]; exact b2, by
      rw [q, l.1]; exact b3, by rw [l.1, l.2]; exact b4⟩

/-- What a request's own rule may do: the facts of a run are kept, no reply is added to the queue, and one that answers at
once leaves no reply owed. -/
def RuleKeeps (rule : State → State × Option Answer) : Prop :=
  ∀ s : State, s.Kept → s.takesRequests →
    (rule s).1.Kept ∧ ((rule s).2.isSome → (rule s).1.link.replies.length ≤ s.link.replies.length ∧
      (rule s).1.replyOwed = false)

theorem State.takesRequests.notOwed {s : State} (h : s.takesRequests) : s.replyOwed = false := by
  simp [State.replyOwed, h.2.2.1]

theorem State.Kept.link {s t : State} (h : s.Kept) (l : Link) (e : t = { s with link := l }) (r : l.reports.length ≤ 32)
    (p : l.replies.length ≤ 4 ∧ (t.replyOwed = true → l.replies.length ≤ 3)) : t.Kept := by
  subst e
  obtain ⟨a, b⟩ := h
  exact ⟨⟨a.memory, r, p, a.table, a.holds, a.settings, a.classes, a.groups, a.record⟩, ⟨b.1, b.2, b.3, b.4⟩⟩

/-- A queued reply, when none is owed and there is room. -/
theorem State.Kept.queueReply {s : State} (h : s.Kept) (r : Reply) (room : s.link.replies.length < 4)
    (owed : s.replyOwed = true → s.link.replies.length < 3) : (s.queueReply r).Kept := by
  have l := s.queueReply_replies_length r
  refine h.link _ rfl ((s.queueReply_reports_length r).trans h.1.reports) ⟨by
    have : (s.queueReply r).link.replies.length ≤ 4 := by omega
    exact this, fun o => ?_⟩
  have o' : s.replyOwed = true := by
    simpa [State.replyOwed] using o
  have := owed o'
  have : (s.queueReply r).link.replies.length ≤ 3 := by omega
  exact this

/-- R166 to R168: a frame taken by request service keeps the facts of a run, if its own rule does. -/
theorem State.Kept.serve {s : State} (h : s.Kept) (kind tag : Byte) {rule : State → State × Option Answer}
    (k : RuleKeeps rule) : (s.serve kind tag rule).Kept := by
  have inS (ht : s.takesRequests) : s.openChoice.Kept ∧ s.openChoice.takesRequests :=
    ⟨h.link _ rfl h.1.reports h.1.replies, ht⟩
  rcases s.serve_cases kind tag rule with e | ⟨hr, hn, e⟩ | ⟨ht, t, a, er, e⟩ | ⟨ht, t, er, e⟩
  · rw [e]; exact h
  · rw [e]
    simp only [State.noRoom, Config.replyCapacity, Bool.or_eq_false_iff, Bool.and_eq_false_imp] at hn
    refine h.queueReply _ (not_le.mp (of_decide_eq_false hn.1)) fun o => ?_
    have := of_decide_eq_false (hn.2 o)
    omega
  · rw [e]
    obtain ⟨k1, k2⟩ := k _ (inS ht).1 (inS ht).2
    rw [er] at k1 k2
    obtain ⟨k3, k4⟩ := k2 rfl
    simp only at k1 k3 k4
    have := ht.2.2.2
    refine k1.queueReply _ (lt_of_le_of_lt k3 ht.2.2.2) (fun o => ?_)
    rw [k4] at o; exact absurd o (by simp)
  · rw [e]
    obtain ⟨k1, -⟩ := k _ (inS ht).1 (inS ht).2
    rw [er] at k1
    exact k1.link _ rfl k1.1.reports k1.1.replies

/-- A rule that leaves the state alone. -/
theorem RuleKeeps.reads {rule : State → State × Option Answer} (h : ∀ s, (rule s).1 = s) : RuleKeeps rule :=
  fun s k t => ⟨by rw [h]; exact k, fun _ => by rw [h]; exact ⟨le_refl _, t.notOwed⟩⟩

/-- A rule that does what a sample instant's events may. -/
theorem RuleKeeps.within {rule : State → State × Option Answer} (h : ∀ s, Within s (rule s).1) : RuleKeeps rule :=
  fun s k t => ⟨k.of_within (h s), fun _ => ⟨(h s).frame.link.replies, by
    have := t.notOwed
    unfold State.replyOwed at this ⊢
    rw [(h s).frame.link.service]; exact this⟩⟩

theorem identify_keeps : RuleKeeps answerIdentify := .reads fun _ => rfl
theorem statusQuery_keeps : RuleKeeps answerStatusQuery := .reads fun _ => rfl
theorem feederQuery_keeps (f : Byte) : RuleKeeps (answerFeederQuery f) := .reads fun s => by
  unfold answerFeederQuery; split <;> rfl
theorem eventQuery_keeps (n : Nat) : RuleKeeps (answerEventQuery n) := .reads fun s => by
  unfold answerEventQuery; split <;> rfl
theorem eventList_keeps : RuleKeeps answerEventList := .reads fun _ => rfl
theorem settingRead_keeps (i f : Byte) : RuleKeeps (answerSettingRead i f) := .reads fun s => by
  unfold answerSettingRead
  split
  · rfl
  · split <;> rfl
theorem classRead_keeps (c : Byte) : RuleKeeps (answerClassRead c) := .reads fun s => by
  unfold answerClassRead; split <;> rfl
theorem groupRead_keeps (g : Byte) : RuleKeeps (answerGroupRead g) := .reads fun s => by
  unfold answerGroupRead; split <;> rfl
theorem lineMapRead_keeps : RuleKeeps answerLineMapRead := .reads fun _ => rfl
theorem unknown_keeps : RuleKeeps answerUnknown := .reads fun _ => rfl
theorem length_keeps : RuleKeeps answerLength := .reads fun _ => rfl

theorem hold_keeps (f : Byte) (op : HoldOp) (lv : Leave) : RuleKeeps (answerHold f op lv) := .within fun s => by
  unfold answerHold
  split
  · exact Within.refl s
  · exact (s.hold_late lv _ op).within

theorem State.setGroup_course_late (s : State) (g : GroupNo) (r : Group) (h : r.members = (s.groups.get g).members ∧
    r.level = (s.groups.get g).level ∧ r.requireAll = (s.groups.get g).requireAll) : Late s (s.setGroup g r) :=
  (s.setGroup_seqOnly g r h).late fun o => o.of_eq rfl rfl

theorem groupAcksClear_keeps (g : Byte) : RuleKeeps (answerGroupAcksClear g) := .within fun s => by
  unfold answerGroupAcksClear
  split
  · exact Within.refl s
  · simp only
    split
    · exact Within.refl s
    · exact Within.refl s
    all_goals
      refine (s.setGroup_course_late _ _ ?_).within
      exact ⟨rfl, rfl, rfl⟩

theorem State.bindingHold_late (s : State) (lv : Leave) (low : Bool) (c : EventCode) (op : HoldOp) :
    Late s (s.bindingHold lv low c op) := by
  unfold State.bindingHold
  split
  · exact Late.ite (s.hold_late lv _ op) (Late.refl s)
  · exact Late.refl s

theorem lineMapWrite_keeps (l c : Byte) (lv : Leave) : RuleKeeps (answerLineMapWrite l c lv) := .within fun s => by
  unfold answerLineMapWrite
  split
  · unfold State.rebindLine
    simp only
    have k (l : Line) (x : LineState) : Late s (s.setLine l x) := Late.of_rest rfl
    exact Within.ite (Within.refl s)
      (((k _ _).trans (State.bindingHold_late _ _ _ _ _)).trans (State.bindingHold_late _ _ _ _ _)).within
  · exact Within.refl s

theorem bankSelect_keeps (b : Byte) : RuleKeeps (answerBankSelect b) := .within fun s => by
  unfold answerBankSelect
  split
  · exact Within.refl s
  · have a : Within s (if s.eventOpen then s else s.markWrite) := Within.ite (Within.refl s) (Within.of_measure rfl)
    exact a.trans (State.switchBank_late _ _).within

theorem faultClear_keeps (f : Byte) : RuleKeeps (answerFaultClear f) := .within fun s => by
  unfold answerFaultClear
  split
  · exact Within.refl s
  · next f _ =>
    split
    · next e =>
      split
      · unfold State.clearFault
        have a : SeqOnly s (s.setSeq f { s.seq.get f with faultCause := none, followOn := none }) :=
          s.setSeq_seqOnly f _ id
        refine ((a.trans (State.enterReady_seqOnly _ f (by simp [e]))).late fun o => ?_).within
        have o2 : (s.setSeq f { s.seq.get f with faultCause := none, followOn := none }).Obeys := o.same f _ rfl
        exact o2.enterReady f
      · exact Within.refl s
    · exact Within.refl s

theorem reportMask_keeps (m : Byte) : RuleKeeps (answerReportMask m) := fun s k t => by
  unfold answerReportMask
  split
  · exact ⟨k, fun _ => ⟨le_refl _, t.notOwed⟩⟩
  · exact ⟨k.link _ rfl k.1.reports k.1.replies, fun _ => ⟨le_refl _, t.notOwed⟩⟩

theorem restart_keeps (tag : Byte) : RuleKeeps (answerRestart tag) := fun s k t => by
  unfold answerRestart
  split
  · exact ⟨k, fun _ => ⟨le_refl _, t.notOwed⟩⟩
  · exact ⟨k.link _ rfl k.1.reports ⟨k.1.replies.1, fun o => absurd o (by simp [State.replyOwed])⟩,
      fun _ => ⟨le_refl _, rfl⟩⟩

theorem State.Kept.setOp {s : State} (h : s.Kept) (l : Link) (op : MemOp) (n : op ≠ .load)
    (r : l.reports = s.link.reports) (p : l.replies.length ≤ 4 ∧
      (State.replyOwed { s with link := l } = true → l.replies.length ≤ 3)) :
    State.Kept { s with link := l, loader := { s.loader with memOp := op } } := by
  obtain ⟨a, b⟩ := h
  refine ⟨⟨a.memory, by rw [r]; exact a.reports, p, a.table, a.holds, a.settings, a.classes, a.groups, a.record⟩,
    ⟨b.1, b.2, b.3, fun k => ?_⟩⟩
  rcases k with k | k
  · exact b.4 (.inl k)
  · exact absurd k n

theorem imageRead_keeps (tag : Byte) (o n : Nat) : RuleKeeps (answerImageRead tag o n) := fun s k t => by
  unfold answerImageRead
  have := t.2.2.2
  split
  · exact ⟨k, fun _ => ⟨le_refl _, t.notOwed⟩⟩
  · exact ⟨k.setOp _ .read (by simp) rfl ⟨by simp only; omega, fun _ => by simp only; omega⟩, fun x => by simp at x⟩

theorem imageWrite_keeps (tag : Byte) (o : Nat) (b : List Byte) : RuleKeeps (answerImageWrite tag o b) := fun s k t => by
  unfold answerImageWrite
  have := t.2.2.2
  split
  · exact ⟨k, fun _ => ⟨le_refl _, t.notOwed⟩⟩
  · split
    · exact ⟨k, fun _ => ⟨le_refl _, t.notOwed⟩⟩
    · exact ⟨k.setOp _ .write (by simp) rfl ⟨by simp only; omega, fun _ => by simp only; omega⟩, fun x => by simp at x⟩

theorem compensationEnable_keeps : RuleKeeps answerCompensationEnable := fun s k t => by
  unfold answerCompensationEnable
  split
  · next e =>
    have n : s.loader.memOp ≠ .load := fun m => by
      have := k.2.loading (.inr m)
      rw [e] at this; exact absurd this (by simp)
    have w := s.enterRunning_raised
    refine ⟨State.Kept.enterRunning k.1 k.2.obeys t.1 n, fun _ => ⟨w.link.replies, ?_⟩⟩
    have o := t.notOwed
    unfold State.replyOwed at o ⊢
    rw [w.link.service]; exact o
  · exact ⟨k, fun _ => ⟨le_refl _, t.notOwed⟩⟩

/-! ## Settings, classes and groups written -/

theorem Globals.wf.lineFreq {g : Globals} (h : g.wf) (f : LineFreq) : Globals.wf { g with lineFreq := f } := h

/-- R172: a stored value, clamped into its range. -/
theorem State.Kept.storeSetting {s : State} (h : s.Kept) (id : SettingId) (f : Feeder) (v : Nat) :
    (s.storeSetting id f (s.globals.clampSetting id v)).Kept := by
  have g := h.1.settings.store id v
  unfold State.storeSetting
  split
  · exact h.of_same h.1.settings h.1.classes rfl rfl ⟨rfl, rfl⟩ rfl h.1.groups rfl ⟨rfl, rfl, rfl⟩
  · exact h.of_same h.1.settings h.1.classes rfl rfl ⟨rfl, rfl⟩ rfl h.1.groups rfl ⟨rfl, rfl, rfl⟩
  · split
    · exact h.of_same h.1.settings h.1.classes rfl rfl ⟨rfl, rfl⟩ rfl h.1.groups rfl ⟨rfl, rfl, rfl⟩
    · exact h.of_same g h.1.classes rfl rfl ⟨rfl, rfl⟩ rfl h.1.groups rfl ⟨rfl, rfl, rfl⟩

theorem State.storeSetting_link (s : State) (id : SettingId) (f : Feeder) (v : Nat) :
    (s.storeSetting id f v).link = s.link := by
  unfold State.storeSetting
  split
  · rfl
  · rfl
  · split <;> rfl

theorem State.writeLineFreq_keeps {s : State} (h : s.Kept) (v : Nat) :
    (s.writeLineFreq v).Kept ∧ Link.Posted s.link (s.writeLineFreq v).link := by
  have a : (s.storeSetting .lineFreq .f1 v).Kept := h.storeSetting .lineFreq .f1 v
  unfold State.writeLineFreq
  split
  · exact ⟨h, Link.Posted.refl _⟩
  · simp only
    have w (t : Tracker) : Within (s.storeSetting .lineFreq .f1 v) { s.storeSetting .lineFreq .f1 v with tracker := t } :=
      Within.of_measure rfl
    have l := s.storeSetting_link .lineFreq .f1 v
    split
    · exact ⟨a.of_within (w _), by rw [show (State.link _) = s.link from l]; exact Link.Posted.refl _⟩
    · have w2 := (w { s.tracker with state := .seeking, miss := 0, remembered := false }).trans
        (State.post_late _ (.tracker .seeking .freqChange)).within
      refine ⟨a.of_within w2, ?_⟩
      rw [← l]
      exact w2.frame.link

theorem State.disable_keeps {s : State} (h : s.Kept) (f : Feeder) :
    (s.disable f).Kept ∧ Link.Posted s.link (s.disable f).link := by
  unfold State.disable
  split
  · exact ⟨h, Link.Posted.refl _⟩
  · have a : SeqOnly s ((s.setSeq f { s.seq.get f with
        state := .offline, phase := none, timer := none, faultCause := none, followOn := none }).postFeederState f none) :=
      (s.setSeq_seqOnly f _ (fun _ => rfl)).trans (State.postFeederState_seqOnly _ f none)
    have b := (a.late fun o => State.Obeys.of_eq (o.setSeq f _ (obeysAt_offline _)) rfl rfl).trans (State.takeDown_late _ f)
    exact ⟨h.of_within b.within, b.within.frame.link⟩

theorem State.writeEnabled_keeps {s : State} (h : s.Kept) (f : Feeder) (yes : Bool) :
    (s.writeEnabled f yes).Kept ∧ Link.Posted s.link (s.writeEnabled f yes).link := by
  have a (v : Nat) : (s.storeSetting .enabled f v).Kept := h.storeSetting .enabled f v
  have l (v : Nat) : (s.storeSetting .enabled f v).link = s.link := s.storeSetting_link .enabled f v
  unfold State.writeEnabled
  simp only
  split
  · split
    · next c =>
      have w := State.bringUp_raised (s.storeSetting .enabled f 1) f
      exact ⟨⟨(a 1).1.of_raised w, (a 1).2.of_raised w c.2⟩, by rw [← l 1]; exact w.link⟩
    · exact ⟨a 1, by rw [l]; exact Link.Posted.refl _⟩
  · obtain ⟨d1, d2⟩ := State.disable_keeps (a 0) f
    rw [l] at d2
    exact ⟨d1, d2⟩

theorem settingWrite_keeps (i f : Byte) (v : Nat) : RuleKeeps (answerSettingWrite i f v) := fun s k t => by
  have idle : RuleKeeps fun s => (s, some (Answer.bare .value)) := .reads fun _ => rfl
  have done (u : State) (a : u.Kept) (b : Link.Posted s.link u.link) (x : Answer) :
      (u, some x).1.Kept ∧ ((u, some x).2.isSome → (u, some x).1.link.replies.length ≤ s.link.replies.length ∧
        (u, some x).1.replyOwed = false) := by
    refine ⟨a, fun _ => ⟨b.replies, ?_⟩⟩
    have o := t.notOwed
    unfold State.replyOwed at o ⊢
    simp only
    rw [b.service]; exact o
  have rf := Link.Posted.refl s.link
  unfold answerSettingWrite
  split
  · exact done s k rf _
  · split
    · exact done s k rf _
    · split
      · exact done s k rf _
      · split
        · exact done s k rf _
        · next id _ _ g _ _ _ =>
          unfold State.applySetting
          split
          · split
            · exact done s k rf _
            · obtain ⟨d1, d2⟩ := State.writeEnabled_keeps k g (v == 1)
              exact done _ d1 d2 _
          · obtain ⟨d1, d2⟩ := State.writeLineFreq_keeps k v
            exact done _ d1 d2 _
          · simp only
            exact done _ (k.storeSetting _ g v) (by rw [State.storeSetting_link]; exact rf) _

theorem classWrite_keeps (c : Byte) (m : Nat) (n : Byte) (l : List Byte) : RuleKeeps (answerClassWrite c m n l) :=
  fun s k t => by
  unfold answerClassWrite
  split
  · exact ⟨k, fun _ => ⟨le_refl _, t.notOwed⟩⟩
  · next len =>
    split
    · exact ⟨k, fun _ => ⟨le_refl _, t.notOwed⟩⟩
    · next c _ =>
      split
      · exact ⟨k, fun _ => ⟨le_refl _, t.notOwed⟩⟩
      · simp only
        split
        · exact ⟨k, fun _ => ⟨le_refl _, t.notOwed⟩⟩
        · next asc =>
          obtain ⟨r, li, ln⟩ := EnvClass.clampRanges_spec ⟨m, segmentsOf l⟩
          rw [not_or, not_lt, not_not] at len
          have ln2 := segmentsOf_length n.toNat l len.2
          have w := EnvClass.clampOrder_wf _ (by rw [ln]; simp only [ln2]; omega) r li
            (limitsAscend_pairwise _ (by simpa using asc))
          refine ⟨k.of_same k.1.settings (fun d => ?_) rfl rfl ⟨rfl, rfl⟩ rfl k.1.groups rfl ⟨rfl, rfl, rfl⟩,
            fun _ => ⟨le_refl _, t.notOwed⟩⟩
          simp only [State.storeClass]
          by_cases e : d = c
          · subst e; simpa using w
          · simpa [Eight.get_set_ne _ _ e] using k.1.classes d

theorem groupWrite_keeps (g m l r : Byte) : RuleKeeps (answerGroupWrite g m l r) := fun s k t => by
  unfold answerGroupWrite
  split
  · next g m q _ _ _ =>
    split
    · exact ⟨k, fun _ => ⟨le_refl _, t.notOwed⟩⟩
    · split
      · exact ⟨k, fun _ => ⟨le_refl _, t.notOwed⟩⟩
      · next c =>
        refine ⟨k.of_same k.1.settings k.1.classes rfl rfl ⟨rfl, rfl⟩ rfl ?_ rfl ⟨rfl, rfl, rfl⟩,
          fun _ => ⟨le_refl _, t.notOwed⟩⟩
        refine groupsDisjoint_set k.1.groups g _ fun h ne f i => ?_
        by_contra n
        refine c (List.any_eq_true.mpr ⟨f, (Feeder.mem_list f), ?_⟩)
        have i' : m.get f = true := i
        rw [i', Bool.true_and]
        exact List.any_eq_true.mpr ⟨h, (GroupNo.mem_list h), by simp [ne, n]⟩
  · exact ⟨k, fun _ => ⟨le_refl _, t.notOwed⟩⟩

end Sys2Proof.Machine
end

