-- ==== Sys2Proof/Laws/Loader.lean ====
section
/-! SUPPORT. What a reset, an image load and a memory operation can do to the facts every run keeps. -/

namespace Sys2Proof.Machine

open Sys2Proof

theorem groupsDisjoint_default : groupsDisjoint (Four.all Group.default) := by
  intro g h f a
  simp [Group.default, FeederSet.empty] at a

/-- The held part, with any memory in canonical form behind it. -/
theorem State.reset_kept (m : List Host.Cell) (h : memGood m) (n : Nat) (q : List Instr) :
    State.Kept { State.reset with image := m, freeCount := n, pending := q } := by
  refine ⟨⟨h, by simp [State.reset, Link.reset], ⟨by simp [State.reset, Link.reset], by simp [State.reset, Link.reset]⟩,
    by simp [State.reset, Detector.reset], by simp [State.reset], Globals.default_wf, ClassTable.default_wf,
    groupsDisjoint_default, rfl⟩, ⟨?_, ?_, ?_, fun _ => rfl⟩⟩ <;> simp [State.reset, Sequencer.reset]

theorem State.cutWrite_memGood {s : State} (h : memGood s.image) (written : Nat) : memGood (s.cutWrite written).image := by
  unfold State.cutWrite
  split
  · exact s.stopWrite_memGood h _ _ _
  all_goals exact h

theorem State.resetBlocks_kept {s : State} (h : s.Kept) (written : Nat) : (s.resetBlocks written).Kept :=
  State.reset_kept _ (s.cutWrite_memGood h.1.memory written) _ _

theorem State.setHoldsFromStart_holds (s : State) (f : Feeder) : s.setHoldsFromStart.holds.get f ≤ 255 := by
  simp only [State.setHoldsFromStart, Six.get_of]
  split <;> omega

/-- With every feeder OFFLINE there is nothing for R106 to ask. -/
theorem State.HoldsObeyed.of_offline {s : State} (off : ∀ f, (s.seq.get f).state = .offline)
    (l : s.inReset = true ∨ s.loader.memOp = .load → s.loader.op = .loading) : s.HoldsObeyed :=
  ⟨fun f k => by rw [off f] at k; simp at k, fun f k => by rw [off f] at k; simp at k, fun _ => off, l⟩

/-- R180: the end of a reset, from the held state. -/
theorem State.endReset_kept {s : State} (h : s.Kept) (r : s.inReset = true) (linkRate imageSrc : Bool) :
    (s.endReset linkRate imageSrc).Kept := by
  have lo := h.2.loading (.inl r)
  have off := h.2.offline (by rw [lo]; simp)
  obtain ⟨a, b⟩ := h
  unfold State.endReset
  simp only
  split
  · refine ⟨⟨a.memory, a.reports, a.replies, a.table, State.setHoldsFromStart_holds _, a.settings, a.classes, a.groups,
      a.record⟩, State.HoldsObeyed.of_offline off fun k => ?_⟩
    rcases k with k | k
    · exact absurd k (by simp [State.startDefaults, State.setHoldsFromStart])
    · exact absurd k (by simp)
  · exact ⟨⟨a.memory, a.reports, a.replies, a.table, a.holds, a.settings, a.classes, a.groups, a.record⟩,
      ⟨b.1, b.2, fun _ => off, fun _ => rfl⟩⟩

/-- R183: a good image taken. -/
theorem State.loadGood_kept {s : State} (h : s.Kept) (l : s.loader.op = .loading) (live : s.inReset = false) :
    s.loadGood.Kept := by
  have off := h.2.offline (by rw [l]; simp)
  obtain ⟨a, b⟩ := h
  unfold State.loadGood
  refine State.Kept.enterRunning ⟨a.memory, a.reports, a.replies, a.table, State.setHoldsFromStart_holds _,
    loadGlobals_wf _, fun c => ?_, loadGroups_disjoint _, a.record⟩ ?_ live (by simp)
  · simp only [State.takeImage, State.setHoldsFromStart, Eight.get_of]
    unfold loadClass
    split
    · exact EnvClass.load_wf _
    · exact ClassTable.default_wf c
  · intro f
    have : (State.seq { s.takeImage s.image with loader := { s.loader with memOp := .none } }).get f = s.seq.get f := rfl
    rw [this, off f]
    exact obeysAt_offline _

theorem State.loadFaulty_kept {s : State} (h : s.Kept) (l : s.loader.op = .loading) (live : s.inReset = false) :
    s.loadFaulty.Kept := by
  have off := h.2.offline (by rw [l]; simp)
  obtain ⟨a, b⟩ := h
  refine ⟨⟨a.memory, a.reports, a.replies, a.table, State.setHoldsFromStart_holds _, a.settings, a.classes, a.groups,
    a.record⟩, State.HoldsObeyed.of_offline off fun k => ?_⟩
  have e : s.loadFaulty.inReset = s.inReset := rfl
  rw [e, live] at k
  simp [State.loadFaulty] at k

/-- R177: an event that keeps the facts of a run keeps them whether or not the transmitter's choice waits for a reply. -/
theorem State.Kept.asEvent {s : State} (h : s.Kept) (left : Bool) {event : State → State}
    (k : ∀ t : State, t.Kept → t.loader = s.loader → t.inReset = s.inReset → (event t).Kept) :
    (s.asEvent left event).Kept := by
  unfold State.asEvent
  refine State.Kept.of_within ?_ (State.settleChoice_late _ _).within
  split
  · exact k _ (h.of_within (s.settleChoice_late true).within) rfl rfl
  · exact k _ h rfl rfl

/-- R183: the end of a load, good or faulty. -/
theorem State.endLoad_kept {s : State} (h : s.Kept) (left : Bool) (l : s.loader.op = .loading) (live : s.inReset = false) :
    (s.endLoad left).Kept := by
  unfold State.endLoad
  split
  · exact h.asEvent left fun t k e i => t.loadGood_kept k (e ▸ l) (i ▸ live)
  · exact s.loadFaulty_kept h l live

theorem State.Kept.setImage {s : State} (h : s.Kept) (m : List Host.Cell) (n : Nat) (g : memGood m) :
    State.Kept { s with image := m, freeCount := n } := by
  obtain ⟨a, b⟩ := h
  exact ⟨⟨g, a.reports, a.replies, a.table, a.holds, a.settings, a.classes, a.groups, a.record⟩,
    ⟨b.1, b.2, b.3, b.4⟩⟩

/-- R186, R187: a request leaves service with its reply. -/
theorem State.endService_kept {s : State} (h : s.Kept) (r : Reply) (owed : s.replyOwed = true) :
    (s.endService r).Kept := by
  have l := h.1.replies.2 owed
  have k : State.Kept { s with link := { s.link with service := none }, loader := { s.loader with memOp := .none } } :=
    h.setOp { s.link with service := none } .none (by simp) rfl ⟨h.1.replies.1, fun o => absurd o (by simp [State.replyOwed])⟩
  refine State.Kept.queueReply k r ?_ fun o => absurd o (by simp [State.replyOwed])
  exact lt_of_le_of_lt l (by omega)

/-- R166 to R168: the rule that a frame's kind and payload name keeps the facts of a run. -/
theorem requestRule_keeps (kind tag : Byte) (payload : List Byte) (lv : Leave) :
    RuleKeeps (requestRule kind tag payload lv) := by
  unfold requestRule
  split <;> try split
  · exact identify_keeps
  · exact length_keeps
  · exact statusQuery_keeps
  · exact length_keeps
  · exact feederQuery_keeps _
  · exact length_keeps
  · exact eventQuery_keeps _
  · exact length_keeps
  · exact eventList_keeps
  · exact length_keeps
  · intro s k t
    split
    · exact hold_keeps _ _ _ s k t
    · exact ⟨k, fun _ => ⟨le_refl _, t.notOwed⟩⟩
  · exact length_keeps
  · exact settingWrite_keeps _ _ _
  · exact length_keeps
  · exact settingRead_keeps _ _
  · exact length_keeps
  · exact classWrite_keeps _ _ _ _
  · exact length_keeps
  · exact classRead_keeps _
  · exact length_keeps
  · exact groupWrite_keeps _ _ _ _
  · exact length_keeps
  · exact groupRead_keeps _
  · exact length_keeps
  · exact lineMapWrite_keeps _ _ _
  · exact length_keeps
  · exact lineMapRead_keeps
  · exact length_keeps
  · exact bankSelect_keeps _
  · exact length_keeps
  · exact faultClear_keeps _
  · exact length_keeps
  · exact groupAcksClear_keeps _
  · exact length_keeps
  · exact imageRead_keeps _ _ _
  · exact length_keeps
  · exact imageWrite_keeps _ _ _
  · exact length_keeps
  · exact restart_keeps _
  · exact length_keeps
  · exact compensationEnable_keeps
  · exact length_keeps
  · exact reportMask_keeps _
  · exact length_keeps
  · exact unknown_keeps

theorem State.completeFrame_kept {s : State} (h : s.Kept) (bytes : List Byte) (lv : Leave) :
    (s.completeFrame bytes lv).Kept := by
  unfold State.completeFrame
  split
  · exact h.serve _ _ (requestRule_keeps _ _ _ _)
  · refine h.serve _ _ ?_
    split
    · exact length_keeps
    · exact unknown_keeps
  · exact h

theorem State.setAsm_kept {s : State} (h : s.Kept) (a : Assembler) : (s.setAsm a).Kept :=
  h.link _ rfl h.1.reports h.1.replies

end Sys2Proof.Machine
end

