-- ==== Sys2Proof/Laws/PerInstr.lean ====
section
/-! SUPPORT. The family `Command`: a well-formed request has a request kind and a payload that a frame can carry
(R163, section 11.2), one lemma per command. -/

namespace Sys2Proof.Laws.Command

open Sys2Proof

/-- A well-formed request's kind is one of the requests and its payload fits a frame. -/
def Statement (i : Instr) : Prop :=
  i.wellFormed = true → ∀ k t p, i.request? = some (k, t, p) → isRequestKind k = true ∧ p.length ≤ maxPayload

theorem powerUp (written : Nat) : Statement (.powerUp written) := by
  intro w k t p h
  cases h

theorem resetPinAsserted (written : Nat) : Statement (.resetPinAsserted written) := by
  intro w k t p h
  cases h

theorem resetEnd (linkRate : Bool) (imageSrc : Bool) : Statement (.resetEnd linkRate imageSrc) := by
  intro w k t p h
  cases h

theorem restartReset (linkRate : Bool) (imageSrc : Bool) : Statement (.restartReset linkRate imageSrc) := by
  intro w k t p h
  cases h

theorem imageLoadEnd (changed : Leaving Changed) : Statement (.imageLoadEnd changed) := by
  intro w k t p h
  cases h

theorem memoryNoAnswer (written : Nat) (confirmed : Nat) (changed : Changed) : Statement (.memoryNoAnswer written confirmed changed) := by
  intro w k t p h
  cases h

theorem sampleSet (x : SampleInput) (o : Orders) : Statement (.sampleSet x o) := by
  intro w k t p h
  cases h

theorem trackerMisses (x : SampleInput) (o : Orders) : Statement (.trackerMisses x o) := by
  intro w k t p h
  cases h

theorem trackerSilence (x : SampleInput) (o : Orders) : Statement (.trackerSilence x o) := by
  intro w k t p h
  cases h

theorem fastTrip (x : SampleInput) (o : Orders) : Statement (.fastTrip x o) := by
  intro w k t p h
  cases h

theorem recovered (x : SampleInput) (o : Orders) : Statement (.recovered x o) := by
  intro w k t p h
  cases h

theorem eventLimit (x : SampleInput) (o : Orders) : Statement (.eventLimit x o) := by
  intro w k t p h
  cases h

theorem lockoutDwellComplete (x : SampleInput) (o : Orders) : Statement (.lockoutDwellComplete x o) := by
  intro w k t p h
  cases h

theorem rechargeDelayExpiry (x : SampleInput) (o : Orders) : Statement (.rechargeDelayExpiry x o) := by
  intro w k t p h
  cases h

theorem armTimeout (f : Feeder) (leave : Leave) : Statement (.armTimeout f leave) := by
  intro w k t p h
  cases h

theorem bypassTimerExpiry (f : Feeder) (leave : Leave) : Statement (.bypassTimerExpiry f leave) := by
  intro w k t p h
  cases h

theorem handoverExpiry (f : Feeder) : Statement (.handoverExpiry f) := by
  intro w k t p h
  cases h

theorem stopTimerExpiry (f : Leaving Feeder) : Statement (.stopTimerExpiry f) := by
  intro w k t p h
  cases h

theorem slotExamination (f : Feeder) (slot : Slot) (leave : Leave) : Statement (.slotExamination f slot leave) := by
  intro w k t p h
  cases h

theorem portUp (f : Feeder) (slot : Slot) (leave : Leave) :
    Statement (.portUp f slot leave) := by
  intro w k t p h
  cases h

theorem portLost (f : Feeder) (slot : Slot) (leave : Leave) :
    Statement (.portLost f slot leave) := by
  intro w k t p h
  cases h

theorem portRecovered (f : Feeder) (slot : Slot) (leave : Leave) :
    Statement (.portRecovered f slot leave) := by
  intro w k t p h
  cases h

theorem lineAccepted (l : Leaving Line) : Statement (.lineAccepted l) := by
  intro w k t p h
  cases h

theorem linkByteReceived (b : Leaving Byte) (framingError : Bool) : Statement (.linkByteReceived b framingError) := by
  intro w k t p h
  cases h

theorem linkGapTimeout : Statement (.linkGapTimeout) := by
  intro w k t p h
  cases h

theorem unknownRequest (kind : Byte) (tag : Option Byte) (payload : List Byte) : Statement (.unknownRequest kind tag payload) := by
  intro w k t p h
  cases h

theorem identify (tag : Byte) : Statement (.identify tag) := by
  intro w k t p h
  cases h
  exact ⟨rfl, Nat.le_of_ble_eq_true rfl⟩

theorem statusQuery (tag : Byte) : Statement (.statusQuery tag) := by
  intro w k t p h
  cases h
  exact ⟨rfl, Nat.le_of_ble_eq_true rfl⟩

theorem feederQuery (tag : Byte) (feeder : Byte) : Statement (.feederQuery tag feeder) := by
  intro w k t p h
  cases h
  exact ⟨rfl, Nat.le_of_ble_eq_true rfl⟩

theorem eventQuery (tag : Byte) (number : Half) : Statement (.eventQuery tag number) := by
  intro w k t p h
  cases h
  exact ⟨rfl, Nat.le_of_ble_eq_true rfl⟩

theorem eventList (tag : Byte) : Statement (.eventList tag) := by
  intro w k t p h
  cases h
  exact ⟨rfl, Nat.le_of_ble_eq_true rfl⟩

theorem take (tag : Byte) (feeder : Leaving Byte) : Statement (.take tag feeder) := by
  intro w k t p h
  cases h
  exact ⟨rfl, Nat.le_of_ble_eq_true rfl⟩

theorem drop (tag : Byte) (feeder : Byte) : Statement (.drop tag feeder) := by
  intro w k t p h
  cases h
  exact ⟨rfl, Nat.le_of_ble_eq_true rfl⟩

theorem takeIfFree (tag : Byte) (feeder : Leaving Byte) : Statement (.takeIfFree tag feeder) := by
  intro w k t p h
  cases h
  exact ⟨rfl, Nat.le_of_ble_eq_true rfl⟩

theorem takeIfHeld (tag : Byte) (feeder : Byte) : Statement (.takeIfHeld tag feeder) := by
  intro w k t p h
  cases h
  exact ⟨rfl, Nat.le_of_ble_eq_true rfl⟩

theorem forceClear (tag : Byte) (feeder : Byte) : Statement (.forceClear tag feeder) := by
  intro w k t p h
  cases h
  exact ⟨rfl, Nat.le_of_ble_eq_true rfl⟩

theorem forceFull (tag : Byte) (feeder : Leaving Byte) : Statement (.forceFull tag feeder) := by
  intro w k t p h
  cases h
  exact ⟨rfl, Nat.le_of_ble_eq_true rfl⟩

theorem peek (tag : Byte) (feeder : Byte) : Statement (.peek tag feeder) := by
  intro w k t p h
  cases h
  exact ⟨rfl, Nat.le_of_ble_eq_true rfl⟩

theorem settingWrite (tag : Byte) (ident : Byte) (feeder : Byte) (value : Half) : Statement (.settingWrite tag ident feeder value) := by
  intro w k t p h
  cases h
  exact ⟨rfl, Nat.le_of_ble_eq_true rfl⟩

theorem settingWriteLineFreq (tag : Byte) (feeder : Byte) (value : Half) : Statement (.settingWriteLineFreq tag feeder value) := by
  intro w k t p h
  cases h
  exact ⟨rfl, Nat.le_of_ble_eq_true rfl⟩

theorem settingWriteEnabled (tag : Byte) (feeder : Byte) (value : Half) : Statement (.settingWriteEnabled tag feeder value) := by
  intro w k t p h
  cases h
  exact ⟨rfl, Nat.le_of_ble_eq_true rfl⟩

theorem settingRead (tag : Byte) (ident : Byte) (feeder : Byte) : Statement (.settingRead tag ident feeder) := by
  intro w k t p h
  cases h
  exact ⟨rfl, Nat.le_of_ble_eq_true rfl⟩

theorem classWrite (tag : Byte) (cls : Byte) (immunity : Half) (count : Byte) (segments : List Byte) : Statement (.classWrite tag cls immunity count segments) := by
  intro w k t p h
  cases h
  simp only [Instr.wellFormed, decide_eq_true_eq] at w
  exact ⟨by decide, by simp [Machine.halfBytes, Machine.half]; omega⟩

theorem classRead (tag : Byte) (cls : Byte) : Statement (.classRead tag cls) := by
  intro w k t p h
  cases h
  exact ⟨rfl, Nat.le_of_ble_eq_true rfl⟩

theorem groupWrite (tag : Byte) (group : Byte) (members : Byte) (level : Byte) (requireAll : Byte) : Statement (.groupWrite tag group members level requireAll) := by
  intro w k t p h
  cases h
  exact ⟨rfl, Nat.le_of_ble_eq_true rfl⟩

theorem groupRead (tag : Byte) (group : Byte) : Statement (.groupRead tag group) := by
  intro w k t p h
  cases h
  exact ⟨rfl, Nat.le_of_ble_eq_true rfl⟩

theorem lineMapWrite (tag : Byte) (line : Byte) (code : Leaving Byte) : Statement (.lineMapWrite tag line code) := by
  intro w k t p h
  cases h
  exact ⟨rfl, Nat.le_of_ble_eq_true rfl⟩

theorem lineMapRead (tag : Byte) : Statement (.lineMapRead tag) := by
  intro w k t p h
  cases h
  exact ⟨rfl, Nat.le_of_ble_eq_true rfl⟩

theorem bankSelect (tag : Byte) (bank : Byte) : Statement (.bankSelect tag bank) := by
  intro w k t p h
  cases h
  exact ⟨rfl, Nat.le_of_ble_eq_true rfl⟩

theorem faultClear (tag : Byte) (feeder : Byte) : Statement (.faultClear tag feeder) := by
  intro w k t p h
  cases h
  exact ⟨rfl, Nat.le_of_ble_eq_true rfl⟩

theorem groupAcksClear (tag : Byte) (group : Byte) : Statement (.groupAcksClear tag group) := by
  intro w k t p h
  cases h
  exact ⟨rfl, Nat.le_of_ble_eq_true rfl⟩

theorem imageRead (tag : Byte) (offset : Half) (count : Byte) : Statement (.imageRead tag offset count) := by
  intro w k t p h
  cases h
  exact ⟨rfl, Nat.le_of_ble_eq_true rfl⟩

theorem imageReadDone (changed : Changed) : Statement (.imageReadDone changed) := by
  intro w k t p h
  cases h

theorem imageWrite (tag : Byte) (offset : Half) (bytes : List Byte) : Statement (.imageWrite tag offset bytes) := by
  intro w k t p h
  cases h
  simp only [Instr.wellFormed, decide_eq_true_eq] at w
  exact ⟨by decide, by simp [Machine.halfBytes, Machine.half]; omega⟩

theorem imageWriteDone (changed : Changed) : Statement (.imageWriteDone changed) := by
  intro w k t p h
  cases h

theorem restart (tag : Byte) : Statement (.restart tag) := by
  intro w k t p h
  cases h
  exact ⟨rfl, Nat.le_of_ble_eq_true rfl⟩

theorem compensationEnable (tag : Byte) : Statement (.compensationEnable tag) := by
  intro w k t p h
  cases h
  exact ⟨rfl, Nat.le_of_ble_eq_true rfl⟩

theorem reportMask (tag : Byte) (mask : Byte) : Statement (.reportMask tag mask) := by
  intro w k t p h
  cases h
  exact ⟨rfl, Nat.le_of_ble_eq_true rfl⟩

theorem transmitDone : Statement (.transmitDone) := by
  intro w k t p h
  cases h

end Sys2Proof.Laws.Command
end

