-- ==== Sys2Proof/Tests/Slice0.lean ====
section
/-! SUPPORT. The checks of WellFormed, the worked values of the document, small steps of the machine, and for every
statement with hypotheses a witness that meets them. Expected values come from the document's worked examples and tables,
or by hand from its rules. -/

namespace Sys2Proof.Tests

open Sys2Proof Sys2Proof.Machine

/-! ## WellFormed refuses what cannot be given -/

theorem test_wf_powerUp : Instr.wellFormed (.powerUp 65) = false := by decide
theorem test_wf_changed : Instr.wellFormed (.imageLoadEnd ⟨[(4096, 0)], .nothing⟩) = false := by decide
theorem test_wf_readDone : Instr.wellFormed (.imageReadDone [(5000, 1)]) = false := by decide
theorem test_wf_noAnswer : Instr.wellFormed (.memoryNoAnswer 3 4 []) = false := by decide
theorem test_wf_slot : Instr.wellFormed (.slotExamination .f1 ⟨[⟨[], true⟩], false⟩ .nothing) = false := by decide
theorem test_wf_unknown_kind : Instr.wellFormed (.unknownRequest 0x16 (some 0) []) = false := by decide
theorem test_wf_unknown_long : Instr.wellFormed (.unknownRequest 0x17 (some 0) (List.replicate 249 0)) = false := by decide +kernel
theorem test_wf_unknown_tagless : Instr.wellFormed (.unknownRequest 0x17 none [1]) = false := by decide
theorem test_wf_lineFreq_row : Instr.wellFormed (.settingWrite 0 0x01 1 50) = false := by decide
theorem test_wf_enabled_row : Instr.wellFormed (.settingWrite 0 0x20 1 1) = false := by decide
theorem test_wf_class_long : Instr.wellFormed (.classWrite 0 0 800 6 (List.replicate 245 0)) = false := by decide +kernel
theorem test_wf_write_long : Instr.wellFormed (.imageWrite 0 0 (List.replicate 247 0)) = false := by decide +kernel
theorem test_wf_write : Instr.wellFormed (.imageWrite 0 0 [1, 2]) = true := by decide

/-! ## Worked values -/

/-- Section 1.2, index 24 and index 8. -/
theorem test_template : template 1600 24 .a = 1600 ∧ template 1600 24 .b = -800 ∧ template 1600 24 .c = -800 ∧
    template 1600 8 .a = 800 ∧ sine 88 = -1024 ∧ sine 72 = -2047 := by decide

/-- Section 1.5. -/
theorem test_perMille : perMille 1600 61440000 48 = 1000 ∧ perMille 1600 22118400 48 = 599 := by decide

/-- Section 1.6, indices 90 and 91 of the worked onset: phase B crosses the threshold at 91. -/
theorem test_deviation : template 1600 90 .b = -974 ∧ deviation Globals.default 90 .b (-584) = 390 ∧
    deviation Globals.default 91 .b (-633) = 422 ∧ Globals.default.fastThreshold = 400 := by decide

/-- Section 3.10. -/
theorem test_joules : joulesOf 86400000 194 = 999 ∧ quantaOf 999 100 = 10 ∧ joulesOf (-2000000) 194 = 0 ∧
    quantaOf 1000 100 = 10 ∧ quantaOf 1001 100 = 11 ∧ quantaOf 0 100 = 0 := by decide

/-- Section 4.1: the store values of 780 V and 450 V, and the limit of Q_avail. -/
theorem test_store : Globals.default.energyAt 780 = 1014750 ∧ Globals.default.quantaAt 780 = 10147 ∧
    Globals.default.energyAt 450 = 0 ∧ Globals.quantaAt { Globals.default with quantum := 10 } 1200 = 65535 ∧
    Globals.default.warnThreshold = 600 ∧ Globals.default.warnClear = 616 := by decide

/-- The class of the worked lookups of section 2.2. -/
def toolClass : EnvClass := ⟨800, [⟨20, 500⟩, ⟨50, 700⟩]⟩

theorem test_floorAt : toolClass.floorAt 0 = 500 ∧ toolClass.floorAt 19 = 500 ∧ toolClass.floorAt 20 = 700 ∧
    toolClass.floorAt 49 = 700 ∧ toolClass.floorAt 50 = 800 ∧ toolClass.floorAt 120 = 800 := by decide

/-- Section 2.2: the worked Class Write, and the image load's cut of a list that does not ascend. -/
theorem test_clampOrder :
    EnvClass.clampOrder ⟨800, [⟨20, 500⟩, ⟨50, 450⟩, ⟨80, 900⟩]⟩ = ⟨800, [⟨20, 500⟩, ⟨50, 500⟩, ⟨80, 800⟩]⟩ ∧
      EnvClass.load ⟨800, [⟨20, 500⟩, ⟨20, 700⟩]⟩ = ⟨800, [⟨20, 500⟩]⟩ := by decide

/-- Section 4.3. -/
theorem test_floorNeed : floorNeed 12 700 600 1000 = 3 ∧ floorNeed 9 850 600 1000 = 6 ∧ floorNeed 10 850 600 1000 = 7 ∧
    floorNeed 500 700 600 1000 = 125 ∧ floorNeed 7 950 920 900 = 7 := by decide

/-- The claims of the worked allocation of section 4.5. -/
def workedClaims : List Claim :=
  [⟨some .g1, 0, false, [⟨.f1, 350, true, 200⟩, ⟨.f2, 350, true, 200⟩]⟩, ⟨none, 1, false, [⟨.f3, 500, true, 250⟩]⟩,
    ⟨none, 2, true, [⟨.f4, 400, false, 200⟩]⟩]

theorem test_divide_floorFirst : (divide .floorFirst 300 1200 workedClaims).map (·.2) = [.full, .floor, .floor] ∧
    (divide .floorFirst 900 1200 workedClaims).map (·.2) = [.full, .floor, .none] := by decide
theorem test_divide_priorityFull : (divide .priorityFull 300 1200 workedClaims).map (·.2) = [.full, .full, .none] ∧
    (divide .priorityFull 900 1200 workedClaims).map (·.2) = [.full, .floor, .none] := by decide

/-- The check value of this CRC for the digits 1 to 9. -/
theorem test_crc16 : crc16 [0x31, 0x32, 0x33, 0x34, 0x35, 0x36, 0x37, 0x38, 0x39] = 0x29B1 := by decide +kernel

/-! ## Small states -/

/-- A part in RUNNING, as COMPENSATION_ENABLE leaves it with no feeder enabled. -/
def running : State := { State.reset with inReset := false, loader := ⟨.running, false, .none⟩ }

/-- The same part in CONFIGURING. -/
def configuring : State := { running with loader := ⟨.configuring, true, .none⟩ }

/-- A feeder put in a sequencer state, its port UP with a sound module at rest. -/
def withFeeder (s : State) (f : Feeder) (q : Sequencer) : State :=
  (s.setSeq f q).setPort f ⟨.up, 8, 0, some ⟨.idle, .closed, false, .none⟩, none, false, false⟩

/-- A sequencer in a state, with a phase and a timer. -/
def seqIn (st : FeederState) (ph : Option SeqPhase) (t : Option Timer) : Sequencer :=
  { Sequencer.reset with state := st, phase := ph, timer := t }

/-- A part whose measuring blocks are as given. -/
def measuring (t : Tracker) (m : Magnitude) (d : Detector) (v : Store) : State :=
  { running with tracker := t, magnitude := m, detector := d, store := v }

/-- A sample with the bus at zero, no load, a store of 700 V and every line high. -/
def still : SampleInput := ⟨Tri.all 0, Six.all (Tri.all 0), 700, Twelve.all true⟩

/-- A LOCKED tracker one sample before the boundary at index 48, its last crossing 47 samples ago. -/
def beforeBoundary : Tracker := ⟨.locked, 47, 0, some 100, true, 47, 47, true⟩

/-- Full windows of one value. -/
def windowsOf (v : Nat) : Magnitude :=
  { Magnitude.reset with windows := Tri.all ⟨List.replicate 48 (v : Int), 48 * v ^ 2⟩ }

/-- An open record. -/
def openRecord : Record := ⟨7, .rms, .compensable, none, none, 0, none, 700, 700, 7000, 0, []⟩

/-- A detector in a state, with t, dwell count and an open record or none. -/
def detectorIn (st : DetectorState) (t dwell : Nat) (r : Option Record) : Detector :=
  ⟨st, t, dwell, r, [], 8, false⟩

/-- The state a next outcome carries. -/
def after (o : Host.Outcome State Fault Refusal) : State :=
  match o with
  | .next s => s
  | .fault _ | .refused _ => State.reset

theorem measuring_takes (t : Tracker) (m : Magnitude) (d : Detector) (v : Store) (o : Orders) (h : o.holdingFirst = false)
    (k : o.lockedFirst = false) : (measuring t m d v).takesSample o :=
  ⟨rfl, ⟨rfl, rfl, fun f => by cases f <;> rfl, fun l => by cases l <;> rfl⟩, h, k⟩

theorem running_takes : running.takesRequests := ⟨rfl, by decide, rfl, by decide⟩
theorem configuring_takes : configuring.takesRequests := ⟨rfl, by decide, rfl, by decide⟩
theorem withFeeder_takes (f : Feeder) (q : Sequencer) : (withFeeder running f q).takesRequests :=
  ⟨rfl, running_takes.2.1, rfl, running_takes.2.2.2⟩

/-! ## Small steps -/

/-- Section 9.2, the worked frame: TAKE_IF_FREE on feeder 2 in STANDBY with tag 0x31. -/
theorem test_hold_frame :
    let t := after (receive .nothing (frame 0x06 0x31 [2, 2]) (withFeeder running .f2 (seqIn .standby none none)))
    t.holds.get .f2 = 1 ∧ (t.seq.get .f2).state = .held ∧ t.link.tx = some (.reply ⟨0x06, 0x31, .ok, [2, 0, 1]⟩) := by
  decide +kernel

/-- Section 9.2: a byte corrupted on the line leaves the count 0 and no reply. -/
theorem test_hold_frame_corrupted :
    let t := after (receive .nothing [0xA5, 4, 0x06, 0x31, 3, 2, 0, 0] (withFeeder running .f2 (seqIn .standby none none)))
    t.holds.get .f3 = 0 ∧ t.link.tx = none ∧ t.link.asm = .hunting := by decide +kernel

/-- Section 5.2: START is answered RUNNING. -/
theorem test_running_status :
    let s := withFeeder running .f1 (seqIn .arming none (some ⟨.arm, 3, false⟩))
    let t := after (exec (.slotExamination .f1 ⟨[⟨[2, 0, 0, 0, 254], true⟩], false⟩ .nothing) s)
    (t.seq.get .f1).state = .injecting ∧ (t.port.get .f1).status = some ⟨.running, .closed, false, .none⟩ := by
  decide +kernel

/-- Section 6.4: a record whose bytes do not sum to 0 is no good record. -/
theorem test_bad_status :
    let s := withFeeder running .f1 (seqIn .arming none (some ⟨.arm, 3, false⟩))
    let t := after (exec (.slotExamination .f1 ⟨[⟨[2, 0, 0, 0, 253], true⟩], false⟩ .nothing) s)
    (t.seq.get .f1).state = .arming ∧ (t.port.get .f1).miss = 1 := by decide +kernel

/-- Section 11.2: codes outside their sets name nothing. -/
theorem test_codes_outside : EventCode.ofCode? 9 = none ∧ EventCode.ofCode? 15 = none ∧ EventCode.ofCode? 32 = none ∧
    EventCode.ofCode? 255 = none ∧ FaultKind.ofCode? 5 = none ∧ ModuleState.ofCode? 5 = none ∧
    BypassPosition.ofCode? 3 = none ∧ parseStatus [0, 0, 0, 5, 251] = none ∧ HoldOp.ofCode? 7 = none := by decide

/-- Section 1.1: 65536 counts are beyond the converter. -/
theorem test_sample_limits :
    let t := after (exec (.sampleSet { still with bus := ⟨65536, -65536, 5⟩, store := 1300 } Orders.plain) running)
    t.sample.map (·.bus) = some ⟨2047, -2048, 5⟩ ∧ t.store.volts = some 1200 := by decide +kernel

/-- A LOCKED tracker at an index, with a crossing to come, after one sample set with the bus at 0. -/
def crossingAt (i : Nat) : Tracker :=
  (after (exec (.sampleSet still Orders.plain)
    (measuring ⟨.locked, i, 0, some (-5), true, 5, 44, true⟩ Magnitude.reset Detector.reset Store.reset))).tracker

/-- Section 1.3: a crossing at indices 93 and 3 is in the window, at 92 and 4 a first miss. -/
theorem test_crossing_window : ((crossingAt 92).miss, (crossingAt 92).index) = (0, 0) ∧
    ((crossingAt 2).miss, (crossingAt 2).index) = (0, 0) ∧ ((crossingAt 91).miss, (crossingAt 91).index) = (1, 92) ∧
    ((crossingAt 3).miss, (crossingAt 3).index) = (1, 4) := by decide +kernel

/-- Section 1.4: index 48 is a boundary 45 sample instants after the last one, not 44. -/
theorem test_boundary_gap :
    let s (n : Nat) := measuring ⟨.locked, 47, 0, some 100, true, 47, n, true⟩ Magnitude.reset Detector.reset Store.reset
    (s 44).boundaryAfter still = true ∧ (s 43).boundaryAfter still = false := by decide

/-- Windows of n samples of the value 1131. -/
def windowsOfLength (n : Nat) : Magnitude :=
  { Magnitude.reset with windows := Tri.all ⟨List.replicate n 1131, n * 1131 ^ 2⟩ }

/-- Section 1.5: V_ret is valid from the 48th sample on. -/
theorem test_window_fills :
    let s (n : Nat) := measuring Tracker.reset (windowsOfLength n) Detector.reset Store.reset
    (s 46).vretAfter still Orders.plain = none ∧ (s 47).vretAfter still Orders.plain = some 989 := by decide +kernel

/-- Section 4.2, at the thresholds 600, 616, 880 and 870 of the defaults and at STORE_RATED: which states change. -/
theorem test_store_thresholds :
    let store (warning high : Bool) (v : Int) : Store := (after (exec (.sampleSet { still with store := v } Orders.plain)
      (measuring Tracker.reset Magnitude.reset Detector.reset
        { Store.reset with warning := warning, overVoltage := high }))).store
    ((store false false 600).warning, (store false false 599).warning) = (false, true) ∧
      ((store true false 616).warning, (store true false 615).warning) = (false, true) ∧
      ((store false false 880).overVoltage, (store false false 881).overVoltage) = (false, true) ∧
      ((store false true 870).overVoltage, (store false true 871).overVoltage) = (false, true) ∧
      ((store false false 800).charger, (store false false 799).charger) = (false, true) := by decide +kernel

/-- Section 2.1: the trip of section 1.6 opens a FAST onset, compensable in RUNNING, and the tracker holds. -/
theorem test_fast_trip :
    let s := { measuring ⟨.locked, 23, 0, some 100, true, 23, 23, true⟩ Magnitude.reset Detector.reset Store.reset with
      comparator := ⟨⟨2, 0, 0⟩, Tri.all false⟩ }
    let t := after (exec (.fastTrip still Orders.plain) s)
    t.detector.state = .active ∧ t.tracker.state = .holding ∧
      t.detector.record.map (fun r => (r.number, r.cause, r.comp)) = some (1, .fast, .compensable) := by decide +kernel

/-- Section 2.1: the dwell completes at this boundary. -/
theorem test_recovered :
    let s := measuring beforeBoundary (windowsOf 1131) (detectorIn .dwell 5 1 (some openRecord)) Store.reset
    let t := after (exec (.recovered still Orders.plain) s)
    t.detector.state = .clear ∧ t.detector.t = 6 ∧ t.store.delay = 10 ∧
      t.detector.table.map (fun r => (r.number, r.endCause, r.duration)) = [(7, some .recovered, 6)] := by decide +kernel

/-- Section 10.2: RESET_END with IMAGE_SRC high, from reset. -/
theorem test_reset_end :
    let t := after (exec (.resetEnd true true) State.reset)
    t.loader.op = .configuring ∧ t.straps.linkRate = true ∧ t.inReset = false := by decide +kernel

/-- Section 10.3: an erased memory is a faulty image. -/
theorem test_load_faulty :
    let t := after (exec (.imageLoadEnd ⟨[], .nothing⟩) (after (exec (.resetEnd false false) State.reset)))
    t.loader.op = .configuring ∧ t.loader.imageFault = true := by decide +kernel

/-- A good image of 16 bytes (section 11.6): the header, then LINE_FREQ 60, NOMINAL_PEAK 1000, ONSET_LEVEL 900 and two
items of 0. Its CRC was worked out apart from the model. -/
def smallImage : List Host.Cell :=
  [(0, 0x5A), (1, 0xC3), (2, 0), (3, 16), (4, 0x86), (5, 0x26), (6, 0), (7, 60), (8, 0x03), (9, 0xE8), (10, 0x03),
    (11, 0x84), (12, 0), (13, 0), (14, 0), (15, 0)]

/-- Section 10.3: a good image enters RUNNING with its values; an item below its range is clamped, an absent one is at
its default. -/
theorem test_load_good :
    let t := after (exec (.imageLoadEnd ⟨[], .nothing⟩) (after (exec (.resetEnd false false) { State.reset with image := smallImage })))
    t.loader.op = .running ∧ t.globals.lineFreq = .hz60 ∧ t.globals.nominalPeak = 1000 ∧ t.globals.recoveryLevel = 520 ∧
      t.globals.onsetLevel = 500 ∧ t.globals.recoveryDwell = 1 ∧ t.globals.fastFraction = 4 := by decide +kernel

/-- Section 11.7: STORE_FLOOR and the two voltages above it, from items beyond their ranges. -/
theorem test_load_store :
    let g := loadGlobals fun i => if i = 0x0B then some 65535 else some 0
    g.storeFloor = 1100 ∧ g.storeRated = 1150 ∧ g.storeMax = 1150 := by decide

/-! ## Witnesses: states and operands that meet the hypotheses of each statement -/

/-- An Image Write, an Image Read and a Restart in service. -/
def writing : State := { running with
  link := { Link.reset with service := some (.imageWrite 9 16 [1, 2]) }, loader := ⟨.running, false, .write⟩ }
def readingImage : State := { running with
  link := { Link.reset with service := some (.imageRead 9 4095 1) }, loader := ⟨.running, false, .read⟩ }
def restarting : State := { running with
  link := { Link.reset with service := some (.restart 5), tx := some (.reply ⟨0x14, 5, .ok, []⟩) } }
def loading (m : List Host.Cell) : State := { State.reset with
  inReset := false, loader := ⟨.loading, false, .load⟩, image := m }

theorem witness_StepTakesFrontCommand :
    State.pending { running with pending := [.identify 1, .restart 2] } = [.identify 1, .restart 2] ∧
      running.pending = [] := by decide

theorem witness_PowerUpAndResetPinHoldEveryBlock :
    (∀ tag offset bytes, running.link.service ≠ some (.imageWrite tag offset bytes)) ∧
      (writing.link.service = some (.imageWrite 9 16 [1, 2]) ∧ memWf writing.image = true ∧ 16 + 2 ≤ 4096) :=
  ⟨nofun, rfl, rfl, by decide⟩

theorem witness_ResetEndGoesOnByImageSource : State.reset.inReset = true := rfl

theorem witness_RestartResetsAsTheResetPin :
    restarting.link.service = some (.restart 5) ∧ restarting.link.tx = some (.reply ⟨0x14, 5, .ok, []⟩) := ⟨rfl, rfl⟩

/-- A good image and a faulty one. -/
theorem witness_ImageLoadEndSettlesTheOperatingState :
    ((loading smallImage).inReset = false ∧ (loading smallImage).loader.memOp = .load ∧ imageGood smallImage = true) ∧
      ((loading []).inReset = false ∧ (loading []).loader.memOp = .load ∧ imageGood [] = false) := by decide +kernel

/-- Items at the ends of their ranges, an enumeration's value, and an absent item. -/
theorem witness_LoadedSettingsLieInTheirRanges :
    let v : Nat → Option Nat := fun i =>
      if i = 0x01 then some 60 else if i = 0x02 then some 255 else if i = 0x15 then some 193 else none
    let g := loadGlobals v
    (SettingId.ofCode? 0x02 = some .nominalPeak ∧ SettingId.nominalPeak.perFeeder = false ∧
        SettingId.nominalPeak.range g = some (256, 2000) ∧ v 0x02 = some 255) ∧
      (SettingId.ofCode? 0x15 = some .stopTimeout ∧ SettingId.stopTimeout.range g = some (8, 192) ∧ v 0x15 = some 193) ∧
      (SettingId.ofCode? 0x01 = some .lineFreq ∧ SettingId.lineFreq.range g = none ∧ v 0x01 = some 60) ∧
      v 0x12 = none := by decide

/-- A load; an Image Read; an Image Write cut short, and one written whole and not read back. -/
theorem witness_MemoryNoAnswerEndsTheOperation :
    ((loading []).inReset = false ∧ (loading []).loader.memOp = .load ∧ (loading []).link.service = none) ∧
      readingImage.link.service = some (.imageRead 9 4095 1) ∧
      (writing.link.service = some (.imageWrite 9 16 [1, 2]) ∧ memWf writing.image = true) ∧
      (1 ≤ 2 ∧ 0 < 2 ∧ (1 < 2 → 0 = 0)) ∧ (2 ≤ 2 ∧ 1 < 2 ∧ (2 < 2 → 1 = 0)) := by decide

/-- Counts and lengths on either side of the refusals, up to the last byte of the memory. -/
theorem witness_ImageRequestsAreRefusedOrTakenIntoService : running.takesRequests ∧
    (64 < (65 : Byte).toNat ∧ 4096 < (4095 : Half).toNat + (2 : Byte).toNat) ∧
      (1 ≤ (1 : Byte).toNat ∧ (1 : Byte).toNat ≤ 64 ∧ (4095 : Half).toNat + (1 : Byte).toNat ≤ 4096) ∧
      ([] : List Byte).length = 0 ∧ 4096 < (4095 : Half).toNat + [(1 : Byte), 2].length ∧
      (4094 : Half).toNat + [(1 : Byte), 2].length ≤ 4096 := ⟨running_takes, by decide⟩

theorem witness_ImageCommandsEndWithTheirReply :
    readingImage.link.service = some (.imageRead 9 4095 1) ∧
      (writing.link.service = some (.imageWrite 9 16 [1, 2]) ∧ memWf writing.image = true ∧ 16 + 2 ≤ 4096) ∧
      ([(1 : Byte), 2][1]? = some 2 ∧ (3 : Byte) ≠ 2) := by decide

theorem witness_SampleSetLimitsInputsAndMeasuresStore : State.reset.sampling = false ∧ running.sampling = true := ⟨rfl, rfl⟩

theorem witness_InstantEventsFrame : Instr.ofLine (.portUp .f1 ⟨[], false⟩ .nothing) = true := rfl

/-- Empty windows, and full ones; the 47th sample and the 48th; a boundary and an instant that is none. -/
theorem witness_MagnitudesFollowTheWindows :
    let total (l : List Int) := (l.map fun v => v.natAbs ^ 2).sum
    let good (m : Magnitude) := ∀ p, (m.windows.get p).samples.length ≤ 48 ∧
      (m.windows.get p).sum = total (m.windows.get p).samples
    let new (m : Magnitude) (p : Phase) :=
      ((m.windows.get p).samples ++ [(0 : Int)]).drop ((m.windows.get p).samples.length - 47)
    running.sampling = true ∧ (good Magnitude.reset ∧ good (windowsOfLength 46) ∧ good (windowsOfLength 47) ∧
      good (windowsOf 1131)) ∧
      ((new (windowsOfLength 46) .a).length < 48 ∧ ∀ p, (new (windowsOfLength 47) p).length = 48) ∧
      ((measuring beforeBoundary (windowsOfLength 47) Detector.reset Store.reset).takesSample Orders.plain ∧
        (measuring beforeBoundary (windowsOfLength 47) Detector.reset Store.reset).boundaryAfter still = true ∧
        (measuring Tracker.reset (windowsOfLength 47) Detector.reset Store.reset).boundaryAfter still = false) := by
  refine ⟨rfl, ⟨fun p => ?_, fun p => ?_, fun p => ?_, fun p => ?_⟩, ⟨by decide +kernel, fun p => ?_⟩,
    measuring_takes _ _ _ _ _ rfl rfl, by decide⟩ <;> cases p <;> decide +kernel

/-- A crossing in each state, at the edges of the window and of the spacings that lock on; a candidate index outside the
window after a miss; no crossing below the silence and in HOLDING; the shortest spacing of a boundary. -/
theorem witness_TrackerIndexFollowsTheCrossings :
    let t (st : TrackerState) (i miss : Nat) (p : Int) (d : Nat) : Tracker := ⟨st, i, miss, some p, true, d, 44, true⟩
    (∀ q, (measuring q Magnitude.reset Detector.reset Store.reset).takesSample Orders.plain) ∧
      ((-5 : Int) < 0 ∧ 0 ≤ (SampleSet.ofInput still).bus.a) ∧
      (93 ≤ ((t .locked 92 0 (-5) 9).index + 1) % 96 ∧ ((t .locked 2 0 (-5) 9).index + 1) % 96 ≤ 3) ∧
      (¬ (93 ≤ ((t .locked 3 1 (-5) 9).index + 1) % 96 ∨ ((t .locked 3 1 (-5) 9).index + 1) % 96 ≤ 3) ∧
        1 ≤ (t .locked 3 1 (-5) 9).miss ∧ (t .locked 3 0 (-5) 9).miss = 0) ∧
      ((t .seeking 9 0 (-5) 92).remembered = true ∧ 93 ≤ min ((t .seeking 9 0 (-5) 92).spacing + 1) 255 ∧
        min ((t .seeking 9 0 (-5) 98).spacing + 1) 255 ≤ 99 ∧ ¬ min ((t .seeking 9 0 (-5) 99).spacing + 1) 255 ≤ 99) ∧
      (¬ (5 : Int) < 0 ∧ min ((t .locked 9 0 5 142).spacing + 1) 255 < 144) ∧ (t .holding 9 0 5 9).state = .holding ∧
      (measuring (t .locked 47 0 5 9) Magnitude.reset Detector.reset Store.reset).boundaryAfter still = true :=
  ⟨fun _ => measuring_takes _ _ _ _ _ rfl rfl, by decide⟩

/-- A second miss at indices 4 and 92, just outside the window; a spacing count that reaches 144. -/
theorem witness_MissesAndSilenceReturnTrackerToSeeking :
    let t (i : Nat) : Tracker := ⟨.locked, i, 1, some (-5), true, 3, 3, true⟩
    let u : Tracker := ⟨.locked, 50, 0, some 5, true, 143, 50, true⟩
    (∀ i, (measuring (t i) Magnitude.reset Detector.reset Store.reset).takesSample Orders.plain) ∧
    ((t 3).state = .locked ∧ (t 3).prevA = some (-5) ∧ (-5 : Int) < 0 ∧ 0 ≤ (SampleSet.ofInput still).bus.a ∧
      (3 < ((t 3).index + 1) % 96 ∧ ((t 91).index + 1) % 96 < 93) ∧ 1 ≤ (t 3).miss) ∧
    (measuring u Magnitude.reset Detector.reset Store.reset).takesSample Orders.plain ∧ u.state = .locked ∧
      (∀ p, u.prevA = some p → 0 ≤ p ∨ (SampleSet.ofInput still).bus.a < 0) ∧ 143 ≤ u.spacing :=
  ⟨fun _ => measuring_takes _ _ _ _ _ rfl rfl, by decide, measuring_takes _ _ _ _ _ rfl rfl, rfl,
    fun p h => .inl (by cases h; decide), by decide⟩

/-- A boundary and an instant that is none, and a record in force, formed in INJECTING and clamped, beside a feeder without
one. -/
theorem witness_BoundaryClosesHalfCycle :
    let s (t : Tracker) : State := { (measuring t Magnitude.reset Detector.reset Store.reset).setPort .f1
        ⟨.up, 8, 0, none, some ⟨.run, .open, ⟨7, 0, 0⟩⟩, false, false⟩ with
      gen := running.gen.set .f1 { running.gen.get .f1 with refs := ⟨7, 0, 0⟩, tag := .injecting, clamped := true } }
    (∀ t, (s t).takesSample Orders.plain) ∧ (s beforeBoundary).boundaryAfter still = true ∧
      (s Tracker.reset).boundaryAfter still = false ∧
      (((s beforeBoundary).port.get .f1).sent.isSome = true ∧ ((s beforeBoundary).gen.get .f1).tag = .injecting ∧
        ((s beforeBoundary).gen.get .f1).clamped = true) ∧ ((s beforeBoundary).port.get .f2).sent.isSome = false :=
  ⟨fun _ => ⟨rfl, ⟨rfl, rfl, fun f => by cases f <;> rfl, fun l => by cases l <;> rfl⟩, rfl, rfl⟩, by decide⟩

/-- Either store state, with charger enable formed early and late, at each threshold. -/
theorem witness_StoreStatesFollowTheirLevels :
    let s := measuring beforeBoundary Magnitude.reset Detector.reset Store.reset
    let u := measuring beforeBoundary Magnitude.reset Detector.reset { Store.reset with warning := true, overVoltage := true }
    let early : Orders := { Orders.plain with storeEarly := true }
    let v (n : Int) : Nat := (SampleSet.ofInput { still with store := n }).store
    (s.takesSample Orders.plain ∧ s.globals.storeWarnSel ≤ 7 ∧ 10 ≤ s.globals.storeMax ∧ s.store.warning = false ∧
      s.store.overVoltage = false ∧ Orders.plain.storeEarly = false ∧ ∀ l, Orders.plain.line.get l ≠ .last) ∧
    (u.takesSample early ∧ u.store.warning = true ∧ u.store.overVoltage = true ∧ early.storeEarly = true) ∧
    (v 600 = 800 * (55 + 5 * 4) / 100 ∧ v 616 = 600 + 800 / 50 ∧ v 880 = s.globals.storeMax ∧
      v 870 = s.globals.storeMax - 10) :=
  ⟨⟨measuring_takes _ _ _ _ _ rfl rfl, by decide, by decide, rfl, rfl, rfl, fun l => by cases l <;> decide⟩,
    ⟨measuring_takes _ _ _ _ _ rfl rfl, by decide⟩, by decide⟩

/-- Boundaries outside an event and in one that goes on, with the delay at 1, and an instant that is no boundary. -/
theorem witness_RechargeDelayCountsDownAtBoundaries :
    let s (t : Tracker) (d : Detector) := measuring t (windowsOf 600) d { Store.reset with delay := 1 }
    let u := s beforeBoundary (detectorIn .active 5 0 (some openRecord))
    (∀ t d, (s t d).takesSample Orders.plain) ∧
      ((s beforeBoundary Detector.reset).boundaryAfter still = true ∧ (s beforeBoundary Detector.reset).eventOpen = false ∧
        (s beforeBoundary Detector.reset).store.delay = 1) ∧
      (u.boundaryAfter still = true ∧ u.eventOpen = true ∧
        (after (exec (.sampleSet still Orders.plain) u)).eventOpen = true) ∧
      (s Tracker.reset Detector.reset).boundaryAfter still = false :=
  ⟨fun _ _ => measuring_takes _ _ _ _ _ rfl rfl, by decide +kernel⟩

/-- R57, R59: a record formed in INJECTING whose port then goes QUIET draws at the next sample instant and at no later one. -/
theorem test_record_of_quiet_port :
    let load : Tri Int := ⟨10, 0, 0⟩
    let x : SampleInput := { still with load := Six.all load }
    let s : State := { running.setPort .f1 ⟨.quiet, 0, 0, none, some ⟨.run, .open, ⟨7, 0, 0⟩⟩, false, false⟩ with
      gen := running.gen.set .f1 { running.gen.get .f1 with refs := ⟨7, 0, 0⟩, tag := .injecting } }
    let t := after (exec (.sampleSet x Orders.plain) s)
    let u := after (exec (.sampleSet x Orders.plain) t)
    (t.gen.get .f1).draw = 70 ∧ (u.gen.get .f1).draw = 70 ∧ (u.magnitude.sums.get .f1).a = 49 := by decide +kernel

/-- A QUIET port; and a sending port in each state and phase that R94 tabulates, and in each mode, at an instant that leaves
them. -/
theorem witness_ReferenceRecordsFollowTheStateWithinTheLimit :
    let s (st : FeederState) (ph : Option SeqPhase) (m : Option Mode) : State :=
      withFeeder running .f1 { seqIn st ph none with mode := m }
    let stays (st : FeederState) (ph : Option SeqPhase) (m : Option Mode) : Prop :=
      let t := after (exec (.sampleSet still Orders.plain) (s st ph m))
      (t.seq.get .f1).state = st ∧ (t.seq.get .f1).phase = ph ∧ (t.seq.get .f1).mode = m ∧ t.detector.t = 0
    (running.sampling = true ∧ (running.port.get .f1).state = .quiet) ∧
      (∀ st ph m, (s st ph m).sampling = true ∧ ((s st ph m).port.get .f1).state ≠ .quiet ∧ (s st ph m).settled) ∧
      stays .standby none none ∧ stays .held none none ∧ stays .arming none (some .full) ∧
      stays .injecting none (some .floor) ∧ stays .releasing (some .closing) none ∧
      stays .faulted (some .handingOver) none ∧ stays .releasing (some .stopping) none ∧
      stays .faulted (some .settled) none :=
  ⟨by decide, fun _ _ _ => ⟨rfl, nofun, rfl, rfl, fun f => by cases f <;> rfl, fun l => by cases l <;> rfl⟩,
    by decide +kernel⟩

/-- A state about to trip: phase A two instants above the threshold, and the tracker LOCKED near its peak. -/
def tripping : State :=
  { measuring ⟨.locked, 23, 0, some 100, true, 23, 23, true⟩ Magnitude.reset Detector.reset Store.reset with
    comparator := ⟨⟨2, 0, 0⟩, Tri.all false⟩ }

theorem tripping_takes : tripping.takesSample Orders.plain :=
  ⟨rfl, ⟨rfl, rfl, fun f => by cases f <;> rfl, fun l => by cases l <;> rfl⟩, rfl, rfl⟩

/-- A trip, a V_ret below ONSET_LEVEL without one, and an onset by it whose request for HOLDING comes first. -/
theorem witness_OnsetOpensAnEvent :
    let u (t : Tracker) := measuring t (windowsOf 600) Detector.reset Store.reset
    let first : Orders := { Orders.plain with holdingFirst := true }
    (tripping.takesSample Orders.plain ∧ tripping.detector.state = .clear ∧
        (tripping.comparatorAfter still Orders.plain).trips = true ∧ (tripping.trackerAfter still).state = .locked ∧
        400 < (template 1600 24 .a - 0).natAbs ∧ ¬ 400 < (template 1600 24 .a - 1600).natAbs) ∧
      ((u Tracker.reset).takesSample Orders.plain ∧ (u Tracker.reset).detector.state = .clear ∧
        ((u Tracker.reset).comparatorAfter still Orders.plain).trips = false ∧
        ((u Tracker.reset).trackerAfter still).state = .seeking ∧
        (u Tracker.reset).vretAfter still Orders.plain = some 524 ∧ 524 < 900) ∧
      ((u beforeBoundary).sampling = true ∧ (u beforeBoundary).settled ∧ first.holdingFirst = true ∧
        (u beforeBoundary).vretAfter still first = some 524 ∧ (u beforeBoundary).tracker.state = .locked ∧
        (u Tracker.reset).tracker.state = .seeking) :=
  ⟨⟨tripping_takes, by decide +kernel⟩, ⟨measuring_takes _ _ _ _ _ rfl rfl, by decide +kernel⟩, rfl,
    (measuring_takes _ _ _ _ Orders.plain rfl rfl).2.1, by decide +kernel⟩

/-- The event of R142: a refusal that the group table takes after the division and before the notices. A member of an ACTIVE
group has its bypass stuck before the read, the other is a participant of a starved unit: it is released STARVED, no
GROUP_ABANDON reaching it before its grant (R73, R88), and the abandon cause stays MEMBER_RELEASED. -/
def refusedAtBoundary (v : Nat) (place : RefusalPlace) : State :=
  let pair : FeederSet := ⟨false, true, true, false, false, false⟩
  let s := measuring beforeBoundary (windowsOf v) (detectorIn .active 5 0 (some openRecord)) Store.reset
  let s := withFeeder (withFeeder s .f2 (seqIn .injecting none (some ⟨.bypass, 1, false⟩))) .f3 (seqIn .injecting none none)
  after (exec (.sampleSet { still with store := 0 } { Orders.plain with refusals := place })
    (s.setGroup .g1 { Group.default with members := pair, engaged := pair, state := .active }))

theorem test_refusal_between_division_and_grants :
    let t := refusedAtBoundary 600 .between
    (t.groups.get .g1).abandonCause = some .memberReleased ∧ (t.seq.get .f3).releaseCause = some .starved := by
  decide +kernel

/-- R138, R143: the notice that a group's participants were not needed after a refusal, which has abandoned the group, and
before it. -/
theorem test_not_needed_notice_and_refusal :
    ((refusedAtBoundary 1131 .between).groups.get .g1).state = .abandoned ∧
      ((refusedAtBoundary 1131 .after).groups.get .g1).state = .idle := by decide +kernel

/-- R177: an expiry of the previous instant reports at an idle transmitter before a choice that waits for a reply of the
present instant. -/
theorem test_report_left_over_is_sent :
    let s := withFeeder running .f1 (seqIn .releasing (some .stopping) (some ⟨.stop, 0, false⟩))
    (after (exec (.sampleSet still { Orders.plain with choiceLeft := true }) s)).link.tx.isSome = true := by decide +kernel

/-- One group alone has members, and its engaged set lies within them. -/
theorem oneGroup_ok (r : Group) (e : ∀ f, r.engaged.get f = true → r.members.get f = true) :
    groupsDisjoint ((Four.all Group.default).set .g1 r) ∧ engagedWithin ((Four.all Group.default).set .g1 r) := by
  refine ⟨fun g h f a b => ?_, fun g f a => ?_⟩
  · cases g <;> cases h <;> first
      | rfl
      | (cases f <;> first
          | exact absurd (show false = true from a) (by decide)
          | exact absurd (show false = true from b) (by decide))
  · cases g <;> first
      | exact e f a
      | (cases f <;> exact absurd (show false = true from a) (by decide))

/-- A compensable FAST onset with an ungrouped available feeder and a group in IDLE; an RMS onset, V_ret below an immunity
and at one; an EXTERNAL onset; boundaries of a compensable event that goes on, V_ret below every immunity and above it,
with an ungrouped participant, an engaged group, and an available member of a group in IDLE that requires all. -/
theorem witness_AllocationPointsDivideTheStore :
    let pair : FeederSet := ⟨false, true, true, false, false, false⟩
    let feeders (s : State) (st : FeederState) : State :=
      withFeeder (withFeeder (withFeeder s .f1 (seqIn st none none)) .f2 (seqIn st none none)) .f3 (seqIn st none none)
    let s := (feeders tripping .standby).setGroup .g1 { Group.default with members := pair }
    let u (v : Nat) := (feeders (measuring beforeBoundary (windowsOf v) (detectorIn .active 5 0 (some openRecord)) Store.reset)
      .injecting).setGroup .g1 { Group.default with members := pair, engaged := pair, state := .active }
    let apart : Orders := { Orders.plain with expiry := Six.all .apart, line := Twelve.all .apart }
    let low := measuring beforeBoundary (windowsOf 600) Detector.reset Store.reset
    let rms := (feeders { low with classes := { low.classes with
      classes := low.classes.classes.set .c1 ⟨524, []⟩
      banks := low.classes.banks.set .b0 ((low.classes.banks.get .b0).set .f1 ⟨.c1, 0⟩) } } .standby).setGroup .g1
        { Group.default with members := pair }
    let trigger : LineState := ⟨.extTrigger, some false, some 4, some true, none⟩
    let ext := rms.setLine .sl1 trigger
    let idle := (withFeeder (u 600) .f4 (seqIn .standby none none)).setGroup .g2
      { Group.default with members := ⟨false, false, false, true, true, false⟩, requireAll := true }
    (s.takesSample apart ∧ quiet apart) ∧
      (s.detector.state = .clear ∧ s.loader.op = .running ∧ (s.trackerAfter still).state = .locked ∧
        (s.comparatorAfter still apart).trips = true ∧ s.groupOf .f1 = none ∧ s.available .f1 = true ∧
        (s.available .f4 = false ∧ s.participant .f4 = false) ∧ (s.groups.get .g1).state = .idle ∧
        (s.groups.get .g1).members.members.filter s.available = [.f2, .f3]) ∧
      ((rms.takesSample apart ∧ rms.detector.state = .clear ∧ rms.loader.op = .running ∧
          (rms.trackerAfter still).state ≠ .seeking ∧ (rms.comparatorAfter still apart).trips = false ∧
          rms.vretAfter still apart = some 524 ∧ 524 < (rms.globalsAt apart).onsetLevel ∧ rms.available .f1 = true ∧
          ((rms.valuesAt false).classOf .f1).immunity = 524 ∧ 524 < ((rms.valuesAt false).classOf .f2).immunity) ∧
        ((ext.lines.get .sl1).acceptanceDue = true ∧ ext.lines.get .sl1 = trigger ∧ ext.detector.clearedNow = false ∧
          ext.tracker.state ≠ .seeking) ∧ groupsDisjoint rms.groups ∧ engagedWithin rms.groups) ∧
      (idle.boundaryAfter still = true ∧ (idle.groups.get .g2).state = .idle ∧ (idle.groups.get .g2).requireAll = true ∧
        (idle.groups.get .g2).members.members.filter idle.available = [.f4]) ∧
      (∀ v, (u v).takesSample apart ∧ groupsDisjoint (u v).groups ∧ engagedWithin (u v).groups) ∧
      ((u 600).boundaryAfter still = true ∧ (u 600).eventOpen = true ∧ (u 600).detector.record = some openRecord ∧
        openRecord.comp = .compensable ∧ (u 600).vretAfter still apart = some 524 ∧
        (after (exec (.sampleSet still apart) (u 600))).eventOpen = true ∧ (u 600).participant .f1 = true ∧
        (u 600).groupOf .f1 = none ∧ ((u 600).groups.get .g1).engaged.members.filter (u 600).participant = [.f2, .f3] ∧
        ¬ (((u 600).valuesAt false).classOf .f2).immunity ≤ 524) ∧
      ((u 1131).vretAfter still apart = some 989 ∧ (((u 1131).valuesAt false).classOf .f1).immunity ≤ 989 ∧
        (after (exec (.sampleSet still apart) (u 1131))).eventOpen = true) := by
  refine ⟨⟨⟨rfl, ⟨rfl, rfl, fun f => by cases f <;> rfl, fun l => by cases l <;> rfl⟩, rfl, rfl⟩,
      fun l => by cases l <;> rfl, fun f => by cases f <;> rfl⟩, by decide +kernel,
    ⟨⟨⟨rfl, ⟨rfl, rfl, fun f => by cases f <;> rfl, fun l => by cases l <;> rfl⟩, rfl, rfl⟩, by decide +kernel⟩,
      by decide +kernel, oneGroup_ok _ fun f h => by cases f <;> exact absurd (show false = true from h) (by decide)⟩,
    by decide +kernel, fun v => ⟨⟨rfl, ⟨rfl, rfl, fun f => by cases f <;> rfl, fun l => by cases l <;> rfl⟩, rfl, rfl⟩,
      oneGroup_ok _ fun _ h => h⟩, by decide +kernel, by decide +kernel⟩

/-- R76: a feeder for each row of the table of stood-by reasons, at a point whose one unit, of feeder 6, is granted NONE. -/
theorem witness_standsBecause :
    let q (st : FeederState) : Sequencer := seqIn st none none
    let s := withFeeder (withFeeder (withFeeder (withFeeder (withFeeder (withFeeder running .f1 (q .held)) .f2 (q .faulted))
      .f3 (q .releasing)) .f4 (q .standby)) .f5 (q .standby)) .f6 (q .standby)
    let s := s.setGroup .g1 { Group.default with members := ⟨false, false, false, false, true, false⟩, state := .abandoned }
    let m : Summary := ⟨8, .onset .rms, some 524, 0, .floorFirst, 0, 0, 0,
      [⟨none, 0, true, [⟨.f6, 10, false, 4⟩], 10, 4, .none, 0⟩]⟩
    let takes (f : Feeder) : Prop := f = .f6
    s.standsBecause m takes .f1 .held ∧ s.standsBecause m takes .f2 .faulted ∧ s.standsBecause m takes .f3 .barred ∧
      s.standsBecause m takes .f4 .notNeeded ∧ s.standsBecause m takes .f5 .groupIncomplete ∧
      s.standsBecause m takes .f6 .starvedAtEntry := by
  refine ⟨rfl, .inl rfl, .inl rfl, ⟨rfl, nofun, by simp [Summary.names], fun g h => ?_⟩,
    ⟨rfl, by simp [Summary.names], .g1, by decide, .inr (by decide)⟩, ⟨rfl, by simp⟩⟩
  cases g <;> exact absurd h (by decide)

/-- An open event with V_ret at a value that the dwell reaches, its tracker and detector as given. -/
def recovering (t : Tracker) (st : DetectorState) (dwell : Nat) : State :=
  measuring t (windowsOf 1131) (detectorIn st 5 dwell (some openRecord)) Store.reset

/-- Orders that leave every acceptance and expiry of the instant to commands of their own. -/
def apartOrders : Orders := { Orders.plain with expiry := Six.all .apart, line := Twelve.all .apart }

theorem apartOrders_quiet : quiet apartOrders := ⟨fun l => by cases l <;> rfl, fun f => by cases f <;> rfl⟩

/-- The end of an event with feeder 1 INJECTING, its entry without a release cause, feeder 2 in HELD, a bank pending, and a
table of 15 or of 16 records. -/
def ending (st : DetectorState) (t dwell v n : Nat) : State :=
  let e : Entry := ⟨.f1, true, none, some .full, some .full, 3, 40, 0, 0, none, .heldUp⟩
  let r := { openRecord with entries := [e] }
  let s := measuring { beforeBoundary with state := .holding } (windowsOf v)
    { detectorIn st t dwell (some r) with table := List.replicate n openRecord } Store.reset
  { (s.setSeq .f1 (seqIn .injecting none none)).setSeq .f2 (seqIn .held none none) with
    classes := { s.classes with pendingBank := some .b1 } }

/-- What the clauses of `EndsEvent` speak of, at RECOVERED and at LIMIT. -/
theorem witness_EndsEvent :
    apartOrders.holdingFirst = false ∧ quiet apartOrders ∧
      (∀ st t dwell v n, (ending st t dwell v n).takesSample apartOrders ∧ (ending st t dwell v n).participant .f1 = true ∧
        (ending st t dwell v n).participant .f2 = false ∧ (ending st t dwell v n).tracker.state = .holding ∧
        (ending st t dwell v n).classes.pendingBank = some .b1) ∧
      ((ending .dwell 5 1 1131 15).boundaryAfter still = true ∧ (ending .dwell 5 1 1131 15).detector.table.length < 16 ∧
        (ending .dwell 5 1 1131 15).vretAfter still apartOrders = some 989 ∧
        (after (exec (.sampleSet still apartOrders) (ending .dwell 5 1 1131 15))).detector.state = .clear) ∧
      (¬ (ending .active 99 0 600 16).detector.table.length < 16 ∧
        (ending .active 99 0 600 16).vretAfter still apartOrders = some 524 ∧
        (after (exec (.sampleSet still apartOrders) (ending .active 99 0 600 16))).detector.state = .lockout) :=
  ⟨rfl, apartOrders_quiet, fun _ _ _ _ _ =>
    ⟨⟨rfl, ⟨rfl, rfl, fun f => by cases f <;> rfl, fun l => by cases l <;> rfl⟩, rfl, rfl⟩, rfl, rfl, rfl, rfl⟩,
    by decide +kernel, by decide +kernel⟩

/-- Section 2.4: the end drops the oldest of 16 records, and its own release cause reaches the entry and the sequencer. -/
theorem test_event_end :
    let t := after (exec (.sampleSet still apartOrders) (ending .active 99 0 600 16))
    t.detector.table.length = 16 ∧ t.classes.activeBank = .b1 ∧
      (t.detector.table.getLast?.map fun r => r.entries.map (·.release)) = some [some .limit] ∧
      (t.seq.get .f1).state = .releasing ∧ (t.seq.get .f1).releaseCause = some .limit := by decide +kernel

/-- A sample that is no boundary, a boundary that counts the dwell and one below the level; the dwell completed from DWELL,
and at once from ACTIVE with a RECOVERY_DWELL of 1; an end whose request comes before a crossing at index 48. -/
theorem witness_RecoveredClosesTheEvent :
    let s := recovering beforeBoundary .dwell 1
    let low := measuring beforeBoundary (windowsOf 600) (detectorIn .active 5 0 (some openRecord)) Store.reset
    let u := { recovering beforeBoundary .active 0 with globals := { Globals.default with recoveryDwell := 1 } }
    let h := recovering ⟨.holding, 47, 0, some (-5), true, 47, 60, true⟩ .dwell 1
    let first : Orders := { Orders.plain with lockedFirst := true }
    (∀ t st d, (recovering t st d).takesSample Orders.plain) ∧
    ((recovering Tracker.reset .active 0).boundaryAfter still = false ∧ (recovering Tracker.reset .active 0).eventOpen = true ∧
      (recovering Tracker.reset .active 0).vretAfter still Orders.plain = some 989 ∧
      (recovering beforeBoundary .dwell 0).detector.t + 1 ≠ 100 ∧ 0 + 1 < (recovering beforeBoundary .dwell 0).globals.recoveryDwell ∧
      low.vretAfter still Orders.plain = some 524 ∧ low.eventOpen = true) ∧
    (s.boundaryAfter still = true ∧ s.detector.record = some openRecord ∧
      s.vretAfter still Orders.plain = some 989 ∧ s.globals.recoveryLevel ≤ 989 ∧ s.detector.state = .dwell ∧
      s.globals.recoveryDwell ≤ s.detector.dwell + 1) ∧
    (u.takesSample Orders.plain ∧ u.boundaryAfter still = true ∧ u.detector.record = some openRecord ∧
      u.vretAfter still Orders.plain = some 989 ∧ (u.globalsAt Orders.plain).recoveryLevel ≤ 989 ∧
      u.detector.state = .active ∧ (u.globalsAt Orders.plain).recoveryDwell = 1) ∧
    h.sampling = true ∧ h.settled ∧ first.lockedFirst = true ∧ h.tracker.state = .holding ∧ h.tracker.index = 47 ∧
      (h.tracker.prevA = some (-5) ∧ (-5 : Int) < 0 ∧ 0 ≤ (SampleSet.ofInput still).bus.a) ∧
      h.boundaryAfter still = true ∧ h.vretAfter still first = some 989 :=
  ⟨fun _ _ _ => measuring_takes _ _ _ _ _ rfl rfl, by decide +kernel, by decide +kernel,
    ⟨⟨rfl, ⟨rfl, rfl, fun f => by cases f <;> rfl, fun l => by cases l <;> rfl⟩, rfl, rfl⟩, by decide +kernel⟩, rfl,
    (measuring_takes _ _ _ _ Orders.plain rfl rfl).2.1, rfl, rfl, rfl, by decide, by decide, by decide +kernel⟩

/-- A record with an entry; the limit reached below the level in ACTIVE, in DWELL with the dwell not complete, and with
V_ret invalid. -/
theorem witness_EventLimitEntersLockout :
    let e : Entry := ⟨.f1, true, none, some .full, some .full, 3, 40, 0, 0, none, .heldUp⟩
    let r := { openRecord with entries := [e], minimum := some ⟨600, .a⟩ }
    let s (st : DetectorState) (m : Magnitude) := measuring beforeBoundary m (detectorIn st 99 0 (some r)) Store.reset
    (∀ st m, (s st m).takesSample Orders.plain) ∧ r.entries[0]? = some e ∧
      ((s .active (windowsOf 600)).boundaryAfter still = true ∧ (s .active (windowsOf 600)).eventOpen = true ∧
        (s .active (windowsOf 600)).detector.record = some r ∧
        (s .active (windowsOf 600)).detector.t + 1 = ((s .active (windowsOf 600)).globalsAt Orders.plain).eventLimit ∧
        (s .active (windowsOf 600)).vretAfter still Orders.plain = some 524 ∧ 524 < 600) ∧
      ((s .dwell (windowsOf 1131)).vretAfter still Orders.plain = some 989 ∧ 950 ≤ 989 ∧ ¬ 989 < 600 ∧
        0 + 1 < ((s .dwell (windowsOf 1131)).globalsAt Orders.plain).recoveryDwell) ∧
      (s .active Magnitude.reset).vretAfter still Orders.plain = none :=
  ⟨fun _ _ => measuring_takes _ _ _ _ _ rfl rfl, rfl, by decide +kernel⟩

/-- A boundary that completes the dwell, one that counts, one below the level, and an instant that is no boundary. -/
theorem witness_LockoutEndsWhenItsDwellCompletes :
    let s (t : Tracker) (v dwell : Nat) := measuring t (windowsOf v) (detectorIn .lockout 5 dwell none) Store.reset
    (∀ t v dwell, (s t v dwell).takesSample Orders.plain ∧ (s t v dwell).detector.state = .lockout ∧
      (s t v dwell).detector.record = none) ∧
    ((s beforeBoundary 1131 1).boundaryAfter still = true ∧ (s beforeBoundary 1131 1).vretAfter still Orders.plain = some 989 ∧
      950 ≤ 989 ∧ 2 ≤ 1 + 1) ∧
    ((s beforeBoundary 1131 0).vretAfter still Orders.plain = some 989 ∧ 0 + 1 < 2) ∧
    ((s beforeBoundary 600 1).vretAfter still Orders.plain = some 524 ∧ 524 < 950) ∧
    (s Tracker.reset 1131 1).boundaryAfter still = false :=
  ⟨fun _ _ _ => ⟨measuring_takes _ _ _ _ _ rfl rfl, rfl, rfl⟩, by decide +kernel⟩

/-- A part with V_ret v whose class 0 has no segments: its floor is the immunity, 850. -/
def atVret (v target : Nat) : State :=
  { running with
    magnitude := { Magnitude.reset with mags := some (Tri.all v) }
    inForce := { running.inForce with globals := { Globals.default with targetFull := target } } }

/-- The three rows of the table, at the edges where they meet. -/
theorem witness_FloorNeedFollowsItsTable :
    ((atVret 850 1000).vret = some 850 ∧ (atVret 850 1000).floorNow .f1 ≤ 850) ∧
      ((atVret 849 900).vret = some 849 ∧ 849 < (atVret 849 900).floorNow .f1 ∧
        849 < (atVret 849 900).inForce.globals.targetFull) ∧
      ((atVret 849 849).vret = some 849 ∧ 849 < (atVret 849 849).floorNow .f1 ∧
        (atVret 849 849).inForce.globals.targetFull ≤ 849) := by decide

/-- Past every segment; and in the second segment, at either end of its range. -/
theorem witness_ClassFloorsRiseToTheImmunity : toolClass.wf ∧ (19 ≤ 50 ∧ ∀ g ∈ toolClass.segments, g.limit ≤ 50) ∧
    toolClass.segments = [⟨20, 500⟩] ++ (⟨50, 700⟩ : Segment) :: [] ∧
      (∀ e ∈ [(⟨20, 500⟩ : Segment)], e.limit ≤ 20 ∧ e.limit ≤ 49) ∧ 20 < 50 ∧ 49 < 50 := by
  refine ⟨⟨?_, ?_, ?_, ?_, ?_⟩, ?_⟩ <;> decide

/-- The second unit of the worked allocation, under either policy. -/
theorem witness_GrantsNeverExceedTheStore :
    let a : Claim := ⟨some .g1, 0, false, [⟨.f1, 350, true, 200⟩, ⟨.f2, 350, true, 200⟩]⟩
    let b : Claim := ⟨none, 1, false, [⟨.f3, 500, true, 250⟩]⟩
    let c : Claim := ⟨none, 2, true, [⟨.f4, 400, false, 200⟩]⟩
    divide .priorityFull 300 1200 workedClaims = [(a, .full)] ++ (b, .full) :: [(c, .none)] ∧
      divide .floorFirst 300 1200 workedClaims = [(a, .full)] ++ (b, .floor) :: [(c, .floor)] := by decide

/-- A unit of one ungrouped feeder. -/
def unitF1 (candidate : Bool) (g : Grant) : UnitGrant := ⟨none, 3, candidate, [⟨.f1, 10, false, 4⟩], 10, 4, g, 0⟩

/-- An ungrouped feeder in each state a grant meets, and a group of two feeders as a candidate and as a participant. -/
theorem witness_GrantsReachTheSequencer :
    let unitG1 (candidate : Bool) (g : Grant) : UnitGrant :=
      ⟨some .g1, 3, candidate, [⟨.f1, 10, false, 4⟩, ⟨.f2, 10, false, 4⟩], 20, 8, g, 0⟩
    let s (st : FeederState) : State :=
      withFeeder (withFeeder running .f1 (seqIn st none none)) .f2 (seqIn st none none)
    ((unitF1 true .floor).group = none ∧ (unitF1 true .floor).members.map (·.feeder) = [.f1]) ∧
      running.groupOf .f1 = none ∧ (unitF1 true .floor).grant.mode = some .floor ∧
      ((withFeeder running .f1 (seqIn .standby none none)).seq.get .f1).state = .standby ∧
      ((withFeeder running .f1 (seqIn .arming none none)).seq.get .f1).state = .arming ∧
      ((withFeeder running .f1 (seqIn .injecting none none)).seq.get .f1).state = .injecting ∧
      (unitF1 false .none).grant = .none ∧
      ((unitG1 true .full).group = some .g1 ∧ (unitG1 true .full).members ≠ [] ∧
        (unitG1 true .full).grant.mode = some .full ∧
        ∀ d ∈ (unitG1 true .full).members, ((s .standby).seq.get d.feeder).state = .standby) ∧
      ((unitG1 false .none).grant = .none ∧
        ((running.setGroup .g1 { Group.default with state := .active }).groups.get .g1).state = .active ∧
        ((running.setGroup .g1 { Group.default with state := .abandoned }).groups.get .g1).state = .abandoned ∧
        ∀ d ∈ (unitG1 false .none).members, (s .injecting).participant d.feeder = true) := by decide

/-- A feeder whose timer of a kind has run out, in a state and phase. -/
def expired (st : FeederState) (ph : Option SeqPhase) (k : TimerKind) : State :=
  withFeeder running .f1 (seqIn st ph (some ⟨k, 0, false⟩))

theorem witness_ArmTimeoutFaultsTheFeeder :
    let s := expired .arming none .arm
    running.expiryDue .f1 .arm = false ∧
      (s.expiryDue .f1 .arm = true ∧ (s.seq.get .f1).state = .arming ∧ s.groupOf .f1 = none ∧ s.refusals = [] ∧
        s.groupRequests = FeederSet.empty ∧ s.link.choiceOpen = false) ∧
      State.detector { s with detector := detectorIn .active 1 0 (some openRecord) } =
        detectorIn .active 1 0 (some openRecord) := by decide

/-- Timers of 2 and of 1, one started before the instant and one at it, in feeders that the instant leaves; the same with the
expiry placed in the instant; and each expiry at its own. -/
theorem witness_TimerExpiriesFollowThePhase :
    let counting (st : FeederState) (ph : Option SeqPhase) (t : Timer) : State :=
      withFeeder running .f1 (seqIn st ph (some t))
    let stays (s : State) (o : Orders) : Prop := let t := after (exec (.sampleSet still o) s)
      (t.seq.get .f1).state = (s.seq.get .f1).state ∧ (t.seq.get .f1).phase = (s.seq.get .f1).phase
    let now : Orders := { apartOrders with started := Six.all true }
    ((∀ ph k, (counting .releasing ph ⟨k, 2, false⟩).settled ∧ (counting .releasing ph ⟨k, 1, true⟩).settled) ∧
        running.sampling = true) ∧
      (stays (counting .arming none ⟨.arm, 2, false⟩) apartOrders ∧ 1 ≤ 2 - 1) ∧
      (stays (counting .releasing (some .closing) ⟨.bypass, 1, true⟩) now ∧ now.started.get .f1 = true ∧ 1 ≤ 1) ∧
      (stays (counting .releasing (some .stopping) ⟨.stop, 1, true⟩) apartOrders ∧ 1 - 1 = 0 ∧
        apartOrders.expiry.get .f1 = .apart) ∧
      (Orders.plain.expiry.get .f1 ≠ .apart ∧
        (1 ≤ running.globals.armTimeout ∧ 1 ≤ running.globals.bypassTimeout ∧ 1 ≤ running.globals.handover ∧
          1 ≤ running.globals.stopTimeout)) ∧
    ((expired .injecting none .bypass).expiryDue .f1 .bypass = true ∧
      ((expired .injecting none .bypass).seq.get .f1).state = .injecting) ∧
      ((expired .releasing (some .closing) .bypass).expiryDue .f1 .bypass = true ∧
        ((expired .releasing (some .closing) .bypass).seq.get .f1).phase = some .closing) ∧
      ((expired .releasing (some .handingOver) .handover).expiryDue .f1 .handover = true ∧
        ((expired .releasing (some .handingOver) .handover).seq.get .f1).phase = some .handingOver) ∧
      ((expired .releasing (some .stopping) .stop).expiryDue .f1 .stop = true ∧
        ((expired .releasing (some .stopping) .stop).seq.get .f1).state = .releasing) ∧
      ((expired .faulted (some .stopping) .stop).expiryDue .f1 .stop = true ∧
        ((expired .faulted (some .stopping) .stop).seq.get .f1).state = .faulted) :=
  ⟨⟨fun _ _ => ⟨⟨rfl, rfl, fun f => by cases f <;> rfl, fun l => by cases l <;> rfl⟩,
      rfl, rfl, fun f => by cases f <;> rfl, fun l => by cases l <;> rfl⟩, rfl⟩, by decide +kernel⟩

/-- R93: a timer started at an instant with ARM_TIMEOUT 6 stands at 5 after the next sample set, and at 1 falls due. -/
theorem test_timer_counts :
    let s (n : Nat) (fresh : Bool) := withFeeder running .f1 (seqIn .arming none (some ⟨.arm, n, fresh⟩))
    let t (n : Nat) (fresh : Bool) := (after (exec (.sampleSet still apartOrders) (s n fresh))).seq.get .f1
    (t 6 true).timer = some ⟨.arm, 5, false⟩ ∧ (t 1 false).timer = some ⟨.arm, 0, false⟩ := by decide +kernel

/-- Feeders 1 and 2 in group 1, ENGAGING, the first with its ARM timer run out. -/
def grouped (st : GroupState) : State :=
  (withFeeder (expired .arming none .arm) .f2 (seqIn .injecting none none)).setGroup .g1 { Group.default with
    members := ⟨true, true, false, false, false, false⟩, engaged := ⟨true, true, false, false, false, false⟩, state := st }

/-- The same group with feeder 1 in a state, its port UP with two misses, and line SL1 as given. -/
def departing (st : FeederState) (t : Option Timer) (x : LineState) : State :=
  (((grouped .engaging).setSeq .f1 (seqIn st none t)).setPort .f1
    ⟨.up, 0, 2, some ⟨.running, .open, false, .none⟩, none, false, false⟩).setLine .sl1 x

/-- Every departure on a member's own account. -/
theorem witness_Departs (lv : Leave) :
    let s := departing .injecting none LineState.reset
    (grouped .engaging).Departs .f1 lv (.armTimeout .f1 lv) .memberRefused ∧
      (departing .injecting (some ⟨.bypass, 0, false⟩) LineState.reset).Departs .f1 lv (.bypassTimerExpiry .f1 lv)
        .memberReleased ∧
      s.Departs .f1 lv (.slotExamination .f1 ⟨[⟨[4, 0, 0, 0, 252], true⟩], false⟩ lv) .memberRefused ∧
      s.Departs .f1 lv (.slotExamination .f1 ⟨[⟨[0, 0, 0, 0, 0], true⟩], false⟩ lv) .memberRefused ∧
      s.Departs .f1 lv (.portLost .f1 ⟨[], false⟩ lv) .memberRefused ∧
      s.Departs .f1 lv (.takeIfFree 9 ⟨1, lv⟩) .memberReleased ∧
      (departing .arming none ⟨.hold .f1, some false, some 4, some true, none⟩).Departs .f1 lv (.lineAccepted ⟨.sl1, lv⟩)
        .memberReleased ∧
      (departing .arming none ⟨.none, some false, some 4, some false, none⟩).Departs .f1 lv (.lineMapWrite 9 1 ⟨1, lv⟩)
        .memberReleased :=
  ⟨.armTimeout (by decide) (by decide), .bypassStuck (by decide) (by decide),
    .moduleStops _ ⟨.fault, .closed, false, .none⟩ (by decide) (by decide) (by decide) (.inl rfl),
    .moduleStops _ ⟨.idle, .closed, false, .none⟩ (by decide) (by decide) (by decide) (.inr (by decide)),
    .portLost _ (by decide) (by decide) (by decide) (by decide) (by decide),
    .holdRequest .takeIfFree 9 1 ⟨rfl, by decide, rfl, by decide⟩ (by decide) (by decide) (by decide) (by decide),
    .holdLine .sl1 (by decide) (by decide) (by decide) (by decide) (by decide),
    .holdBinding 9 1 1 .sl1 ⟨rfl, by decide, rfl, by decide⟩ (by decide) (by decide) (by decide) (by decide) nofun
      (by decide) (by decide)⟩

/-- R139: a hold taken on one engaged member abandons its group with MEMBER_RELEASED and releases the other. -/
theorem test_hold_abandons_group :
    let t := after (exec (.takeIfFree 9 ⟨1, .nothing⟩) (departing .injecting none LineState.reset))
    (t.groups.get .g1).abandonCause = some .memberReleased ∧ (t.seq.get .f1).releaseCause = some .held ∧
      (t.seq.get .f2).releaseCause = some .groupAbandon := by decide +kernel

/-- An engaged member that fails to arm; and a member of a group in ABANDONED, and in IDLE. -/
theorem witness_RefusalAbandonsTheGroup :
    ((grouped .engaging).expiryDue .f1 .arm = true ∧ ((grouped .engaging).seq.get .f1).state = .arming ∧
      (grouped .engaging).groupOf .f1 = some .g1 ∧ ((grouped .engaging).groups.get .g1).engaged.get .f1 = true ∧
      ((grouped .engaging).groups.get .g1).state = .engaging ∧ ((grouped .active).groups.get .g1).state = .active ∧
      (grouped .engaging).refusals = [] ∧
      ((grouped .engaging).groups.get .g1).engaged.get .f2 = true ∧ (grouped .engaging).participant .f2 = true ∧
      ((grouped .engaging).groups.get .g1).engaged.get .f3 = false ∧ (grouped .engaging).groupRequests.get .f3 = false) ∧
    ((grouped .abandoned).groupOf .f1 = some .g1 ∧ ((grouped .abandoned).groups.get .g1).state = .abandoned ∧
      ((grouped .abandoned).groups.get .g1).engaged.get .f1 = true) ∧
    ((grouped .idle).groups.get .g1).state = .idle ∧ ((grouped .idle).groups.get .g1).engaged.get .f1 = true := by
  decide

theorem witness_BridgeRecordsCarryTheirCheck :
    parseStatus [2, 1, 0, 0, 253] = some ⟨.running, .open, false, .none⟩ ∧ [(2 : Byte)].length ≠ 5 ∧
      SlotRecord.whole ⟨[2, 1, 0, 0, 253], true⟩ = true ∧ SlotRecord.whole ⟨[2], false⟩ = false := by decide

/-- The records of a slot with one good record. -/
def slotOf (m : Byte) : List SlotRecord := [⟨[m, 0, 0, 0, -m], true⟩]

/-- Every state and phase that takes a status record, the slot of the entry instant, and a port that sends nothing. -/
theorem witness_RunningStatusBeginsInjection :
    let s (st : FeederState) (ph : Option SeqPhase) (t : Option Timer) := withFeeder running .f1 (seqIn st ph t)
    let fresh := running.setPort .f1 ⟨.waiting, 0, 0, none, none, true, false⟩
    running.examines .f1 true = false ∧ fresh.examines .f1 true = false ∧
      (fresh.inReset = false ∧ (fresh.port.get .f1).state ≠ .quiet) ∧
      (∀ st ph t, (s st ph t).examines .f1 true = true ∧ ((s st ph t).port.get .f1).state = .up ∧
        ((s st ph t).port.get .f1).derate = false ∧ (s st ph t).link.choiceOpen = false ∧
        ((s st ph t).port.get .f1).fresh = false ∧ (s st ph t).seq.get .f1 = seqIn st ph t) ∧
      (goodRecord (slotOf 2) = some ⟨.running, .closed, false, .none⟩ ∧
        goodRecord (slotOf 0) = some ⟨.idle, .closed, false, .none⟩ ∧
        goodRecord [⟨[2, 1, 0, 0, 253], true⟩] = some ⟨.running, .open, false, .none⟩) ∧
      ((grouped .engaging).groupOf .f1 = some .g1 ∧ (grouped .engaging).examines .f1 true = true ∧
        ((grouped .engaging).groups.get .g1).engaged.get .f1 = true) :=
  ⟨by decide, by decide, by decide, fun _ _ _ => ⟨rfl, rfl, rfl, rfl, rfl, rfl⟩, by decide, by decide⟩

theorem witness_ModuleFaultAndLostPortFaultTheFeeder :
    let s (q : FeederState) (miss : Nat) :=
      (withFeeder running .f1 (seqIn q none none)).setPort .f1 ⟨.up, 0, miss, some ⟨.idle, .closed, false, .none⟩, none, false, false⟩
    (∀ q miss, (s q miss).examines .f1 true = true ∧ ((s q miss).port.get .f1).state = .up ∧
      ((s q miss).port.get .f1).derate = false ∧ (s q miss).link.choiceOpen = false ∧
      ((s q miss).port.get .f1).status = some ⟨.idle, .closed, false, .none⟩ ∧ ((s q miss).seq.get .f1).state = q) ∧
      goodRecord (slotOf 4) = some ⟨.fault, .closed, false, .none⟩ ∧ goodRecord [] = none ∧
      2 ≤ ((s .faulted 2).port.get .f1).miss :=
  ⟨fun _ _ => ⟨rfl, rfl, rfl, rfl, rfl, rfl⟩, by decide, rfl, by decide⟩

/-- The 7th and the 8th good record in each state, a changed derate, and misses below the third. -/
theorem witness_EighthGoodRecordBringsThePortUp :
    let s (p : PortState) (run miss : Nat) :=
      (withFeeder running .f1 (seqIn .standby none none)).setPort .f1 ⟨p, run, miss, none, none, false, false⟩
    (∀ p run miss, p ≠ .quiet → (s p run miss).examines .f1 true = true ∧ ((s p run miss).port.get .f1).state = p ∧
      ((s p run miss).port.get .f1).run = run ∧ ((s p run miss).port.get .f1).miss = miss ∧
      ((s p run miss).port.get .f1).derate = false ∧ ((s p run miss).seq.get .f1).state = .standby ∧
      (s p run miss).link.choiceOpen = false) ∧
      goodRecord (slotOf 0) = some ⟨.idle, .closed, false, .none⟩ ∧
      goodRecord [⟨[0, 0, 1, 0, 255], true⟩] = some ⟨.idle, .closed, true, .none⟩ ∧ goodRecord [] = none ∧
      7 ≤ 7 ∧ 6 < 7 ∧ 1 < 2 := by
  refine ⟨fun p run miss h => ⟨?_, rfl, rfl, rfl, rfl, rfl, rfl⟩, by decide⟩
  cases p <;> first | rfl | exact absurd rfl h

/-- A line bound to a code, with a level standing for four samples. -/
def lined (c : EventCode) (level : Bool) (before : Option Bool) : State :=
  running.setLine .sl1 ⟨c, some level, some 4, before, none⟩

/-- A fourth reading of one level and a third, an output driven first and last, two lines of one output code; and every
binding with an acceptance due. -/
theorem witness_AcceptedLevelActsByItsBinding :
    let due (c : EventCode) (level : Bool) (before : Option Bool) :=
      ((lined c level before).lines.get .sl1).sampled = some level ∧
        ((lined c level before).lines.get .sl1).acceptanceDue = true
    let s (c : EventCode) (run : Nat) := running.setLine .sl1 ⟨c, some true, some run, some false, none⟩
    ((∀ c run, run = 2 ∨ run = 3 → (s c run).takesSample Orders.plain) ∧ still.levels.get .sl1 = true ∧
      ((s (.hold .f1) 3).lines.get .sl1).binding.isOutput = false ∧ min (3 + 1) 4 = 4 ∧ ¬ min (2 + 1) 4 = 4 ∧
      Orders.plain.line.get .sl1 ≠ .apart ∧ ((s .ready 3).lines.get .sl1).binding.isOutput = true ∧
      stageOf Orders.plain.output .ready = some .last ∧
      stageOf { OutputStages.all .last with ready := .start } .ready = some .start ∧
      (((s .ready 3).setLine .sl2 ((s .ready 3).lines.get .sl1)).lines.get .sl2).binding = .ready) ∧
    due .none true none ∧ due (.hold .f1) false none ∧ due (.hold .f1) true (some false) ∧ due (.hold .f1) true none ∧
      due .bankSelect true none ∧ due .bankSelect true (some false) ∧ due .extTrigger false (some true) ∧
      due .extTrigger true none ∧ (running.eventOpen = false ∧ running.detector.clearedNow = false) ∧
      ((lined .none true (some true)).lines.get .sl1).acceptanceDue = false ∧
      (∀ d, State.detector { lined .extTrigger false (some true) with detector := d } = d) ∧
      ((detectorIn .lockout 0 0 none).state ≠ .clear ∧ { Detector.reset with clearedNow := true }.clearedNow = true) ∧
      State.eventOpen { lined .bankSelect true (some false) with detector := detectorIn .active 0 0 none } = true := by
  refine ⟨⟨fun c run h => ⟨rfl, ⟨rfl, rfl, fun f => by cases f <;> rfl, fun l => ?_⟩, rfl, rfl⟩, by decide⟩, by decide, by decide, by decide, by decide,
    by decide, by decide, by decide, by decide, by decide, by decide, fun _ => rfl, by decide, by decide⟩
  cases l <;> first | rfl | (rcases h with rfl | rfl <;> cases c <;> rfl)

/-- Every assembler state, in and out of reset. -/
theorem witness_BytesAndGapDriveTheAssembler :
    let s (a : Assembler) := running.setAsm a
    State.reset.inReset = true ∧ (s .hunting).inReset = false ∧ (s .hunting).link.asm = .hunting ∧
      (s .length).link.asm = .length ∧ (s (.body 3 [1])).link.asm = .body 3 [1] ∧
      (s (.check 2 [1, 2] none)).link.asm = .check 2 [1, 2] none ∧
      ((s (.check 2 [1, 2] (some 0))).link.asm = .check 2 [1, 2] (some 0) ∧
        crc16 [byteOf 2, 1, 2] ≠ (0 : Byte) ++ (0 : Byte)) := by decide +kernel

theorem witness_RequestFrameBytesRunTheRequest :
    Instr.request? (.takeIfFree 0x31 ⟨2, .nothing⟩) = some (0x06, 0x31, [2, 2]) ∧ [(2 : Byte), 2].length ≤ 248 ∧
      running.inReset = false ∧ running.link.asm = .hunting := by decide

/-- A full reply queue, three replies with an image command owed and with none, a part loading, a Restart in service, and a
kind on either side of the requests. -/
theorem witness_RequestsAreAdmittedInOrder :
    let queued (n : Nat) (v : Option Service) : State :=
      { running with link := { Link.reset with replies := List.replicate n ⟨1, 2, .ok, []⟩, service := v } }
    Instr.request? (.identify 3) = some (0x01, 3, []) ∧ State.reset.inReset = true ∧
      4 ≤ (queued 4 none).link.replies.length ∧
      ((queued 3 (some (.imageRead 1 0 5))).link.replies.length = 3 ∧
        (queued 3 (some (.imageRead 1 0 5))).link.service = some (.imageRead 1 0 5) ∧
        (queued 3 (some (.imageWrite 1 0 [5]))).link.service = some (.imageWrite 1 0 [5])) ∧
      ((queued 3 (some (.restart 1))).inReset = false ∧ (queued 3 (some (.restart 1))).link.service = some (.restart 1)) ∧
      ((queued 3 none).takesRequests ∧
        State.loader { queued 3 none with loader := ⟨.loading, false, .load⟩ } = ⟨.loading, false, .load⟩) ∧
      ((loading []).inReset = false ∧ (loading []).link.replies.length < 3 ∧ (loading []).loader.op = .loading) ∧
      (restarting.inReset = false ∧ restarting.link.replies.length < 3 ∧ restarting.link.service ≠ none) ∧
      ((0 : Byte).toNat = 0 ∧ 0x16 < (0x17 : Byte).toNat) ∧ running.takesRequests :=
  ⟨by decide, by decide, by decide, by decide, by decide, ⟨⟨rfl, by decide, rfl, by decide⟩, rfl⟩, by decide, by decide,
    by decide, running_takes⟩

/-- A link that is sending a frame, with no kind of report masked off: a report posted at it is carried. -/
theorem witness_carries :
    let l : Link := { Link.reset with tx := some (.reply ⟨1, 2, .ok, []⟩), mask := 127 }
    l.tx ≠ none ∧ (∀ r : Report, l.mask.getLsbD r.bit = true) ∧ State.takesRequests { running with link := l } :=
  ⟨by decide, fun r => by cases r <;> simp [Report.bit], rfl, by decide, rfl, by decide⟩

/-- A reply waiting, a report waiting, neither, and the report queue below and at its bound. -/
theorem witness_ReportsAreQueuedAndTheTransmitterChooses :
    let r : Report := .tracker .locked .lockedOn
    let s (tx : Option Outgoing) (q : List Reply) (p : List Report) : State :=
      { running with link := { Link.reset with tx := tx, replies := q, reports := p } }
    let y : Reply := ⟨1, 2, .ok, []⟩
    ((s none [] []).link.tx = none ∧ (s none [] []).link.service = none) ∧
      ((s (some (.reply y)) [y] []).link.tx ≠ none ∧ (s (some (.reply y)) [y] []).link.replies = [y]) ∧
      (s (some (.reply y)) [] [r]).link.reports = [r] ∧ (s (some (.reply y)) [] []).link.reports = [] ∧
      (running.link.mask.getLsbD (r.kind.toNat - 0x40) = true ∧
        running.link.mask.getLsbD ((Report.feederState .f1 .held none none none).kind.toNat - 0x40) = false) ∧
      (s (some (.reply y)) [] (List.replicate 31 r)).link.reports.length < 32 ∧
      32 ≤ (s (some (.reply y)) [] (List.replicate 32 r)).link.reports.length ∧ running.link.choiceOpen = false := by
  decide

theorem witness_ReadRequestsChangeNothing : Instr.readsOnly (.peek 4 1) = true ∧
    Instr.request? (.peek 4 1) = some (0x06, 4, [1, 6]) ∧ running.takesRequests := ⟨rfl, by decide, running_takes⟩

/-- Numbers at the ends of their ranges: feeder 6, class 0, group 4, a global and a per-feeder setting. -/
theorem witness_QueriesShowTheState : running.takesRequests ∧ Feeder.ofNumber? (6 : Byte).toNat = some .f6 ∧
    (SettingId.ofCode? (0x02 : Byte).toNat = some .nominalPeak ∧ SettingId.nominalPeak.perFeeder = false) ∧
    (SettingId.ofCode? (0x28 : Byte).toNat = some (.bankLevel .b1) ∧ Feeder.ofNumber? (1 : Byte).toNat = some .f1) ∧
    ClassNo.ofNumber? (0 : Byte).toNat = some .c0 ∧ GroupNo.ofNumber? (4 : Byte).toNat = some .g4 :=
  ⟨running_takes, by decide⟩

theorem witness_StatusAndLineMapShowTheState : running.takesRequests := running_takes

/-- An open record; a newest closed one; one found by number; and none. -/
theorem witness_EventQueriesShowTheRecords :
    let s (r : Option Record) (t : List Record) : State :=
      { running with detector := { detectorIn .clear 0 0 r with table := t } }
    let two := { openRecord with number := 2 }
    running.takesRequests ∧ ((s (some openRecord) []).detector.record = some openRecord ∧ (0 : Half).toNat = 0) ∧
      ((s none [two, openRecord]).detector.record = none ∧ (s none [two, openRecord]).detector.table = [two] ++ [openRecord]) ∧
      ((s none [two, openRecord]).detector.table = [] ++ two :: [openRecord] ∧ (2 : Half).toNat = two.number ∧
        (2 : Half).toNat ≠ 0) ∧
      ((s none []).detector.table = [] ∧ (s none []).detector.record = none) :=
  ⟨running_takes, by decide⟩

/-- Feeder bytes on either side of the range, and a count that stays nonzero. -/
theorem witness_HoldRequestsApplyTheirOperation : running.takesRequests ∧ Feeder.ofNumber? (0 : Byte).toNat = none ∧
    Feeder.ofNumber? (7 : Byte).toNat = none ∧ Feeder.ofNumber? (6 : Byte).toNat = some .f6 ∧
    (State.holds { running with holds := Six.all 255 }).get .f6 = 255 ∧ running.holds.get .f6 = 0 :=
  ⟨running_takes, by decide⟩

/-- A feeder in a state with a hold count and line SL1 as given. -/
def heldBy (q : FeederState) (n : Nat) (x : LineState) : State :=
  { (withFeeder running .f1 (seqIn q none none)).setLine .sl1 x with holds := (Six.all 0).set .f1 n }

theorem heldBy_takes (q : FeederState) (n : Nat) (x : LineState) : (heldBy q n x).takesRequests :=
  ⟨rfl, running_takes.2.1, rfl, running_takes.2.2.2⟩

/-- Every command that turns a hold count, at counts of 0, 1 and 255, whatever the feeder's state. -/
theorem witness_HoldChangesReachTheSequencer (q : FeederState) (lv : Leave) :
    ((heldBy q 0 LineState.reset).seq.get .f1).state = q ∧
      (heldBy q 0 LineState.reset).TurnsHold .f1 lv (.take 9 ⟨1, lv⟩) true ∧
      (heldBy q 0 LineState.reset).TurnsHold .f1 lv (.takeIfFree 9 ⟨1, lv⟩) true ∧
      (heldBy q 0 LineState.reset).TurnsHold .f1 lv (.forceFull 9 ⟨1, lv⟩) true ∧
      (heldBy q 1 LineState.reset).TurnsHold .f1 lv (.drop 9 1) false ∧
      (heldBy q 255 LineState.reset).TurnsHold .f1 lv (.forceClear 9 1) false ∧
      (heldBy q 0 ⟨.hold .f1, some false, some 4, none, none⟩).TurnsHold .f1 lv (.lineAccepted ⟨.sl1, lv⟩) true ∧
      (heldBy q 1 ⟨.hold .f1, some true, some 4, some false, none⟩).TurnsHold .f1 lv (.lineAccepted ⟨.sl1, lv⟩) false ∧
      (heldBy q 0 ⟨.none, some false, some 4, some false, none⟩).TurnsHold .f1 lv (.lineMapWrite 9 1 ⟨1, lv⟩) true ∧
      (heldBy q 1 ⟨.hold .f1, some false, some 4, some false, none⟩).TurnsHold .f1 lv (.lineMapWrite 9 1 ⟨2, lv⟩) false :=
  ⟨rfl, .requestTakes .take 9 1 (heldBy_takes _ _ _) (by decide) (by decide) rfl,
    .requestTakes .takeIfFree 9 1 (heldBy_takes _ _ _) (by decide) (by decide) rfl,
    .requestTakes .forceFull 9 1 (heldBy_takes _ _ _) (by decide) (by decide) rfl,
    .requestFrees .drop 9 1 (heldBy_takes _ _ _) (by decide) (.inl ⟨rfl, rfl⟩),
    .requestFrees .forceClear 9 1 (heldBy_takes _ _ _) (by decide) (.inr ⟨rfl, by simp [heldBy, Six.get, Six.set]⟩),
    .lineTakes .sl1 rfl rfl rfl rfl, .lineFrees .sl1 rfl rfl rfl rfl rfl,
    .bindingTakes 9 1 1 .sl1 (heldBy_takes _ _ _) (by decide) (by decide) rfl nofun rfl,
    .bindingFrees 9 1 2 .sl1 (.hold .f2) (heldBy_takes _ _ _) (by decide) (by decide) nofun rfl rfl rfl
      fun h e => .inr (.inl (by cases e; rfl))⟩

/-- A number, an enumeration, each refusal, and the settings in order. -/
theorem witness_SettingWriteClampsStoresOrRefuses :
    let s : State := { running with detector := detectorIn .active 0 0 (some openRecord) }
    running.takesRequests ∧ running.globals.wf ∧ running.eventOpen = false ∧
      (SettingId.ofCode? (0x04 : Byte).toNat = some .recoveryLevel ∧ SettingId.recoveryLevel.perFeeder = false ∧
        SettingId.recoveryLevel.valueInSet 65535 = true) ∧
      (SettingId.ofCode? (0x25 : Byte).toNat = some (.bankClass .b0) ∧ Feeder.ofNumber? (6 : Byte).toNat = some .f6 ∧
        (SettingId.bankClass .b0).valueInSet 7 = true ∧ (SettingId.bankClass .b0).valueInSet 8 = false) ∧
      SettingId.ofCode? (0x29 : Byte).toNat = none ∧ Feeder.ofNumber? (7 : Byte).toNat = none ∧ s.takesRequests ∧
      s.eventOpen = true :=
  ⟨running_takes, ⟨by decide, by decide, by decide, by decide, by decide, by decide, by decide⟩, by decide, by decide,
    by decide, by decide, by decide, ⟨rfl, by decide, rfl, by decide⟩, rfl⟩

theorem witness_LineFreqWriteReturnsTrackerToSeeking :
    let s : State := { running with detector := detectorIn .active 0 0 (some openRecord) }
    running.takesRequests ∧ ((51 : Half).toNat ≠ 50 ∧ (51 : Half).toNat ≠ 60) ∧
      ((60 : Half).toNat = LineFreq.hz60.code ∧ .hz60 ≠ running.globals.lineFreq) ∧
      ((50 : Half).toNat = LineFreq.hz50.code ∧ .hz50 = running.globals.lineFreq) ∧ running.eventOpen = false ∧
      s.takesRequests ∧ s.eventOpen = true :=
  ⟨running_takes, by decide, by decide, by decide, by decide, ⟨rfl, by decide, rfl, by decide⟩, rfl⟩

theorem witness_EnabledWriteBringsUpOrTakesDown :
    let s (q : FeederState) := withFeeder running .f1 (seqIn q none none)
    (∀ q, (s q).takesRequests ∧ ((s q).seq.get .f1).state = q ∧ (s q).eventOpen = false ∧ (s q).loader.op = .running) ∧
      Feeder.ofNumber? (1 : Byte).toNat = some .f1 ∧
      (configuring.takesRequests ∧ (configuring.seq.get .f1).state = .offline ∧ configuring.loader.op ≠ .running) :=
  ⟨fun _ => ⟨withFeeder_takes _ _, rfl, rfl, rfl⟩, by decide, configuring_takes, rfl, by decide⟩

/-- Segment counts at the bound, limits that ascend once clamped and that do not, and a class already in form. -/
theorem witness_ClassWriteClampsInOrder :
    let limits (l : List Byte) := (segmentsOf l).map fun g => max 1 (min 250 g.limit)
    running.takesRequests ∧ running.eventOpen = false ∧ 6 < (7 : Byte).toNat ∧
      ((6 : Byte).toNat ≤ 6 ∧ (List.replicate 18 (0 : Byte)).length = 3 * (6 : Byte).toNat) ∧
      (ClassNo.ofNumber? (8 : Byte).toNat = none ∧ ClassNo.ofNumber? (7 : Byte).toNat = some .c7) ∧
      ((limits [20, 1, 244, 50, 2, 188]).Pairwise (· < ·) ∧ ¬ (limits [0, 0, 0, 1, 0, 0]).Pairwise (· < ·)) ∧
      EnvClass.mk 800 (segmentsOf [20, 1, 244, 50, 2, 188]) = toolClass ∧
      (segmentsOf [20, 1, 244, 50, 1, 194])[1]? = some ⟨50, 450⟩ :=
  ⟨running_takes, by decide, by decide, by decide, by decide, by decide, by decide, by decide⟩

/-- Section 2.2: floors 500, 450 and 900 under an immunity of 800 are stored as 500, 500 and 800. -/
theorem test_class_write :
    ((after (exec (.classWrite 9 3 800 3 [20, 1, 244, 50, 1, 194, 80, 3, 132]) running)).classes.classes.get .c3).segments =
      [⟨20, 500⟩, ⟨50, 500⟩, ⟨80, 800⟩] := by decide +kernel

/-- Group levels at 3 and above, a free group, a group whose member is taken, and each refusal. -/
theorem witness_GroupWriteReplacesTheRecord :
    running.takesRequests ∧ running.eventOpen = false ∧ (¬ 3 < (3 : Byte).toNat ∧ 3 < (4 : Byte).toNat) ∧
      (GroupNo.ofNumber? (5 : Byte).toNat = none ∧ 64 ≤ (64 : Byte).toNat ∧ 2 ≤ (2 : Byte).toNat) ∧
      (GroupNo.ofNumber? (4 : Byte).toNat = some .g4 ∧ (63 : Byte).toNat < 64 ∧ (1 : Byte).toNat < 2) ∧
      (∃ f h, (setOf 1).get f = true ∧ h ≠ GroupNo.g2 ∧ ((grouped .idle).groups.get h).members.get f = true) ∧
      ¬ ∃ f h, (setOf 1).get f = true ∧ h ≠ GroupNo.g2 ∧ (running.groups.get h).members.get f = true :=
  ⟨running_takes, rfl, by decide, by decide, by decide, ⟨.f1, .g1, by decide⟩, fun ⟨f, h, _, _, e⟩ => by
    cases h <;> cases f <;> exact absurd e (by decide)⟩

/-- Numbers on either side of the range, a group in each state, and what the clauses on a cleared group speak of. -/
theorem witness_GroupAcksClearEmptiesTheSets :
    running.takesRequests ∧ ((0 : Byte).toNat < 1 ∧ 4 < (5 : Byte).toNat) ∧ GroupNo.g1.number = (1 : Byte).toNat ∧
      ((grouped .engaging).groups.get .g1).state = .engaging ∧ ((grouped .active).groups.get .g1).state = .active ∧
      ((grouped .idle).groups.get .g1).state = .idle ∧ ((grouped .abandoned).groups.get .g1).state = .abandoned ∧
      ((grouped .idle).takesRequests ∧ (grouped .abandoned).takesRequests) ∧
      ((grouped .abandoned).groupOf .f1 = some .g1 ∧
        ((grouped .abandoned).setSeq .f1 (seqIn .standby none none)).available .f1 = true ∧ unitOf [] .f1 = none) :=
  ⟨running_takes, by decide, by decide, rfl, rfl, rfl, rfl,
    ⟨⟨rfl, by decide, rfl, by decide⟩, rfl, by decide, rfl, by decide⟩, by decide⟩

/-- A reserved code, the code in force, an output, and a HOLD moved from one feeder to another by a low line. -/
theorem witness_LineMapWriteRebindsTheLine :
    let x := (lined (.hold .f1) false (some false)).lines.get .sl1
    running.takesRequests ∧ (Line.ofNumber? (13 : Byte).toNat = none ∧ EventCode.ofCode? (32 : Byte).toNat = none) ∧
      (Line.ofNumber? (12 : Byte).toNat = some .sl12 ∧ EventCode.ofCode? (0 : Byte).toNat = some .none ∧
        (running.lines.get .sl12).binding = .none) ∧
      (EventCode.ofCode? (31 : Byte).toNat = some (.groupActive .g4) ∧ (EventCode.groupActive .g4).isOutput = true) ∧
      (x.debounced = some false ∧ x.binding = .hold .f1 ∧ EventCode.ofCode? (2 : Byte).toNat = some (.hold .f2)) ∧
      ((lined .eventActive true none).lines.get .sl1).binding.isOutput = true :=
  ⟨running_takes, by decide, by decide, by decide, by decide, by decide⟩

theorem witness_BankSelectSwitchesOrPends :
    let s : State := { running with detector := detectorIn .active 0 0 (some openRecord) }
    running.takesRequests ∧ 2 ≤ (2 : Byte).toNat ∧ Bank.b1.number = (1 : Byte).toNat ∧ running.eventOpen = false ∧
      s.takesRequests ∧ s.eventOpen = true :=
  ⟨running_takes, by decide, by decide, rfl, ⟨rfl, by decide, rfl, by decide⟩, rfl⟩

theorem witness_FaultClearReturnsTheFeeder :
    let s := withFeeder running .f1 (seqIn .faulted (some .settled) none)
    running.takesRequests ∧ s.takesRequests ∧ Feeder.ofNumber? (7 : Byte).toNat = none ∧
      Feeder.ofNumber? (1 : Byte).toNat = some .f1 ∧ (running.seq.get .f1).state ≠ .faulted ∧
      ((s.seq.get .f1).state = .faulted ∧ (s.port.get .f1).state = .up ∧
        (s.port.get .f1).status = some ⟨.idle, .closed, false, .none⟩) ∧
      ((s.setPort .f1 Port.reset).seq.get .f1).state = .faulted ∧ ((s.setPort .f1 Port.reset).port.get .f1).state ≠ .up :=
  ⟨running_takes, withFeeder_takes _ _, by decide⟩

/-- RUNNING, and CONFIGURING with one feeder enabled. -/
theorem witness_CompensationEnableEntersRunning :
    let s : State := { configuring with feeders := configuring.feeders.set .f1 ⟨true, 800, 194, 10, false⟩ }
    (running.takesRequests ∧ running.loader.op = .running) ∧ s.takesRequests ∧ s.loader.op = .configuring ∧
      (s.feeders.get .f1).enabled = true ∧ (s.feeders.get .f2).enabled = false :=
  ⟨⟨running_takes, rfl⟩, ⟨rfl, by decide, rfl, by decide⟩, rfl, rfl, rfl⟩

theorem witness_RestartIsAnsweredBeforeTheReset :
    let s : State := { running with detector := detectorIn .active 0 0 (some openRecord) }
    (running.takesRequests ∧ running.eventOpen = false) ∧ s.takesRequests ∧ s.eventOpen = true :=
  ⟨⟨running_takes, rfl⟩, ⟨rfl, by decide, rfl, by decide⟩, rfl⟩

/-- Masks on either side of the top flag, a report of a kind each masks off and lets pass, and one in the queue. -/
theorem witness_ReportMaskReplacesTheMask :
    let r : Report := .tracker .locked .lockedOn
    let s : State := { running with link := { Link.reset with tx := some (.report r false), reports := [r] } }
    running.takesRequests ∧ 128 ≤ (128 : Byte).toNat ∧ (127 : Byte).toNat < 128 ∧
      ((16 : Byte).getLsbD r.bit = true ∧ (111 : Byte).getLsbD r.bit = false ∧ running.link.mask.getLsbD r.bit = true ∧
        running.link.mask.getLsbD (Report.feederState .f1 .held none none none).bit = false) ∧
      s.takesRequests ∧ s.link.reports = [r] := ⟨running_takes, by decide, by decide, by decide, ⟨rfl, by decide, rfl, by decide⟩, rfl⟩

/-- RUNNING with a feeder in HELD, a hold on it and a command waiting. -/
theorem witness_EveryStepKeepsTheInvariants :
    let s : State := { running with
      seq := running.seq.set .f1 (seqIn .held none none), holds := running.holds.set .f1 1, pending := [.drop 1 1] }
    (s.Sound ∧ s.HoldsObeyed ∧ step s = .next (after (step s))) ∧ engagedWithin (grouped .engaging).groups := by
  refine ⟨⟨⟨?_, ?_, ?_, ?_, ?_, ?_, ?_, ?_, ?_⟩, ⟨?_, ?_, ?_, ?_⟩, rfl⟩, ?_⟩
  · exact ⟨rfl, nofun⟩
  · decide
  · decide
  · decide
  · intro f; cases f <;> decide
  · refine ⟨?_, ?_, ?_, ?_, ?_, ?_, ?_⟩ <;> decide
  · intro c; cases c <;> (refine ⟨?_, ?_, ?_, ?_, ?_⟩ <;> decide)
  · intro g h f e _; cases g <;> cases f <;> exact absurd e (by decide)
  · decide
  · intro f; cases f <;> decide
  · intro f; cases f <;> decide
  · intro e; exact absurd rfl e
  · decide
  · intro g f e; cases g <;> cases f <;> first | rfl | exact absurd e (by decide)

end Sys2Proof.Tests
end

section
/-! SUPPORT. The sample instant up to the detector's step, at a state with nothing of the past left over: what its stages
leave of the tracker, the detector, V_ret and the values in force. And the events around the detector's step while no
onset is taken (R22): none of them touches the detector. -/

namespace Sys2Proof.Machine

open Sys2Proof
open State (SeqOnly Late)

/-! ## The close of the instant before, with nothing left over -/

theorem FeederSet.get_empty (f : Feeder) : FeederSet.empty.get f = false := Six.get_all false f

theorem State.takeRefusals_of_none {s : State} (h : s.refusals = []) : s.takeRefusals = s := by
  unfold State.takeRefusals
  rw [h, List.foldl_nil, ← h]

theorem State.takeGroupRequests_of_none {s : State} (h : s.groupRequests = FeederSet.empty) : s.takeGroupRequests = s := by
  unfold State.takeGroupRequests forFeeders
  simp only [h, FeederSet.get_empty, Bool.false_eq_true, if_false, List.foldl_fixed]
  rw [← h]

theorem State.acceptLine_of_not_due {s : State} {l : Line} (h : (s.lines.get l).acceptanceDue = false) (weighed : Bool)
    (lv : Leave) : s.acceptLine weighed lv l = s := by
  simp [State.acceptLine, h]

/-- Timers whose marks all stay are as they were. -/
theorem State.settleTimers_of_kept {s : State} {kept : Feeder → Bool} (h : ∀ f, kept f = true) :
    s.settleTimers kept = s := by
  simp only [State.settleTimers, h, if_true]
  rfl

/-- With nothing of past instants left, closing them takes nothing (R93, R141, R153). -/
theorem State.takeLeftOver_of_settled {s : State} (h : s.settled) (o : Orders) : s.takeLeftOver o = s := by
  obtain ⟨requests, refusals, expiries, acceptances⟩ := h
  have noExpiry : forFeeders (fun f s => if s.anyExpiryDue f then s.expire .nothing f else s) s = s :=
    List.foldl_fixed' (fun f => by simp [expiries f]) _
  have noAcceptance : forLines (fun l s => s.acceptLine false .nothing l) s = s :=
    List.foldl_fixed' (fun l => State.acceptLine_of_not_due (acceptances l) _ _) _
  unfold State.takeLeftOver
  simp only [State.takeRefusals_of_none refusals, State.takeGroupRequests_of_none requests, ite_self, noExpiry,
    noAcceptance]
  exact State.settleTimers_of_kept fun f => beq_self_eq_true _

/-- Around an event that takes nothing, the transmitter's choice moves the link alone (R177). -/
theorem State.beforeChoice_of_idle {s : State} {event : State → State}
    (h : ∀ l, event { s with link := l } = { s with link := l }) (choiceLeft : Bool) :
    ∃ l, s.beforeChoice choiceLeft event = { s with link := l } := by
  unfold State.beforeChoice
  simp only [h]
  split <;> exact ⟨_, rfl⟩

/-- With nothing of past instants left, the close of the instant before settles the transmitter's choice (R177) and takes
away the mark of a return to CLEAR (R22). -/
theorem State.closeInstant_of_settled {s : State} (h : s.settled) (o : Orders) :
    ∃ l, s.closeInstant o = { s with link := l, detector := { s.detector with clearedNow := false } } := by
  obtain ⟨l, e⟩ := State.beforeChoice_of_idle (s := s) (event := fun s => s.takeLeftOver o)
    (fun l => State.takeLeftOver_of_settled (s := { s with link := l }) h o) o.choiceLeft
  exact ⟨l, by rw [State.closeInstant, e]⟩

/-! ## The stages up to the boundary test -/

/-- The count of the timers moves the sequencers alone. -/
theorem State.ticks_eq (s : State) (o : Orders) :
    ∃ q, forFeeders (fun f s => s.tickSequencer (o.started.get f) f) s = { s with seq := q } :=
  foldl_keeps (P := fun t => ∃ q, t = { s with seq := q }) (fun _ _ ⟨_, e⟩ => e ▸ ⟨_, rfl⟩) _ s ⟨s.seq, rfl⟩

theorem State.takeSample_eq (s : State) (x : SampleInput) (o : Orders) :
    ∃ q p l, s.takeSample x o = { s with
      inForce := s.valuesAt o.writtenNow, written := none, sample := some (SampleSet.ofInput x), seq := q, port := p,
      lines := l } := by
  obtain ⟨q, e⟩ := (s.adopt o.writtenNow).ticks_eq o
  unfold State.takeSample
  rw [e]
  exact ⟨_, _, _, rfl⟩

/-- The store's conditions and their reports move the store and the link alone. -/
theorem State.updateStore_eq (s : State) (v : Nat) : ∃ st l, s.updateStore v = { s with store := st, link := l } := by
  have post {t : State} (h : ∃ st l, t = { s with store := st, link := l }) (c : Option StoreCause) :
      ∃ st l, t.postStore c = { s with store := st, link := l } := by
    obtain ⟨st, l, e⟩ := h
    rw [e]
    cases c <;> exact ⟨st, _, rfl⟩
  exact post (post ⟨_, s.link, rfl⟩ _) _

/-- What the tracker's handling and the detector's step read of a state: tracker, detector, V_ret and globals in force. -/
def State.seen (s : State) : Tracker × Detector × Option Nat × Globals := (s.tracker, s.detector, s.vret, s.inForce.globals)

theorem State.updateStore_seen (s : State) (v : Nat) : (s.updateStore v).seen = s.seen := by
  obtain ⟨st, l, e⟩ := s.updateStore_eq v
  rw [e]; rfl

/-- The measurement of a sample set forms V_ret (R15, R16) and leaves tracker, detector and values. -/
theorem State.prepare_seen {s : State} (h : s.settled) (x : SampleInput) (o : Orders) :
    (s.prepare x o).seen = (s.tracker, { s.detector with clearedNow := false }, s.vretAfter x o, s.globalsAt o) := by
  obtain ⟨k, closed⟩ := State.closeInstant_of_settled h o
  obtain ⟨q, p, l, taken⟩ := (s.closeInstant o).takeSample_eq x o
  have measured : (State.measure (State.evaluateAt ((s.closeInstant o).takeSample x o) o .start) (SampleSet.ofInput x)).seen =
      (s.tracker, { s.detector with clearedNow := false }, s.vretAfter x o, s.globalsAt o) := by
    rw [taken, closed]
    simp only [State.seen, State.vret, State.reading, State.vretAfter, State.magsAfter, Prod.mk.injEq]
    refine ⟨rfl, rfl, ?_, rfl⟩
    rw [Option.map_map]
    rfl
  unfold State.prepare
  split
  · exact (State.updateStore_seen _ _).trans measured
  · exact measured

/-- R6 to R12: where no request of the instant comes before it, the tracker's handling of the sample set moves the tracker
as `Tracker.handle` says, and nothing else that the detector reads. -/
theorem State.track_seen (s : State) (x : SampleSet) {o : Orders} (hold : o.holdingFirst = false)
    (lock : o.lockedFirst = false) :
    (s.track x o).seen = (s.tracker.handle x.bus.a, s.detector, s.vret, s.inForce.globals) := by
  unfold State.track
  simp only [State.holdsFirst, State.locksFirst, hold, lock, Bool.false_and, Bool.false_eq_true, if_false]
  split <;> rfl

theorem State.tracked_seen {s : State} {o : Orders} (h : s.takesSample o) (x : SampleInput) :
    (s.tracked x o).seen =
      (s.trackerAfter x, { s.detector with clearedNow := false }, s.vretAfter x o, s.globalsAt o) := by
  obtain ⟨-, settled, hold, lock⟩ := h
  have prepared := State.prepare_seen settled x o
  simp only [State.seen, Prod.mk.injEq] at prepared
  obtain ⟨tracker, detector, vret, globals⟩ := prepared
  unfold State.tracked
  rw [State.track_seen _ _ hold lock, tracker, detector, vret, globals]
  rfl

/-- R13: the instant is a boundary where the tracker's own handling declares one. -/
theorem State.boundaryAt_eq {s : State} {o : Orders} (h : s.takesSample o) (x : SampleInput) :
    s.boundaryAt x o = s.boundaryAfter x := by
  have e : (s.tracked x o).tracker = s.trackerAfter x := congrArg Prod.fst (State.tracked_seen h x)
  rw [State.boundaryAt, e, State.boundaryAfter]

/-! ## Events that leave the detector alone -/

/-- No event is open and none can open: no open record, and the detector not in CLEAR, or returned to it at this very
instant (R22). -/
def Detector.barsOnset (d : Detector) : Prop := d.record = none ∧ (d.state = .clear → d.clearedNow = true)

/-- From a state whose detector bars an onset, `t` is reached with the detector as it was. -/
def State.SparesDetector (s t : State) : Prop := s.detector.barsOnset → t.detector = s.detector

namespace State.SparesDetector

variable {s t u : State}

theorem refl (s : State) : SparesDetector s s := fun _ => rfl

theorem of_eq (h : t.detector = s.detector) : SparesDetector s t := fun _ => h

theorem trans (a : SparesDetector s t) (b : SparesDetector t u) : SparesDetector s u :=
  fun h => (b (a h ▸ h)).trans (a h)

theorem ite {c : Prop} [Decidable c] (a : SparesDetector s t) (b : SparesDetector s u) :
    SparesDetector s (if c then t else u) := by
  split
  · exact a
  · exact b

end State.SparesDetector

open State (SparesDetector)

/-- Of the detector, the sequencers and groups move the entries of the open record alone, and none is open. -/
theorem State.SeqOnly.spares {s t : State} (h : SeqOnly s t) : SparesDetector s t := by
  rintro ⟨closed, -⟩
  have stillClosed : t.detector.record = none := by simpa [closed] using h.record
  calc t.detector = { t.detector with record := s.detector.record } := by rw [closed, ← stillClosed]
    _ = s.detector := h.detector

theorem State.hold_spares (s : State) (lv : Leave) (f : Feeder) (op : HoldOp) : SparesDetector s (s.hold lv f op) :=
  fun h => (s.hold_seqOnly lv f op).spares h

/-- R22, R158: a trigger opens no event on a detector that bars an onset. -/
theorem State.externalTrigger_spares (s : State) : SparesDetector s s.externalTrigger := by
  rintro ⟨-, mark⟩
  unfold State.externalTrigger
  split
  · next h => exact absurd (mark h.1) h.2
  · rfl

theorem State.switchBank_spares (s : State) (b : Bank) : SparesDetector s (s.switchBank b) := by
  unfold State.switchBank
  split <;> exact .of_eq rfl

theorem State.acceptLine_spares (s : State) (weighed : Bool) (lv : Leave) (l : Line) :
    SparesDetector s (s.acceptLine weighed lv l) := by
  have set (y : LineState) : SparesDetector s (s.setLine l y) := .of_eq rfl
  unfold State.acceptLine
  simp only
  split
  · split
    · split
      · exact (set _).trans (State.hold_spares _ _ _ _)
      · exact set _
    · exact ((set _).trans (State.externalTrigger_spares _)).ite (set _)
    · split
      · exact (set _).trans (State.switchBank_spares _ _)
      · exact set _
    · exact set _
  · exact .refl s

theorem State.takePlaced_spares (s : State) (o : Orders) (p : Place) : SparesDetector s (s.takePlaced o p) := by
  unfold State.takePlaced
  exact (foldl_rel SparesDetector.refl SparesDetector.trans
      (fun l s => (s.acceptLine_spares _ _ l).ite (.refl s)) _ s).trans
    (foldl_rel SparesDetector.refl SparesDetector.trans (fun f s => (s.expire_seqOnly _ f).spares.ite (.refl s)) _ _)

theorem State.recordsAt_detector (s : State) (x : SampleInput) (o : Orders) (p : RecordPlace) :
    (s.recordsAt x o p).detector = s.detector :=
  (s.sendRecords_keeps _ _).1

theorem State.updateStore_detector (s : State) (v : Nat) : (s.updateStore v).detector = s.detector := by
  obtain ⟨st, l, e⟩ := s.updateStore_eq v
  rw [e]

/-- The acceptances, expiries and records between the boundary test and the detector's step. -/
def State.beforeDetector (s : State) (x : SampleInput) (o : Orders) : State :=
  ((((s.evaluateAt o .tracked).recordsAt x o .first).takePlaced o .first).recordsAt x o .placed).evaluateAt o .placed

theorem State.closing_none (s : State) (x : SampleInput) (o : Orders) : s.closing x o none = s.beforeDetector x o := rfl

theorem State.closing_some (s : State) (x : SampleInput) (o : Orders) (n : Nat) :
    s.closing x o (some n) = (s.closeHalfCycle n).beforeDetector x o := rfl

theorem State.evaluateAt_detector (s : State) (o : Orders) (p : Stage) : (s.evaluateAt o p).detector = s.detector := rfl

theorem State.settleTimers_detector (s : State) (kept : Feeder → Bool) : (s.settleTimers kept).detector = s.detector := rfl

theorem State.beforeDetector_spares (s : State) (x : SampleInput) (o : Orders) :
    SparesDetector s (s.beforeDetector x o) :=
  ((((SparesDetector.of_eq (s.evaluateAt_detector o .tracked)).trans (.of_eq (State.recordsAt_detector _ x o .first))).trans
    (State.takePlaced_spares _ o .first)).trans (.of_eq (State.recordsAt_detector _ x o .placed))).trans
    (.of_eq (State.evaluateAt_detector _ o .placed))

theorem State.beforeDetector_late (s : State) (x : SampleInput) (o : Orders) : Late s (s.beforeDetector x o) :=
  ((((s.evaluateAt_late o .tracked).trans (State.recordsAt_late _ x o .first)).trans
    (State.takePlaced_late _ o .first)).trans (State.recordsAt_late _ x o .placed)).trans (State.evaluateAt_late _ o .placed)

theorem State.closing_spares (s : State) (x : SampleInput) (o : Orders) (n : Option Nat) :
    SparesDetector s (s.closing x o n) := by
  cases n with
  | none =>
    rw [State.closing_none]
    exact s.beforeDetector_spares x o
  | some n =>
    rw [State.closing_some]
    exact (SparesDetector.of_eq rfl).trans ((s.closeHalfCycle n).beforeDetector_spares x o)

/-- After the detector's step: group consequences, acceptances, expiries, records and the store's conditions. -/
theorem State.finish_spares (s : State) (x : SampleInput) (o : Orders) : SparesDetector s (s.finish x o) := by
  unfold State.finish
  have middle : SparesDetector s
      ((((s.settleGroups o.leaveLate).evaluateAt o .detected).takePlaced o .middle).recordsAt x o .last) :=
    (((s.settleGroups_seqOnly _).spares.trans (.of_eq (State.evaluateAt_detector _ o .detected))).trans
      (State.takePlaced_spares _ o .middle)).trans (.of_eq (State.recordsAt_detector _ x o .last))
  have stored := SparesDetector.ite (c := o.storeEarly = true) middle
    (middle.trans (.of_eq (State.updateStore_detector _ (SampleSet.ofInput x).store)))
  exact ((((stored.trans (.of_eq (State.evaluateAt_detector _ o .stored))).trans
    (State.takePlaced_spares _ o .last)).trans (.of_eq (State.evaluateAt_detector _ o .last))).trans
    (.of_eq (State.settleTimers_detector _ _))).trans (.of_eq (State.settleChoice_detector _ _))

/-! ## The state that the detector meets -/

theorem State.Late.vret {s t : State} (h : Late s t) : t.vret = s.vret := by
  have magnitude : t.magnitude = s.magnitude := congrArg (fun m => m.2.2.1) h.measured
  rw [State.vret, State.reading, magnitude, ← State.reading, ← State.vret]

theorem State.Late.inForce {s t : State} (h : Late s t) : t.inForce = s.inForce := congrArg Prod.fst h.measured

/-- What the end of a half-cycle (R13) and the events before the detector's step leave of V_ret and the values. -/
theorem State.closing_reads (s : State) (x : SampleInput) (o : Orders) (n : Option Nat) :
    (s.closing x o n).vret = s.vret ∧ (s.closing x o n).inForce = s.inForce := by
  cases n with
  | none =>
    rw [State.closing_none]
    exact ⟨(s.beforeDetector_late x o).vret, (s.beforeDetector_late x o).inForce⟩
  | some n =>
    have late := (s.closeHalfCycle n).beforeDetector_late x o
    rw [State.closing_some]
    exact ⟨late.vret, late.inForce⟩

/-- Where no onset can be taken, the detector's step finds the detector, V_ret and the globals that the sample set alone
gives. -/
theorem State.atDetector_seen {s : State} {o : Orders} (h : s.takesSample o) (state : s.detector.state ≠ .clear)
    (closed : s.detector.record = none) (x : SampleInput) :
    (s.atDetector x o).detector = { s.detector with clearedNow := false } ∧
      (s.atDetector x o).vret = s.vretAfter x o ∧ (s.atDetector x o).inForce.globals = s.globalsAt o := by
  have tracked := State.tracked_seen h x
  simp only [State.seen, Prod.mk.injEq] at tracked
  obtain ⟨-, detector, vret, globals⟩ := tracked
  have bars : (s.tracked x o).detector.barsOnset := by
    rw [detector]
    exact ⟨closed, fun e => absurd e state⟩
  obtain ⟨vretKept, valuesKept⟩ := (s.tracked x o).closing_reads x o (s.tracked x o).tracker.boundary
  exact ⟨(State.closing_spares _ x o _ bars).trans detector, vretKept.trans vret,
    (congrArg Values.globals valuesKept).trans globals⟩

end Sys2Proof.Machine
end

section
/-! The detector in LOCKOUT (R27). -/

namespace Sys2Proof.Machine

open Sys2Proof

theorem atOrAbove_iff (v : Option Nat) (level : Nat) : atOrAbove v level = true ↔ ∃ n, v = some n ∧ level ≤ n := by
  cases v <;> simp [atOrAbove]

/-- R27: a boundary in LOCKOUT that does not complete the dwell leaves the count it comes to. -/
theorem State.lockoutStep_of_not_done {s : State} (h : s.lockoutDone = false) :
    s.lockoutStep.detector = { s.detector with dwell := s.lockoutCount } := by
  simp [State.lockoutStep, h]

/-- R27: the boundary that completes the dwell returns to CLEAR, marked so that no onset is tested at it (R22). -/
theorem State.lockoutStep_of_done {s : State} (h : s.lockoutDone = true) :
    s.lockoutStep.detector = { s.detector with state := .clear, dwell := 0, clearedNow := true } := by
  simp [State.lockoutStep, h]

/-- R27: what a boundary in LOCKOUT never touches, and that it opens no event. -/
theorem State.lockoutStep_keeps {s : State} (h : s.detector.state = .lockout) :
    s.lockoutStep.detector.record = s.detector.record ∧ s.lockoutStep.detector.table = s.detector.table ∧
      s.lockoutStep.detector.t = s.detector.t ∧ s.lockoutStep.detector.nextNumber = s.detector.nextNumber ∧
      s.lockoutStep.detector.state.eventOpen = false := by
  cases e : s.lockoutDone with
  | true =>
    rw [State.lockoutStep_of_done e]
    exact ⟨rfl, rfl, rfl, rfl, rfl⟩
  | false =>
    rw [State.lockoutStep_of_not_done e, h]
    exact ⟨rfl, rfl, rfl, rfl, rfl⟩

section

variable {s : State}

theorem State.not_atOrAbove (h : ∀ v, s.vret = some v → v < s.inForce.globals.recoveryLevel) :
    atOrAbove s.vret s.inForce.globals.recoveryLevel = false := by
  rw [Bool.eq_false_iff, ne_eq, atOrAbove_iff]
  rintro ⟨v, valid, reached⟩
  exact absurd (h v valid) (not_lt.mpr reached)

/-- R27: V_ret below the level, or invalid. -/
theorem State.lockoutCount_of_below (h : ∀ v, s.vret = some v → v < s.inForce.globals.recoveryLevel) :
    s.lockoutCount = 0 := by
  simp [State.lockoutCount, State.not_atOrAbove h]

theorem State.lockoutDone_of_below (h : ∀ v, s.vret = some v → v < s.inForce.globals.recoveryLevel) :
    s.lockoutDone = false := by
  simp [State.lockoutDone, State.not_atOrAbove h]

/-- R27: the level reached. -/
theorem State.lockoutCount_of_reached {v : Nat} (valid : s.vret = some v) (h : s.inForce.globals.recoveryLevel ≤ v) :
    s.lockoutCount = s.detector.dwell + 1 := by
  simp [State.lockoutCount, (atOrAbove_iff _ _).mpr ⟨v, valid, h⟩]

theorem State.lockoutDone_of_reached {v : Nat} (valid : s.vret = some v) (h : s.inForce.globals.recoveryLevel ≤ v) :
    s.lockoutDone = true ↔ s.inForce.globals.recoveryDwell ≤ s.detector.dwell + 1 := by
  simp [State.lockoutDone, State.lockoutCount_of_reached valid h, (atOrAbove_iff _ _).mpr ⟨v, valid, h⟩]

end

/-- R27: in LOCKOUT the detector's step is the boundary's count, or nothing. -/
theorem State.detect_of_lockout {s : State} (h : s.detector.state = .lockout) (x : SampleInput) (o : Orders)
    (boundary external heard : Bool) :
    (s.detect x o boundary external heard).detector =
      if boundary then (s.recordsAt x o .stepped).lockoutStep.detector else s.detector := by
  unfold State.detect
  simp only [h]
  cases boundary with
  | true => rfl
  | false => exact State.recordsAt_detector s x o .stepped

/-- R27: the boundary in LOCKOUT reads the detector, V_ret and the values in force alone. -/
theorem State.lockoutStep_detector_congr {s t : State} (detector : t.detector = s.detector) (vret : t.vret = s.vret)
    (inForce : t.inForce = s.inForce) : t.lockoutStep.detector = s.lockoutStep.detector := by
  have count : t.lockoutCount = s.lockoutCount := by
    unfold State.lockoutCount
    rw [detector, vret, inForce]
  have done : t.lockoutDone = s.lockoutDone := by
    unfold State.lockoutDone
    rw [count, vret, inForce]
  cases e : s.lockoutDone with
  | true => rw [State.lockoutStep_of_done (done.trans e), State.lockoutStep_of_done e, detector]
  | false =>
    rw [State.lockoutStep_of_not_done (done.trans e), State.lockoutStep_of_not_done e, detector, count]

/-- R27: a boundary in LOCKOUT leaves no detector that could take an onset at the same instant (R22). -/
theorem State.lockoutStep_bars {s : State} (h : s.detector.state = .lockout) (closed : s.detector.record = none) :
    s.lockoutStep.detector.barsOnset := by
  cases e : s.lockoutDone with
  | true =>
    rw [State.lockoutStep_of_done e]
    exact ⟨closed, fun _ => rfl⟩
  | false =>
    rw [State.lockoutStep_of_not_done e]
    exact ⟨closed, fun c => absurd (h.symm.trans c) (by decide)⟩

/-- R27: what a whole sample instant in LOCKOUT makes of the detector. -/
theorem State.instant_of_lockout {s : State} {o : Orders} (h : s.takesSample o) (state : s.detector.state = .lockout)
    (closed : s.detector.record = none) (x : SampleInput) :
    (s.instant x o).detector =
      if s.boundaryAfter x then (s.atDetector x o).lockoutStep.detector else { s.detector with clearedNow := false } := by
  obtain ⟨met, -, -⟩ := State.atDetector_seen h (by simp [state]) closed x
  have stays : (s.atDetector x o).detector.state = .lockout := by rw [met]; exact state
  have unopened : (s.atDetector x o).detector.record = none := by rw [met]; exact closed
  have stepped : ((s.atDetector x o).recordsAt x o .stepped).lockoutStep.detector = (s.atDetector x o).lockoutStep.detector :=
    State.lockoutStep_detector_congr (State.recordsAt_detector _ x o _) (State.recordsAt_late _ x o _).vret
      (State.recordsAt_late _ x o _).inForce
  have detected : ((s.atDetector x o).detect x o (s.boundaryAt x o) ((s.tracked x o).externalWeighed o)
      (s.requestHeard x o)).detector =
      if s.boundaryAfter x then (s.atDetector x o).lockoutStep.detector else { s.detector with clearedNow := false } := by
    rw [State.detect_of_lockout stays, State.boundaryAt_eq h, stepped, met]
  refine (State.finish_spares _ x o ?_).trans detected
  rw [detected]
  split
  · exact State.lockoutStep_bars stays unopened
  · exact ⟨closed, fun c => absurd (state.symm.trans c) (by decide)⟩

theorem exec_sampleSet_of_sampling {s : State} (h : s.sampling = true) (x : SampleInput) (o : Orders) :
    exec (.sampleSet x o) s = .next (s.instant x o) := by
  change execSampleSet x o s = _
  simp [execSampleSet, h]

/-- R27: LOCKOUT_DWELL_COMPLETE is the whole sample instant where the dwell completes at its boundary. -/
theorem exec_lockoutDwellComplete_of_done {s : State} {o : Orders} (h : s.takesSample o) {x : SampleInput}
    (state : (s.atDetector x o).detector.state = .lockout) (boundary : s.boundaryAfter x = true)
    (done : (s.atDetector x o).lockoutDone = true) : exec (.lockoutDwellComplete x o) s = .next (s.instant x o) := by
  change execLockoutDwellComplete x o s = _
  simp [execLockoutDwellComplete, State.instantIf, h.1, state, State.boundaryAt_eq h, boundary, done]

/-- Settles O24. The instant's detector is that of R27's boundary step, or as it was (`instant_of_lockout`); V_ret below the
level, short of a whole dwell and completing it are the step's three outcomes. -/
theorem lockoutEndsWhenItsDwellCompletes : Obligations.LockoutEndsWhenItsDwellCompletes := by
  intro s x o takes state closed level whole
  have result := State.instant_of_lockout takes state closed x
  obtain ⟨met, vret, globals⟩ := State.atDetector_seen takes (by simp [state]) closed x
  have stays : (s.atDetector x o).detector.state = .lockout := by rw [met]; exact state
  refine ⟨s.instant x o, exec_sampleSet_of_sampling takes.1 x o, ?_⟩
  unfold State.eventOpen
  rw [result]
  cases boundary : s.boundaryAfter x with
  | false => simp [state, closed, DetectorState.eventOpen]
  | true =>
    obtain ⟨record, table, clock, number, shut⟩ := State.lockoutStep_keeps stays
    rw [met] at record table clock number
    rw [if_pos rfl]
    refine ⟨record.trans closed, shut, table, clock, number, nofun, fun _ => ⟨fun v valid reached => ?_, fun low => ?_⟩⟩
    · rw [← vret] at valid
      have atLevel : (s.atDetector x o).inForce.globals.recoveryLevel ≤ v := by rw [globals]; exact reached
      have done := State.lockoutDone_of_reached valid atLevel
      rw [met, globals] at done
      refine ⟨fun enough => ?_, fun short => ?_⟩
      · rw [State.lockoutStep_of_done (done.mpr enough)]
        exact ⟨exec_lockoutDwellComplete_of_done takes stays boundary (done.mpr enough), rfl, rfl⟩
      · have unfinished := Bool.eq_false_iff.mpr fun e => absurd (done.mp e) (not_le.mpr short)
        rw [State.lockoutStep_of_not_done unfinished, State.lockoutCount_of_reached valid atLevel, met]
        exact ⟨state, rfl⟩
    · have belowLevel : ∀ v, (s.atDetector x o).vret = some v → v < (s.atDetector x o).inForce.globals.recoveryLevel := by
        rw [vret, globals]
        exact low
      rw [State.lockoutStep_of_not_done (State.lockoutDone_of_below belowLevel), State.lockoutCount_of_below belowLevel]
      exact ⟨stays, rfl⟩

end Sys2Proof.Machine
end

section
/-! SUPPORT. What a queued reply leaves of the reports (R166, R177), what becomes of a posted report at a transmitter that is
sending (R173, R175), and the oldest report sent once the replies have been (R176, R177). With these, REPORT_MASK (R174). -/

namespace Sys2Proof.Machine

open Sys2Proof

/-! ## The choice where no report is taken (R177) -/

theorem Link.choose_of_sending {l : Link} (sending : l.tx ≠ none) : l.choose = l := by
  rcases l.choose_cases with ⟨same, -⟩ | ⟨_, _, idle, -⟩ | ⟨_, _, idle, -⟩
  · exact same
  · exact absurd idle sending
  · exact absurd idle sending

/-- Replies come before reports: with one waiting, the transmitter sends after the choice, and no report has moved. -/
theorem Link.choose_of_reply {l : Link} (waiting : l.replies ≠ []) :
    l.choose.tx ≠ none ∧ l.choose.reports = l.reports ∧ l.choose.overflow = l.overflow := by
  rcases l.choose_cases with ⟨same, sending | ⟨empty, -⟩⟩ | ⟨r, rest, -, -, reply⟩ | ⟨_, _, -, empty, -⟩
  · rw [same]
    exact ⟨sending, rfl, rfl⟩
  · exact absurd empty waiting
  · rw [reply]
    exact ⟨Option.some_ne_none _, rfl, rfl⟩
  · exact absurd empty waiting

/-! ## A queued reply (R166) -/

theorem State.queueReply_sending (s : State) (r : Reply) : (s.queueReply r).link.tx ≠ none :=
  (Link.choose_of_reply (by simp)).1

theorem State.queueReply_onlyAnswered (s : State) (r : Reply) : Link.onlyAnswered s.link (s.queueReply r).link r :=
  ⟨s.queueReply_answered r, (Link.choose_of_reply (by simp)).2⟩

/-! ## A posted report (R173, R175) -/

theorem Report.bit_lt (r : Report) : r.bit < 7 := by
  cases r <;> simp [Report.bit]

@[simp] theorem Link.offer_tx (l : Link) (r : Report) : (l.offer r).tx = l.tx := by
  unfold Link.offer
  split <;> rfl

/-- R175: an offered report waits in the queue, or was lost with the marker set. -/
theorem Link.offer_carried (l : Link) (r : Report) :
    r ∈ (l.offer r).reports ∨ 32 ≤ (l.offer r).reports.length ∧ (l.offer r).overflow = true := by
  unfold Link.offer
  split
  · exact .inl (by simp)
  · next full => exact .inr ⟨not_lt.mp full, rfl⟩

theorem State.post_of_masked {s : State} {r : Report} (masked : s.link.mask.getLsbD r.bit = false) : s.post r = s := by
  simp [State.post, Link.post, masked]

/-- R173: a transmitter that is sending leaves a report of a kept kind as it was offered. -/
theorem Link.post_of_sending {l : Link} {r : Report} (sending : l.tx ≠ none) (kept : l.mask.getLsbD r.bit = true) :
    l.post r = l.offer r := by
  have stays : (l.offer r).choose = l.offer r := Link.choose_of_sending (by simpa using sending)
  simp [Link.post, kept, stays]

theorem Link.carries_post (l : Link) (r : Report) : l.carries (l.post r) r := by
  intro sending kept
  rw [Link.post_of_sending sending kept]
  exact l.offer_carried r

/-! ## The oldest report sent (R176, R177) -/

theorem State.sendingRestartOk_of_no_service {s : State} (idle : s.link.service = none) : s.sendingRestartOk = false := by
  simp [State.sendingRestartOk, idle]

/-- TRANSMIT_DONE with no reply left to send and nothing in service: the oldest report, whatever the mask says. -/
theorem exec_transmitDone_of_report {s : State} {r : Report} {rest : List Report} (idle : s.link.service = none)
    (sending : s.link.tx ≠ none) (sent : s.link.replies = []) (queued : s.link.reports = r :: rest) :
    exec .transmitDone s = .next { s with
      link := { s.link with reports := rest, tx := some (.report r s.link.overflow), overflow := false } } := by
  change execTransmitDone s = _
  obtain ⟨frame, e⟩ := Option.ne_none_iff_exists'.mp sending
  simp [execTransmitDone, State.sendingRestartOk_of_no_service idle, e, Link.finish, Link.choose, sent, queued]

/-! ## Report Mask (R174) -/

theorem exec_reportMask_of_topFlag {s : State} {m : Byte} (takes : s.takesRequests) (tag : Byte) (top : 128 ≤ m.toNat) :
    exec (.reportMask tag m) s = .next (s.openChoice.queueReply ⟨0x16, tag, .value, []⟩) := by
  change execReportMask tag m s = _
  rw [execReportMask, State.serve_of_takes takes]
  simp [answerReportMask, top, State.refuseWith, Answer.bare]

/-- The link with its mask replaced by the flags of `m` but the top one. -/
def Link.withFlags (l : Link) (m : Byte) : Link := { l with mask := m.truncate 7 }

/-- The state once a Report Mask has been served: the mask replaced, the OK reply queued with the old mask and the new. -/
def State.reportMasked (s : State) (tag m : Byte) : State :=
  State.queueReply { s with link := (s.openChoice.link).withFlags m } ⟨0x16, tag, .ok, [byteOf s.link.mask.toNat, m]⟩

theorem exec_reportMask_of_flags {s : State} {m : Byte} (takes : s.takesRequests) (tag : Byte) (flags : m.toNat < 128) :
    exec (.reportMask tag m) s = .next (s.reportMasked tag m) := by
  change execReportMask tag m s = _
  have oldMask : byteOf s.link.mask.toNat = s.link.mask.zeroExtend 8 := BitVec.ofNat_toNat 8 _
  rw [execReportMask, State.serve_of_takes takes, State.reportMasked, oldMask]
  simp only [answerReportMask, not_le.mpr flags, if_false]
  rfl

theorem State.reportMasked_onlyAnswered (s : State) (tag m : Byte) :
    Link.onlyAnswered (s.link.withFlags m) (s.reportMasked tag m).link
      ⟨0x16, tag, .ok, [byteOf s.link.mask.toNat, m]⟩ :=
  State.queueReply_onlyAnswered { s with link := (s.openChoice.link).withFlags m } _

theorem State.reportMasked_mask (s : State) (tag m : Byte) : (s.reportMasked tag m).link.mask = m.truncate 7 := by
  obtain ⟨⟨-, -, -, mask⟩, -⟩ := s.reportMasked_onlyAnswered tag m
  exact mask

theorem State.reportMasked_sending (s : State) (tag m : Byte) : (s.reportMasked tag m).link.tx ≠ none :=
  State.queueReply_sending _ _

/-- The new mask has, for every kind of report, the flag that the request names. -/
theorem State.reportMasked_flag (s : State) (tag m : Byte) (r : Report) :
    (s.reportMasked tag m).link.mask.getLsbD r.bit = m.getLsbD r.bit := by
  rw [State.reportMasked_mask]
  simp [r.bit_lt]

/-- Settles O58. A refused mask is answered VALUE alone; else the reply queued keeps the transmitter sending, so a report
posted after it is carried by the new mask, and those queued before it are still there once the replies have been sent. -/
theorem reportMaskReplacesTheMask : Obligations.ReportMaskReplacesTheMask := by
  intro s tag m takes
  refine ⟨fun top => ?_, fun flags => ?_⟩
  · exact ⟨_, exec_reportMask_of_topFlag takes tag top, rfl, State.queueReply_onlyAnswered s.openChoice _⟩
  · obtain ⟨⟨waiting, asm, service, -⟩, reports, overflow⟩ := s.reportMasked_onlyAnswered tag m
    have sending := s.reportMasked_sending tag m
    have flag := s.reportMasked_flag tag m
    refine ⟨_, exec_reportMask_of_flags takes tag flags, rfl, ?_, asm, service, reports, overflow, waiting, fun r => ?_,
      fun r rest queued => ?_⟩
    · rw [State.reportMasked_mask]
      simpa using flags
    · refine ⟨State.post_of_masked, s.link.carries_post r, fun off => ?_, fun on => ?_⟩
      · exact State.post_of_masked ((flag r).trans off)
      · exact Link.carries_post _ r sending ((flag r).trans on)
    · obtain ⟨-, -, idle, -⟩ := takes
      refine ⟨_, exec_transmitDone_of_report (service.trans idle) sending rfl (reports.trans queued), ?_, rfl⟩
      exact congrArg (fun marker => some (Outgoing.report r marker)) overflow

end Sys2Proof.Machine
end

section
/-! SUPPORT. What every command can do to the facts every run keeps (`State.Kept`). -/

namespace Sys2Proof.Machine

open Sys2Proof
open State (Late Within)

/-! ## The expiries and lines as events of their own -/

theorem State.armExpiry_late (s : State) (lv : Leave) (f : Feeder) : Late s (s.armExpiry lv f) :=
  (s.armExpiry_seqOnly lv f).late fun o => by
    unfold State.armExpiry
    split
    · exact o.fault lv f _ _ _
    · exact o.stopTimer f

theorem State.bypassExpiry_late (s : State) (lv : Leave) (f : Feeder) : Late s (s.bypassExpiry lv f) :=
  (s.bypassExpiry_seqOnly lv f).late fun o => by
    unfold State.bypassExpiry
    split
    · exact o.release lv f _
    · exact o.fault lv f _ _ _
    · exact o.stopTimer f

theorem State.handoverExpiry_late (s : State) (f : Feeder) : Late s (s.handoverExpiry f) :=
  (s.handoverExpiry_seqOnly f).late fun o => by
    unfold State.handoverExpiry
    split
    · exact o.toPhase f _ _
    · exact o.stopTimer f

theorem State.stopExpiry_late (s : State) (lv : Leave) (f : Feeder) : Late s (s.stopExpiry lv f) :=
  (s.stopExpiry_seqOnly lv f).late fun o => by
    unfold State.stopExpiry
    split
    · exact o.fault lv f _ _ _
    · exact (o.stopTimer f).followOn f _
    · exact o.stopTimer f

/-! ## Guarded commands -/

theorem State.Kept.ite {s t : State} {c : Prop} [Decidable c] (h : s.Kept) (k : c → t.Kept) :
    (if c then t else s).Kept := by
  split
  · next hc => exact k hc
  · exact h

theorem State.Kept.eventIf {s : State} {c : Prop} [Decidable c] (h : s.Kept) (left : Bool) {event : State → State}
    (k : ∀ s, Late s (event s)) : (if c then s.asEvent left event else s).Kept :=
  h.ite fun _ => h.of_within (s.asEvent_late left event k).within

theorem State.Kept.instantIf {s : State} (h : s.Kept) (arises : Bool) (x : SampleInput) (o : Orders) :
    (s.instantIf arises x o).Kept :=
  h.ite fun _ => h.of_within (s.instant_within x o)

/-- A part that reads its image is in LOADING. -/
theorem State.Kept.loading {s : State} (h : s.Kept) (l : (s.live && s.loader.memOp == .load) = true) :
    s.loader.op = .loading ∧ s.inReset = false := by
  simp only [State.live, Bool.and_eq_true, Bool.not_eq_true', beq_iff_eq] at l
  exact ⟨h.2.loading (.inr l.2), l.1⟩

/-! ## The image commands -/

theorem State.Kept.memGood {s : State} (h : s.Kept) : memGood s.image := h.1.memory

theorem execMemoryNoAnswer_kept {s t : State} (h : s.Kept) {w k : Nat} {changed : Changed}
    (e : execMemoryNoAnswer w k changed s = .next t) : t.Kept := by
  injection e with e
  subst e
  split
  · next sv => exact State.endService_kept (h.setImage _ _ (h.memGood.change changed)) _ (by simp [State.replyOwed, sv])
  · next tag offset bytes sv =>
    have good := State.stopWrite_memGood h.memGood offset bytes w
    have kept : State.Kept { s.stopWrite offset bytes w with image := memChange (s.stopWrite offset bytes w).image changed } := by
      have kept := h.setImage _ (s.stopWrite offset bytes w).freeCount (good.change changed)
      unfold State.stopWrite at kept ⊢
      split <;> simp_all
    refine State.endService_kept kept _ ?_
    unfold State.stopWrite
    split <;> simp [State.replyOwed, sv]
  all_goals exact h.ite fun l =>
    State.loadFaulty_kept (h.setImage _ _ (h.memGood.change changed)) (h.loading l).1 (h.loading l).2

theorem execImageReadDone_kept {s t : State} (h : s.Kept) {changed : Changed}
    (e : execImageReadDone changed s = .next t) : t.Kept := by
  injection e with e
  subst e
  split
  · next sv => exact State.endService_kept (h.setImage _ _ (h.memGood.change changed)) _ (by simp [State.replyOwed, sv])
  all_goals exact h

theorem execImageWriteDone_kept {s t : State} (h : s.Kept) {changed : Changed}
    (e : execImageWriteDone changed s = .next t) : t.Kept := by
  injection e with e
  subst e
  split
  · next offset bytes sv =>
    exact State.endService_kept (h.setImage _ _ ((h.memGood.store offset bytes).change changed)) _
      (by simp [State.replyOwed, sv])
  all_goals exact h

/-! ## The link -/

theorem execLinkByteReceived_kept {s t : State} (h : s.Kept) {b : Leaving Byte} {err : Bool}
    (e : execLinkByteReceived b err s = .next t) : t.Kept := by
  injection e with e
  subst e
  split
  · exact h
  split
  · exact State.setAsm_kept h _
  split
  · exact State.completeFrame_kept (State.setAsm_kept h _) _ _
  · exact State.setAsm_kept h _

theorem execTransmitDone_kept {s t : State} (h : s.Kept) (e : execTransmitDone s = .next t) : t.Kept := by
  injection e with e
  subst e
  split
  · exact State.resetBlocks_kept h 0
  split
  · refine h.link _ rfl ((Link.choose_reports_length _).trans h.1.reports) ?_
    have shorter := Link.choose_replies_length { s.link with tx := none }
    refine ⟨shorter.trans h.1.replies.1, fun owed => shorter.trans (h.1.replies.2 ?_)⟩
    simpa [State.replyOwed, Link.finish] using owed
  · exact h

/-! ## Every command -/

/-- Every command keeps the facts every run keeps: one case a command, each by the lemma about its meaning. -/
theorem exec_kept {i : Instr} {s t : State} (h : s.Kept) (e : exec i s = .next t) : t.Kept := by
  cases i
  case linkByteReceived => exact execLinkByteReceived_kept h e
  case memoryNoAnswer => exact execMemoryNoAnswer_kept h e
  case imageReadDone => exact execImageReadDone_kept h e
  case imageWriteDone => exact execImageWriteDone_kept h e
  case transmitDone => exact execTransmitDone_kept h e
  all_goals injection e with e; subst e
  case powerUp w => exact State.resetBlocks_kept h w
  case resetPinAsserted w => exact State.resetBlocks_kept h w
  case resetEnd rate src => exact h.ite fun r => State.endReset_kept h r rate src
  case restartReset rate src =>
    exact h.ite fun _ => State.endReset_kept (State.resetBlocks_kept h 0) rfl rate src
  case imageLoadEnd c =>
    exact h.ite fun l => State.endLoad_kept (h.setImage _ _ (h.memGood.change c.value)) c.leave.choice
      (h.loading l).1 (h.loading l).2
  case sampleSet x o => exact h.ite fun _ => h.of_within (s.instant_within x o)
  case trackerMisses x o => exact h.instantIf _ x o
  case trackerSilence x o => exact h.instantIf _ x o
  case fastTrip x o => exact h.instantIf _ x o
  case recovered x o => exact h.instantIf _ x o
  case eventLimit x o => exact h.instantIf _ x o
  case lockoutDwellComplete x o => exact h.instantIf _ x o
  case rechargeDelayExpiry x o => exact h.instantIf _ x o
  case armTimeout f lv => exact h.eventIf _ fun s => s.armExpiry_late lv f
  case bypassTimerExpiry f lv => exact h.eventIf _ fun s => s.bypassExpiry_late lv f
  case handoverExpiry f => exact h.ite fun _ => h.of_within (s.handoverExpiry_late f).within
  case stopTimerExpiry f => exact h.eventIf _ fun s => s.stopExpiry_late _ f.value
  case slotExamination f slot lv => exact h.eventIf _ fun s => s.examine_late lv f slot
  case portUp f slot lv => exact h.eventIf _ fun s => s.examine_late lv f slot
  case portLost f slot lv => exact h.eventIf _ fun s => s.examine_late lv f slot
  case portRecovered f slot lv => exact h.eventIf _ fun s => s.examine_late lv f slot
  case lineAccepted l => exact h.eventIf _ fun s => s.acceptLine_late false l.leave l.value
  case linkGapTimeout => exact State.setAsm_kept h _
  case unknownRequest => exact State.completeFrame_kept h _ _
  case identify => exact h.serve _ _ identify_keeps
  case statusQuery => exact h.serve _ _ statusQuery_keeps
  case feederQuery => exact h.serve _ _ (feederQuery_keeps _)
  case eventQuery => exact h.serve _ _ (eventQuery_keeps _)
  case eventList => exact h.serve _ _ eventList_keeps
  case take => exact h.serve _ _ (hold_keeps _ _ _)
  case drop => exact h.serve _ _ (hold_keeps _ _ _)
  case takeIfFree => exact h.serve _ _ (hold_keeps _ _ _)
  case takeIfHeld => exact h.serve _ _ (hold_keeps _ _ _)
  case forceClear => exact h.serve _ _ (hold_keeps _ _ _)
  case forceFull => exact h.serve _ _ (hold_keeps _ _ _)
  case peek => exact h.serve _ _ (hold_keeps _ _ _)
  case settingWrite => exact h.serve _ _ (settingWrite_keeps _ _ _)
  case settingWriteLineFreq => exact h.serve _ _ (settingWrite_keeps _ _ _)
  case settingWriteEnabled => exact h.serve _ _ (settingWrite_keeps _ _ _)
  case settingRead => exact h.serve _ _ (settingRead_keeps _ _)
  case classWrite => exact h.serve _ _ (classWrite_keeps _ _ _ _)
  case classRead => exact h.serve _ _ (classRead_keeps _)
  case groupWrite => exact h.serve _ _ (groupWrite_keeps _ _ _ _)
  case groupRead => exact h.serve _ _ (groupRead_keeps _)
  case lineMapWrite => exact h.serve _ _ (lineMapWrite_keeps _ _ _)
  case lineMapRead => exact h.serve _ _ lineMapRead_keeps
  case bankSelect => exact h.serve _ _ (bankSelect_keeps _)
  case faultClear => exact h.serve _ _ (faultClear_keeps _)
  case groupAcksClear => exact h.serve _ _ (groupAcksClear_keeps _)
  case imageRead => exact h.serve _ _ (imageRead_keeps _ _ _)
  case imageWrite => exact h.serve _ _ (imageWrite_keeps _ _ _)
  case restart => exact h.serve _ _ (restart_keeps _)
  case compensationEnable => exact h.serve _ _ compensationEnable_keeps
  case reportMask => exact h.serve _ _ (reportMask_keeps _)

/-- A step with an empty queue idles. -/
theorem step_of_idle {s : State} (h : s.pending = []) : step s = .next s := by
  unfold step
  simp [h]

/-- A step executes the command at the front of the queue. -/
theorem step_of_front {s : State} {c : Instr} {rest : List Instr} (h : s.pending = c :: rest) :
    step s = exec c { s with pending := rest } := by
  unfold step
  simp [h]

/-- Settles O1. -/
theorem stepTakesFrontCommand : Obligations.StepTakesFrontCommand :=
  ⟨fun _ _ _ => step_of_front, fun _ => step_of_idle⟩

/-- The queue of commands is none of what every run keeps. -/
theorem State.Kept.pending {s : State} (h : s.Kept) (q : List Instr) : State.Kept { s with pending := q } :=
  h.link _ rfl h.1.reports h.1.replies |> fun ⟨a, b⟩ =>
    ⟨⟨a.memory, a.reports, a.replies, a.table, a.holds, a.settings, a.classes, a.groups, a.record⟩, ⟨b.1, b.2, b.3, b.4⟩⟩

theorem step_kept {s t : State} (h : s.Kept) (e : step s = .next t) : t.Kept := by
  cases q : s.pending with
  | nil =>
    rw [step_of_idle q] at e
    injection e with e
    exact e ▸ h
  | cons c rest =>
    rw [step_of_front q] at e
    exact exec_kept (h.pending rest) e

end Sys2Proof.Machine
end

section
/-! SUPPORT. The engaged set of every group stays within its members (R80, R136): which operations leave both sets of every
group as they were (`SetsStay`), and the one that sets an engaged set, the grant to a group's candidate unit. -/

namespace Sys2Proof.Machine

open Sys2Proof
open State (Late Within)

/-- Every group keeps its members and its engaged set. -/
def State.SetsStay (s t : State) : Prop :=
  ∀ g, (t.groups.get g).members = (s.groups.get g).members ∧ (t.groups.get g).engaged = (s.groups.get g).engaged

namespace State.SetsStay

variable {s t u : State}

theorem refl (s : State) : SetsStay s s := fun _ => ⟨rfl, rfl⟩

theorem trans (a : SetsStay s t) (b : SetsStay t u) : SetsStay s u := fun g =>
  ⟨(b g).1.trans (a g).1, (b g).2.trans (a g).2⟩

theorem of_eq (h : t.groups = s.groups) : SetsStay s t := fun g => by rw [h]; exact ⟨rfl, rfl⟩

theorem ite {c : Prop} [Decidable c] (a : SetsStay s t) (b : SetsStay s u) : SetsStay s (if c then t else u) := by
  split
  · exact a
  · exact b

theorem engagedWithin (a : SetsStay s t) (h : engagedWithin s.groups) : engagedWithin t.groups := fun g f e => by
  rw [(a g).1]
  rw [(a g).2] at e
  exact h g f e

end State.SetsStay

open State (SetsStay)

/-- A group's record replaced by one with the same two sets. -/
theorem State.setGroup_setsStay (s : State) (g : GroupNo) (r : Group) (m : r.members = (s.groups.get g).members)
    (e : r.engaged = (s.groups.get g).engaged) : SetsStay s (s.setGroup g r) := fun h => by
  by_cases same : h = g
  · subst same
    simpa [State.setGroup] using ⟨m, e⟩
  · simp [State.setGroup, same]

theorem foldl_setsStay {α : Type} {step : State → α → State} (h : ∀ a s, SetsStay s (step s a)) (l : List α) (s : State) :
    SetsStay s (l.foldl step s) :=
  foldl_rel SetsStay.refl SetsStay.trans h l s

theorem forFeeders_setsStay {step : Feeder → State → State} (h : ∀ f s, SetsStay s (step f s)) (s : State) :
    SetsStay s (forFeeders step s) :=
  foldl_setsStay (step := fun s f => step f s) h _ s

theorem forGroups_setsStay {step : GroupNo → State → State} (h : ∀ g s, SetsStay s (step g s)) (s : State) :
    SetsStay s (forGroups step s) :=
  foldl_setsStay (step := fun s f => step f s) h _ s

/-! ## Operations that leave the groups' records as they were -/

@[simp] theorem State.updateEntry_groups (s : State) (f : Feeder) (c : Entry → Entry) :
    (s.updateEntry f c).groups = s.groups := by
  unfold State.updateEntry
  split <;> rfl

@[simp] theorem State.noteRelease_groups (s : State) (f : Feeder) (c : Cause) : (s.noteRelease f c).groups = s.groups :=
  s.updateEntry_groups f _

@[simp] theorem State.noteMode_groups (s : State) (f : Feeder) (m : Mode) : (s.noteMode f m).groups = s.groups :=
  s.updateEntry_groups f _

@[simp] theorem State.postFeederState_groups (s : State) (f : Feeder) (c : Option Cause) :
    (s.postFeederState f c).groups = s.groups := rfl

@[simp] theorem State.postFeederFault_groups (s : State) (f : Feeder) (c : Cause) (l : Option FeederState) :
    (s.postFeederFault f c l).groups = s.groups := rfl

@[simp] theorem State.enterReady_groups (s : State) (f : Feeder) : (s.enterReady f).groups = s.groups := rfl

@[simp] theorem State.releaseAlone_groups (s : State) (f : Feeder) (c : Cause) : (s.releaseAlone f c).groups = s.groups := by
  unfold State.releaseAlone
  simp only
  split <;> simp

@[simp] theorem State.faultAlone_groups (s : State) (f : Feeder) (c : Cause) (ph : SeqPhase) (k : Option TimerKind) :
    (s.faultAlone f c ph k).groups = s.groups := by
  unfold State.faultAlone
  simp only [State.postFeederFault_groups, State.postFeederState_groups]
  split <;> simp

@[simp] theorem State.followOn_groups (s : State) (f : Feeder) (c : Cause) : (s.followOn f c).groups = s.groups := rfl

@[simp] theorem State.toPhase_groups (s : State) (f : Feeder) (ph : SeqPhase) (k : Option TimerKind) :
    (s.toPhase f ph k).groups = s.groups := rfl

@[simp] theorem State.stopTimer_groups (s : State) (f : Feeder) : (s.stopTimer f).groups = s.groups := rfl

@[simp] theorem State.watchBypass_groups (s : State) (f : Feeder) (b : BypassPosition) :
    (s.watchBypass f b).groups = s.groups := by
  unfold State.watchBypass
  simp only
  split <;> rfl

@[simp] theorem State.faultedStatus_groups (s : State) (f : Feeder) (st : ModuleStatus) (b : Option ModuleStatus) :
    (s.faultedStatus f st b).groups = s.groups := by
  unfold State.faultedStatus
  repeat' split
  all_goals simp

@[simp] theorem State.candidateGrant_groups (s : State) (f : Feeder) (m : Mode) :
    (s.candidateGrant f m).groups = s.groups := by
  unfold State.candidateGrant
  simp only
  split <;> rfl

@[simp] theorem State.participantGrant_groups (s : State) (f : Feeder) (m : Mode) :
    (s.participantGrant f m).groups = s.groups := by
  unfold State.participantGrant
  simp only
  repeat' split
  all_goals simp

@[simp] theorem State.tickSequencer_groups (s : State) (now : Bool) (f : Feeder) :
    (s.tickSequencer now f).groups = s.groups := rfl

@[simp] theorem State.takeGroupRequests_groups (s : State) : s.takeGroupRequests.groups = s.groups := by
  unfold State.takeGroupRequests
  refine foldl_keeps (P := fun t => t.groups = s.groups) (fun f t ht => ?_) _ _ rfl
  simp only
  split
  · simpa using ht
  · exact ht

/-! ## The group table -/

theorem Group.settle_sets (r : Group) : r.settle.members = r.members ∧ r.settle.engaged = r.engaged := by
  unfold Group.settle
  split <;> exact ⟨rfl, rfl⟩

theorem State.refuse_setsStay (s : State) (g : GroupNo) (f : Feeder) (a : AbandonCause) : SetsStay s (s.refuse g f a) := by
  have marked (r : Group) (m : r.members = (s.groups.get g).members) (e : r.engaged = (s.groups.get g).engaged)
      (w : FeederSet) : SetsStay s { s.setGroup g r with groupRequests := w } := fun h => s.setGroup_setsStay g r m e h
  unfold State.refuse
  simp only
  split
  · refine marked _ ?_ ?_ _ <;> rfl
  · refine marked _ ?_ ?_ _ <;> rfl
  all_goals refine s.setGroup_setsStay g _ ?_ ?_ <;> rfl

theorem State.takeRefusal_setsStay (s : State) (f : Feeder) (a : AbandonCause) : SetsStay s (s.takeRefusal f a) := by
  unfold State.takeRefusal
  split
  · exact (s.refuse_setsStay _ f a).ite (SetsStay.refl s)
  · exact SetsStay.refl s

theorem State.takeRefusals_setsStay (s : State) : SetsStay s s.takeRefusals := fun g =>
  foldl_setsStay (step := fun s (r : Feeder × AbandonCause) => s.takeRefusal r.1 r.2)
    (fun r s => s.takeRefusal_setsStay r.1 r.2) _ { s with refusals := [] } g

theorem State.takeGroupRequests_setsStay (s : State) : SetsStay s s.takeGroupRequests :=
  SetsStay.of_eq s.takeGroupRequests_groups

theorem State.settleGroups_setsStay (s : State) (lv : Leave) : SetsStay s (s.settleGroups lv) := by
  unfold State.settleGroups
  exact (SetsStay.refl s).ite (s.takeRefusals_setsStay.ite
    (s.takeRefusals_setsStay.trans (State.takeGroupRequests_setsStay _)))

theorem State.depart_setsStay (s : State) (lv : Leave) (f : Feeder) (c : Cause) : SetsStay s (s.depart lv f c) := by
  unfold State.depart
  split
  · exact fun g => State.settleGroups_setsStay _ lv g
  · exact SetsStay.refl s

theorem State.release_setsStay (s : State) (lv : Leave) (f : Feeder) (c : Cause) : SetsStay s (s.release lv f c) := by
  unfold State.release
  exact ((SetsStay.of_eq (s.releaseAlone_groups f c)).trans (State.depart_setsStay _ lv f c)).ite (SetsStay.refl s)

theorem State.fault_setsStay (s : State) (lv : Leave) (f : Feeder) (c : Cause) (ph : SeqPhase) (k : Option TimerKind) :
    SetsStay s (s.fault lv f c ph k) := by
  have alone : SetsStay s (s.faultAlone f c ph k) := SetsStay.of_eq (s.faultAlone_groups f c ph k)
  unfold State.fault
  exact (alone.trans (State.depart_setsStay _ lv f c)).ite alone

theorem State.acknowledge_setsStay (s : State) (f : Feeder) : SetsStay s (s.acknowledge f) := by
  unfold State.acknowledge
  split
  · next g _ =>
    refine SetsStay.ite ?_ (SetsStay.refl s)
    exact s.setGroup_setsStay g _ (Group.settle_sets _).1 (Group.settle_sets _).2
  · exact SetsStay.refl s

theorem State.starveGroup_setsStay (s : State) (g : GroupNo) : SetsStay s (s.starveGroup g) := by
  unfold State.starveGroup
  simp only
  split
  all_goals first | exact s.setGroup_setsStay g _ rfl rfl | exact SetsStay.refl s

theorem State.groupNotNeeded_setsStay (s : State) (g : GroupNo) : SetsStay s (s.groupNotNeeded g) := by
  unfold State.groupNotNeeded
  simp only
  split
  all_goals first | exact s.setGroup_setsStay g _ rfl rfl | exact SetsStay.refl s

theorem State.groupEventEnd_setsStay (s : State) (g : GroupNo) (e : EndCause) : SetsStay s (s.groupEventEnd g e) := by
  have ended (r : Group) (m : r.members = (s.groups.get g).members) (e' : r.engaged = (s.groups.get g).engaged)
      (who : Feeder → Bool) : SetsStay s
        (forFeeders (fun f s => if who f then s.release .nothing f e.cause else s) (s.setGroup g r)) :=
    (s.setGroup_setsStay g r m e').trans
      (forFeeders_setsStay (fun f s => (s.release_setsStay _ f _).ite (SetsStay.refl s)) _)
  unfold State.groupEventEnd
  simp only
  split
  · exact ended { s.groups.get g with state := .idle } rfl rfl _
  · exact ended { s.groups.get g with state := .idle } rfl rfl _
  · exact s.setGroup_setsStay g _ rfl rfl
  · exact SetsStay.refl s

/-! ## Sequencers, ports and lines -/

theorem State.enterInjecting_setsStay (s : State) (f : Feeder) : SetsStay s (s.enterInjecting f) :=
  (SetsStay.of_eq (s := s) rfl).trans (State.acknowledge_setsStay _ f)

theorem State.takeStatus_setsStay (s : State) (lv : Leave) (f : Feeder) (st : ModuleStatus) (b : Option ModuleStatus) :
    SetsStay s (s.takeStatus lv f st b) := by
  have same : SetsStay s s := SetsStay.refl s
  have faulted : SetsStay s (s.fault lv f .bridgeFault .settled none) := s.fault_setsStay _ _ _ _ _
  unfold State.takeStatus
  split
  · exact same
  · exact SetsStay.of_eq (s.faultedStatus_groups f st b)
  · exact faulted.ite same
  · exact faulted.ite same
  · split
    · exact s.enterInjecting_setsStay f
    · exact faulted
    all_goals exact same
  · split
    · exact SetsStay.of_eq (s.watchBypass_groups f _)
    all_goals exact faulted
  · refine faulted.ite ?_
    split
    · exact (SetsStay.of_eq (s.toPhase_groups f _ _)).ite same
    · exact (SetsStay.of_eq (s.enterReady_groups f)).ite same
    all_goals exact same

theorem State.takePortLost_setsStay (s : State) (lv : Leave) (f : Feeder) : SetsStay s (s.takePortLost lv f) := by
  unfold State.takePortLost
  split
  case h_6 => exact SetsStay.of_eq (s.followOn_groups f _)
  case h_7 => exact SetsStay.refl s
  all_goals exact s.fault_setsStay lv f _ _ _

theorem State.armExpiry_setsStay (s : State) (lv : Leave) (f : Feeder) : SetsStay s (s.armExpiry lv f) := by
  unfold State.armExpiry
  exact (s.fault_setsStay lv f _ _ _).ite (SetsStay.of_eq (s.stopTimer_groups f))

theorem State.bypassExpiry_setsStay (s : State) (lv : Leave) (f : Feeder) : SetsStay s (s.bypassExpiry lv f) := by
  unfold State.bypassExpiry
  split
  · exact s.release_setsStay lv f _
  · exact s.fault_setsStay lv f _ _ _
  · exact SetsStay.of_eq (s.stopTimer_groups f)

theorem State.handoverExpiry_setsStay (s : State) (f : Feeder) : SetsStay s (s.handoverExpiry f) := by
  unfold State.handoverExpiry
  exact (SetsStay.of_eq (s.toPhase_groups f _ _)).ite (SetsStay.of_eq (s.stopTimer_groups f))

theorem State.stopExpiry_setsStay (s : State) (lv : Leave) (f : Feeder) : SetsStay s (s.stopExpiry lv f) := by
  unfold State.stopExpiry
  split
  · exact s.fault_setsStay lv f _ _ _
  · exact SetsStay.of_eq (by simp)
  · exact SetsStay.of_eq (s.stopTimer_groups f)

theorem State.expire_setsStay (s : State) (lv : Leave) (f : Feeder) : SetsStay s (s.expire lv f) := by
  unfold State.expire
  split
  · refine SetsStay.ite ?_ (SetsStay.refl s)
    split
    · exact s.armExpiry_setsStay lv f
    · exact s.bypassExpiry_setsStay lv f
    · exact s.handoverExpiry_setsStay f
    · exact s.stopExpiry_setsStay lv f
  · exact SetsStay.refl s

theorem State.holdTaken_setsStay (s : State) (lv : Leave) (f : Feeder) : SetsStay s (s.holdTaken lv f) := by
  unfold State.holdTaken
  split
  · exact SetsStay.of_eq (s.enterReady_groups f)
  · exact s.release_setsStay lv f _
  · exact s.release_setsStay lv f _
  all_goals exact SetsStay.refl s

theorem State.holdFreed_setsStay (s : State) (f : Feeder) : SetsStay s (s.holdFreed f) := by
  unfold State.holdFreed
  exact (SetsStay.of_eq (s.enterReady_groups f)).ite (SetsStay.refl s)

theorem State.hold_setsStay (s : State) (lv : Leave) (f : Feeder) (op : HoldOp) : SetsStay s (s.hold lv f op) := by
  have counted : SetsStay s { s with holds := s.holds.set f (op.apply (s.holds.get f)) } := SetsStay.of_eq rfl
  unfold State.hold
  simp only
  exact (counted.trans (State.holdTaken_setsStay _ lv f)).ite ((counted.trans (State.holdFreed_setsStay _ f)).ite counted)

@[simp] theorem State.postPort_groups (s : State) (f : Feeder) (c : PortCause) : (s.postPort f c).groups = s.groups := rfl

@[simp] theorem State.reportChange_groups (s : State) (f : Feeder) (b : PortState) :
    (s.reportChange f b).groups = s.groups := by
  unfold State.reportChange
  split <;> rfl

@[simp] theorem State.reportDerate_groups (s : State) (f : Feeder) (b : Bool) : (s.reportDerate f b).groups = s.groups := by
  unfold State.reportDerate
  simp only
  split <;> rfl

theorem State.examine_setsStay (s : State) (lv : Leave) (f : Feeder) (slot : Slot) : SetsStay s (s.examine lv f slot) := by
  unfold State.examine
  split
  · next st _ =>
    unfold State.goodSlot
    refine SetsStay.trans (t := s.setPort f { s.port.get f with status := some st }) (SetsStay.of_eq rfl) ?_
    exact (State.takeStatus_setsStay _ lv f st (s.port.get f).status).trans (SetsStay.of_eq (by simp))
  · unfold State.emptySlot
    simp only
    have reported : SetsStay s ((s.setPort f (s.port.get f).countMiss).reportChange f (s.port.get f).state) :=
      SetsStay.of_eq (by simp)
    exact (reported.trans (State.takePortLost_setsStay _ lv f)).ite reported

@[simp] theorem State.takeDown_groups (s : State) (f : Feeder) : (s.takeDown f).groups = s.groups := by
  unfold State.takeDown
  simp only
  repeat' split
  all_goals simp

@[simp] theorem State.bringUp_groups (s : State) (f : Feeder) : (s.bringUp f).groups = s.groups := by
  unfold State.bringUp
  split <;> rfl

@[simp] theorem State.enterRunning_groups (s : State) : s.enterRunning.groups = s.groups := by
  unfold State.enterRunning
  exact foldl_keeps (P := fun t => t.groups = s.groups) (fun f t ht => (t.bringUp_groups f).trans ht) _ _ rfl

@[simp] theorem State.switchBank_groups (s : State) (b : Bank) : (s.switchBank b).groups = s.groups := by
  unfold State.switchBank
  split <;> rfl

end Sys2Proof.Machine
end

section
/-! SUPPORT. Every command keeps the engaged set of every group within its members (R80, R136), and with it the statements
about what every step keeps. -/

namespace Sys2Proof.Machine

open Sys2Proof
open State (Late Within SetsStay)

/-- The engaged sets stay within the members, if they did before. -/
def State.KeepsEngaged (s t : State) : Prop := engagedWithin s.groups → engagedWithin t.groups

namespace State.KeepsEngaged

variable {s t u : State}

theorem trans (a : KeepsEngaged s t) (b : KeepsEngaged t u) : KeepsEngaged s u := fun h => b (a h)

theorem of_eq (h : t.groups = s.groups) : KeepsEngaged s t := fun w => h ▸ w

theorem refl (s : State) : KeepsEngaged s s := id

theorem ite {c : Prop} [Decidable c] (a : KeepsEngaged s t) (b : KeepsEngaged s u) :
    KeepsEngaged s (if c then t else u) := by
  split
  · exact a
  · exact b

end State.KeepsEngaged

open State (KeepsEngaged)

theorem State.SetsStay.keeps {s t : State} (h : SetsStay s t) : KeepsEngaged s t := h.engagedWithin

/-! ## Groups left as they were -/

@[simp] theorem State.closeBudgets_groups (s : State) : s.closeBudgets.groups = s.groups := by
  refine foldl_keeps (P := fun t => t.groups = s.groups) (fun f t ht => ?_) Feeder.list s rfl
  simp only
  split
  · split
    · simpa using ht
    · exact ht
  · exact ht

@[simp] theorem State.deliverStoodBy_groups (s : State) (k : PointKind) (began : Four Group) (units : List UnitGrant) :
    (s.deliverStoodBy k began units).groups = s.groups := by
  refine foldl_keeps (P := fun t => t.groups = s.groups) (fun f t ht => ?_) Feeder.list s rfl
  simp only
  split
  · simpa using ht
  · exact ht

@[simp] theorem State.trackerTo_groups (s : State) (t : Tracker) (c : TrackerCause) : (s.trackerTo t c).groups = s.groups :=
  rfl

@[simp] theorem State.addFacts_groups (s : State) : s.addFacts.groups = s.groups := by
  unfold State.addFacts
  split <;> rfl

@[simp] theorem State.updateMinima_groups (s : State) : s.updateMinima.groups = s.groups := by
  unfold State.updateMinima
  split <;> rfl

@[simp] theorem State.judge_groups (s : State) : s.judge.groups = s.groups := by
  unfold State.judge
  split <;> rfl

@[simp] theorem State.levelTest_groups (s : State) : s.levelTest.groups = s.groups := by
  unfold State.levelTest
  repeat' split
  all_goals rfl

@[simp] theorem State.countBoundary_groups (s : State) : s.countBoundary.groups = s.groups := s.judge_groups

@[simp] theorem State.endHolding_groups (s : State) : s.endHolding.groups = s.groups := by
  unfold State.endHolding
  split <;> rfl

@[simp] theorem State.closeRecord_groups (s : State) (e : EndCause) : (s.closeRecord e).groups = s.groups := by
  unfold State.closeRecord
  split <;> rfl

@[simp] theorem State.settleEnd_groups (s : State) : s.settleEnd.groups = s.groups := s.endHolding_groups

@[simp] theorem State.lockoutStep_groups (s : State) : s.lockoutStep.groups = s.groups := by
  unfold State.lockoutStep
  split <;> rfl

@[simp] theorem State.postStore_groups (s : State) (c : Option StoreCause) : (s.postStore c).groups = s.groups := by
  unfold State.postStore
  split <;> rfl

@[simp] theorem State.updateStore_groups (s : State) (v : Nat) : (s.updateStore v).groups = s.groups := by
  simp [State.updateStore]

@[simp] theorem State.recordsAt_groups (s : State) (x : SampleInput) (o : Orders) (p : RecordPlace) :
    (s.recordsAt x o p).groups = s.groups := (s.sendRecords_keeps _ _).2.2.1

@[simp] theorem State.track_groups (s : State) (x : SampleSet) (o : Orders) : (s.track x o).groups = s.groups := by
  unfold State.track
  simp only
  repeat' split
  all_goals rfl

@[simp] theorem State.takeSample_groups (s : State) (x : SampleInput) (o : Orders) :
    (s.takeSample x o).groups = s.groups := by
  obtain ⟨q, p, l, e⟩ := s.takeSample_eq x o
  rw [e]

@[simp] theorem State.storeSetting_groups (s : State) (id : SettingId) (f : Feeder) (v : Nat) :
    (s.storeSetting id f v).groups = s.groups := by
  unfold State.storeSetting
  split
  · rfl
  · rfl
  · split <;> rfl

@[simp] theorem State.writeLineFreq_groups (s : State) (v : Nat) : (s.writeLineFreq v).groups = s.groups := by
  unfold State.writeLineFreq
  simp only
  split
  · rfl
  · split <;> simp

@[simp] theorem State.writeEnabled_groups (s : State) (f : Feeder) (yes : Bool) :
    (s.writeEnabled f yes).groups = s.groups := by
  unfold State.writeEnabled State.disable
  simp only
  repeat' split
  all_goals simp

/-! ## Units and grants -/

theorem forall_mem_insertClaim {P : Claim → Prop} {c : Claim} {l : List Claim} (hc : P c) (hl : ∀ d ∈ l, P d) :
    ∀ d ∈ insertClaim c l, P d := by
  induction l with
  | nil => simpa [insertClaim] using hc
  | cons a l ih =>
    simp only [List.forall_mem_cons] at hl
    unfold insertClaim
    split
    · simpa using ⟨hc, hl⟩
    · simpa using ⟨hl.1, ih hl.2⟩

theorem forall_mem_orderClaims {P : Claim → Prop} {l : List Claim} (h : ∀ d ∈ l, P d) : ∀ d ∈ orderClaims l, P d := by
  induction l with
  | nil => simp [orderClaims]
  | cons a l ih =>
    simp only [List.forall_mem_cons] at h
    exact forall_mem_insertClaim h.1 (ih h.2)

/-- What the division answers is its claims with their grants. -/
theorem floorPass_claims (reserve : Nat) (l : List Claim) : ∀ p, (floorPass reserve p l).2.map Prod.fst = l := by
  induction l with
  | nil => exact fun _ => rfl
  | cons c l ih =>
    intro p
    unfold floorPass
    split <;> simp [ih]

theorem upgradePass_claims (reserve : Nat) (l : List (Claim × Grant)) :
    ∀ p, (upgradePass reserve p l).map Prod.fst = l.map Prod.fst := by
  induction l with
  | nil => exact fun _ => rfl
  | cons c l ih =>
    intro p
    unfold upgradePass
    split
    · next e => cases e
    · next e =>
      cases e
      split <;> simp [ih]
    · next e =>
      cases e
      simp [ih]

theorem priorityPass_claims (reserve : Nat) (l : List Claim) : ∀ p, (priorityPass reserve p l).map Prod.fst = l := by
  induction l with
  | nil => exact fun _ => rfl
  | cons c l ih =>
    intro p
    unfold priorityPass
    repeat' split
    all_goals simp [ih]

theorem divide_claims (policy : Policy) (reserve available : Nat) (l : List Claim) :
    (divide policy reserve available l).map Prod.fst = l := by
  cases policy with
  | floorFirst => simp [divide, floorFirst, upgradePass_claims, floorPass_claims]
  | priorityFull => exact priorityPass_claims reserve l _

/-- The units of a grant list are the claims of its point, in their order. -/
theorem State.grantList_claims (s : State) (k : PointKind) (began : Four Group) (released : GroupNo → Bool) :
    (s.grantList k began released).map UnitGrant.claim = s.claims k began released := by
  have h := divide_claims s.globals.allocPolicy s.globals.reserve s.store.quanta (s.claims k began released)
  rw [← State.grantList_divides] at h
  simpa [Function.comp_def] using h

/-- A group's candidate claim names members of that group. -/
def Claim.ofMembers (v : Four Group) (c : Claim) : Prop :=
  c.candidate = true → ∀ g, c.group = some g → ∀ m ∈ c.members, (v.get g).members.get m.feeder = true

theorem State.claims_ofMembers (s : State) (k : PointKind) (began : Four Group) (released : GroupNo → Bool) :
    ∀ c ∈ s.claims k began released, c.ofMembers s.groups := by
  have alone (f : Feeder) : ∀ c ∈ s.feederClaim k f, c.ofMembers s.groups := by
    unfold State.feederClaim
    repeat' split
    all_goals simp [Claim.ofMembers]
  have together (g : GroupNo) : ∀ c ∈ s.groupClaim k began released g, c.ofMembers s.groups := by
    unfold State.groupClaim
    simp only
    repeat' split
    case h_1.isTrue =>
      simp only [List.mem_singleton, forall_eq]
      rintro - k same m hm
      obtain rfl : g = k := Option.some.inj same
      simp only [FeederSet.members, List.mem_map, List.mem_filter] at hm
      obtain ⟨f, ⟨⟨-, member⟩, -⟩, rfl⟩ := hm
      exact member
    all_goals simp [Claim.ofMembers]
  refine forall_mem_orderClaims fun c hc => ?_
  simp only [List.mem_append, List.mem_flatMap] at hc
  rcases hc with ⟨f, -, hf⟩ | ⟨g, -, hg⟩
  · exact alone f c hf
  · exact together g c hg

theorem State.grantList_ofMembers (s : State) (k : PointKind) (began : Four Group) (released : GroupNo → Bool) :
    ∀ u ∈ s.grantList k began released, u.claim.ofMembers s.groups := fun u hu => by
  refine s.claims_ofMembers k began released u.claim ?_
  rw [← s.grantList_claims]
  exact List.mem_map_of_mem hu

theorem State.engageGroup_keepsEngaged (s : State) (g : GroupNo) (e : FeederSet)
    (h : ∀ f, e.get f = true → (s.groups.get g).members.get f = true) : KeepsEngaged s (s.engageGroup g e) :=
  fun w k f => by
    by_cases same : k = g
    · subst same
      simpa [State.engageGroup, Group.settle_sets] using h f
    · simpa [State.engageGroup, same] using w k f

theorem UnitGrant.feederSet_get (u : UnitGrant) (f : Feeder) : u.feederSet.get f = true ↔ ∃ m ∈ u.members, m.feeder = f := by
  simp [UnitGrant.feederSet, UnitGrant.feeders]

/-- R86, R87: only a group's candidate unit sets an engaged set, to feeders that are members. -/
theorem State.deliverUnit_keepsEngaged (s : State) (u : UnitGrant) (h : u.claim.ofMembers s.groups) :
    KeepsEngaged s (s.deliverUnit u) := by
  unfold State.deliverUnit
  split
  · next m candidate _ =>
    have armed : (u.feeders.foldl (fun s f => (s.candidateGrant f m).updateEntry f fun e => e.engage m) s).groups =
        s.groups :=
      foldl_keeps (P := fun t => t.groups = s.groups) (fun f t ht => by simpa using ht) _ s rfl
    unfold State.deliverCandidate
    simp only
    split
    · next g group =>
      refine (KeepsEngaged.of_eq armed).trans (State.engageGroup_keepsEngaged _ g _ fun f hf => ?_)
      obtain ⟨d, hd, rfl⟩ := (u.feederSet_get f).mp hf
      rw [armed]
      exact h candidate g group d hd
    · exact KeepsEngaged.of_eq armed
  · exact KeepsEngaged.refl s
  · exact KeepsEngaged.of_eq
      (foldl_keeps (P := fun t => t.groups = s.groups) (fun f t ht => by simpa using ht) _ s rfl)
  · unfold State.deliverStarved
    simp only
    split
    · exact ((s.starveGroup_setsStay _).trans (foldl_setsStay (fun f s => s.release_setsStay _ f _) _ _)).keeps
    · exact (foldl_setsStay (fun f s => s.release_setsStay _ f _) _ _).keeps

theorem State.releaseNotNeeded_setsStay (s : State) (which : GroupNo → Bool) : SetsStay s (s.releaseNotNeeded which) := by
  unfold State.releaseNotNeeded
  refine (forFeeders_setsStay (fun f s => ?_) s).trans (forGroups_setsStay (fun g s => ?_) _)
  · unfold State.releaseUngrouped
    exact (s.release_setsStay _ f _).ite (SetsStay.refl s)
  · exact (foldl_setsStay (fun f s => s.release_setsStay _ f _) _ s).ite (SetsStay.refl s)

theorem State.tellNotNeeded_setsStay (s : State) (which : GroupNo → Bool) : SetsStay s (s.tellNotNeeded which) :=
  forGroups_setsStay (fun g s => (s.groupNotNeeded_setsStay g).ite (SetsStay.refl s)) s

/-- R73: an allocation point keeps the engaged sets within the members. -/
theorem State.allocate_keepsEngaged (s : State) (k : PointKind) (between : State → State)
    (hb : ∀ s, SetsStay s (between s)) : KeepsEngaged s (s.allocate k between) := by
  have delivered (v : Four Group) (units : List UnitGrant) (h : ∀ u ∈ units, u.claim.ofMembers v) :
      ∀ t : State, (∀ g, (t.groups.get g).members = (v.get g).members) → engagedWithin t.groups →
        engagedWithin (units.foldl (fun s u => s.deliverUnit u) t).groups := by
    induction units with
    | nil => exact fun _ _ w => w
    | cons u units ih =>
      intro t same w
      simp only [List.forall_mem_cons] at h
      refine ih h.2 _ (fun g => ((t.deliverUnit_late u).within.frame.groups g).1.trans (same g)) ?_
      refine t.deliverUnit_keepsEngaged u (fun c g hg m hm => ?_) w
      rw [same g]
      exact h.1 c g hg m hm
  intro w
  unfold State.allocate
  simp only
  generalize hr : (if k.isBoundary = true then s.releaseNotNeeded fun g => k.isBoundary && s.groupReleased g else s) = r
  have released : SetsStay s r := hr ▸ (s.releaseNotNeeded_setsStay _).ite (SetsStay.refl s)
  have settled (u : State) (e : u.groups = r.groups) (which : GroupNo → Bool) :
      SetsStay r ((between u).tellNotNeeded which) :=
    ((SetsStay.of_eq e).trans (hb u)).trans (State.tellNotNeeded_setsStay _ _)
  refine delivered r.groups _ (r.grantList_ofMembers k _ _) _ (fun g => ?_) ?_
  · exact (settled _ (by exact r.deliverStoodBy_groups _ _ _) _ g).1
  · exact (released.trans (settled _ (by exact r.deliverStoodBy_groups _ _ _) _)).engagedWithin w

/-! ## The detector and the events of an instant -/

theorem State.onset_keepsEngaged (s : State) (c : OnsetCause) (heard : Bool) (between : State → State)
    (hb : ∀ s, SetsStay s (between s)) : KeepsEngaged s (s.onset c heard between) := by
  unfold State.onset
  simp only
  have opened (u : State) (e : u.groups = s.groups) (k : Compensability) :
      KeepsEngaged s (if k = .compensable then (u.openRecord c k).allocate (.onset c) between else u.openRecord c k) := by
    have stays : KeepsEngaged s (u.openRecord c k) := KeepsEngaged.of_eq e
    exact (stays.trans (State.allocate_keepsEngaged _ _ _ hb)).ite stays
  refine opened _ ?_ _
  split <;> rfl

theorem State.externalTrigger_keepsEngaged (s : State) : KeepsEngaged s s.externalTrigger := by
  unfold State.externalTrigger
  exact (s.onset_keepsEngaged _ _ _ SetsStay.refl).ite (KeepsEngaged.refl s)

theorem State.acceptLine_keepsEngaged (s : State) (weighed : Bool) (lv : Leave) (l : Line) :
    KeepsEngaged s (s.acceptLine weighed lv l) := by
  have stays (x : LineState) : KeepsEngaged s (s.setLine l x) := KeepsEngaged.of_eq rfl
  unfold State.acceptLine
  simp only
  refine KeepsEngaged.ite ?_ (KeepsEngaged.refl s)
  split
  · split
    · exact (stays _).trans (State.hold_setsStay _ lv _ _).keeps
    · exact stays _
  · exact ((stays _).trans (State.externalTrigger_keepsEngaged _)).ite (stays _)
  · split
    · exact (stays _).trans (KeepsEngaged.of_eq (State.switchBank_groups _ _))
    · exact stays _
  · exact stays _

theorem forFeeders_keepsEngaged {step : Feeder → State → State} (h : ∀ f s, KeepsEngaged s (step f s)) (s : State) :
    KeepsEngaged s (forFeeders step s) :=
  foldl_keeps (P := fun t => engagedWithin t.groups) (step := fun s f => step f s) (fun f s => h f s) _ s

theorem forLines_keepsEngaged {step : Line → State → State} (h : ∀ l s, KeepsEngaged s (step l s)) (s : State) :
    KeepsEngaged s (forLines step s) :=
  foldl_keeps (P := fun t => engagedWithin t.groups) (step := fun s l => step l s) (fun l s => h l s) _ s

theorem State.takePlaced_keepsEngaged (s : State) (o : Orders) (p : Place) : KeepsEngaged s (s.takePlaced o p) := by
  unfold State.takePlaced
  exact (forLines_keepsEngaged (fun l s => (s.acceptLine_keepsEngaged _ _ l).ite (KeepsEngaged.refl s)) s).trans
    (forFeeders_keepsEngaged (fun f s => (s.expire_setsStay _ f).keeps.ite (KeepsEngaged.refl s)) _)

theorem State.refusalsBetween_setsStay (s : State) (o : Orders) : SetsStay s (s.refusalsBetween o) := by
  unfold State.refusalsBetween
  exact s.takeRefusals_setsStay.ite (SetsStay.refl s)

theorem State.endEvent_setsStay (s : State) (e : EndCause) : SetsStay s (s.endEvent e) := by
  rw [State.endEvent_eq]
  have left : SetsStay s (s.leaveEvent e) := SetsStay.of_eq rfl
  have released (u : State) : SetsStay u (forFeeders (fun f s => s.release .nothing f e.cause) u) :=
    forFeeders_setsStay (fun f s => s.release_setsStay _ f _) u
  have told (u : State) : SetsStay u (forGroups (fun g s => s.groupEventEnd g e) u) :=
    forGroups_setsStay (fun g s => s.groupEventEnd_setsStay g e) u
  have notified : SetsStay s (s.notified e) := (left.trans (released _)).trans (told _)
  exact notified.trans (SetsStay.of_eq (by simp))

theorem State.boundaryStep_keepsEngaged (s : State) (stepped between : State → State)
    (hs : ∀ s, (stepped s).groups = s.groups) (hb : ∀ s, SetsStay s (between s)) :
    KeepsEngaged s (s.boundaryStep stepped between) := by
  have counted : KeepsEngaged s (stepped s.addFacts.closeBudgets.countBoundary) :=
    KeepsEngaged.of_eq ((hs _).trans (by simp))
  unfold State.boundaryStep
  simp only
  split
  · exact counted.trans (State.endEvent_setsStay _ _).keeps
  · exact KeepsEngaged.ite (counted.trans (State.allocate_keepsEngaged _ _ _ hb)) counted

theorem State.detect_keepsEngaged (s : State) (x : SampleInput) (o : Orders) (boundary external heard : Bool) :
    KeepsEngaged s (s.detect x o boundary external heard) := by
  have sent (u : State) : KeepsEngaged u (u.recordsAt x o .stepped) := KeepsEngaged.of_eq (u.recordsAt_groups x o _)
  have between (u : State) : SetsStay u (u.refusalsBetween o) := u.refusalsBetween_setsStay o
  have cleared (u : State) : KeepsEngaged u (if boundary then u.clearInjected else u) :=
    KeepsEngaged.ite (KeepsEngaged.of_eq (t := u.clearInjected) rfl) (KeepsEngaged.refl u)
  have tested : KeepsEngaged s s.updateMinima.levelTest := KeepsEngaged.of_eq (by simp)
  unfold State.detect
  simp only
  refine KeepsEngaged.trans ?_ (cleared _)
  split
  · split
    · exact (sent s).trans (State.onset_keepsEngaged _ _ _ _ between)
    · exact sent s
  · exact tested.trans ((State.boundaryStep_keepsEngaged _ _ _ (fun u => u.recordsAt_groups x o _) between).ite (sent _))
  · exact tested.trans ((State.boundaryStep_keepsEngaged _ _ _ (fun u => u.recordsAt_groups x o _) between).ite (sent _))
  · exact ((sent s).trans (KeepsEngaged.of_eq (State.lockoutStep_groups _))).ite (sent s)

theorem State.takeLeftOver_keepsEngaged (s : State) (o : Orders) : KeepsEngaged s (s.takeLeftOver o) := by
  unfold State.takeLeftOver
  have refusals : KeepsEngaged s (if o.refusals = .atOnce then s.takeRefusals else s) :=
    s.takeRefusals_setsStay.keeps.ite (KeepsEngaged.refl s)
  have requests (u : State) : KeepsEngaged u (if o.requests = .atOnce then u.takeGroupRequests else u) :=
    u.takeGroupRequests_setsStay.keeps.ite (KeepsEngaged.refl u)
  have expired (u : State) :
      KeepsEngaged u (forFeeders (fun f s => if s.anyExpiryDue f then s.expire .nothing f else s) u) :=
    forFeeders_keepsEngaged (fun f s => (s.expire_setsStay _ f).keeps.ite (KeepsEngaged.refl s)) u
  have accepted (u : State) : KeepsEngaged u (forLines (fun l s => s.acceptLine false .nothing l) u) :=
    forLines_keepsEngaged (fun l s => s.acceptLine_keepsEngaged _ _ l) u
  have settled (u : State) (kept : Feeder → Bool) : KeepsEngaged u (u.settleTimers kept) := KeepsEngaged.of_eq rfl
  exact (((refusals.trans (requests _)).trans (expired _)).trans (accepted _)).trans (settled _ _)

theorem State.closeInstant_keepsEngaged (s : State) (o : Orders) : KeepsEngaged s (s.closeInstant o) := by
  have taken (l : Link) : KeepsEngaged s (State.takeLeftOver { s with link := l } o) :=
    KeepsEngaged.trans (t := { s with link := l }) (KeepsEngaged.of_eq rfl) (State.takeLeftOver_keepsEngaged _ o)
  have resumed (u : State) (l : Link) : KeepsEngaged u { u with link := l } := KeepsEngaged.of_eq rfl
  have unmarked (u : State) (d : Detector) : KeepsEngaged u { u with detector := d } := KeepsEngaged.of_eq rfl
  unfold State.closeInstant State.beforeChoice
  exact (((taken _).trans (resumed _ _)).ite (taken _)).trans (unmarked _ _)

theorem State.prepare_keepsEngaged (s : State) (x : SampleInput) (o : Orders) : KeepsEngaged s (s.prepare x o) := by
  have sampled : KeepsEngaged s ((s.closeInstant o).takeSample x o) :=
    (s.closeInstant_keepsEngaged o).trans (KeepsEngaged.of_eq (State.takeSample_groups _ x o))
  have measured (u : State) : KeepsEngaged u ((u.evaluateAt o .start).measure (SampleSet.ofInput x)) :=
    KeepsEngaged.of_eq rfl
  have stored (u : State) (v : Nat) : KeepsEngaged u (u.updateStore v) := KeepsEngaged.of_eq (u.updateStore_groups v)
  unfold State.prepare
  exact ((sampled.trans (measured _)).trans (stored _ _)).ite (sampled.trans (measured _))

theorem State.closing_keepsEngaged (s : State) (x : SampleInput) (o : Orders) (n : Option Nat) :
    KeepsEngaged s (s.closing x o n) := by
  have output (u : State) (p : Stage) : KeepsEngaged u (u.evaluateAt o p) := KeepsEngaged.of_eq rfl
  have sent (u : State) (p : RecordPlace) : KeepsEngaged u (u.recordsAt x o p) :=
    KeepsEngaged.of_eq (u.recordsAt_groups x o p)
  have placed (u : State) : KeepsEngaged u (u.beforeDetector x o) :=
    ((((output u .tracked).trans (sent _ .first)).trans (State.takePlaced_keepsEngaged _ o .first)).trans
      (sent _ .placed)).trans (output _ .placed)
  cases n with
  | none => exact placed s
  | some n => exact KeepsEngaged.trans (t := s.closeHalfCycle n) (KeepsEngaged.of_eq rfl) (placed _)

theorem State.finish_keepsEngaged (s : State) (x : SampleInput) (o : Orders) : KeepsEngaged s (s.finish x o) := by
  have output (u : State) (p : Stage) : KeepsEngaged u (u.evaluateAt o p) := KeepsEngaged.of_eq rfl
  have sent (u : State) (p : RecordPlace) : KeepsEngaged u (u.recordsAt x o p) :=
    KeepsEngaged.of_eq (u.recordsAt_groups x o p)
  have stored (u : State) : KeepsEngaged u (if o.storeEarly then u else u.updateStore (SampleSet.ofInput x).store) :=
    (KeepsEngaged.refl u).ite (KeepsEngaged.of_eq (u.updateStore_groups _))
  have closed (u : State) (left : Bool) : KeepsEngaged u ((u.settleTimers fun _ => false).settleChoice left) :=
    KeepsEngaged.of_eq (State.settleChoice_groups _ left)
  unfold State.finish
  exact (((((((((s.settleGroups_setsStay o.leaveLate).keeps.trans (output _ .detected)).trans
    (State.takePlaced_keepsEngaged _ o .middle)).trans (sent _ .last)).trans (stored _)).trans (output _ .stored)).trans
    (State.takePlaced_keepsEngaged _ o .last)).trans (output _ .last)).trans (closed _ _))

theorem State.instant_keepsEngaged (s : State) (x : SampleInput) (o : Orders) : KeepsEngaged s (s.instant x o) := by
  have tracked : KeepsEngaged s (s.tracked x o) :=
    (s.prepare_keepsEngaged x o).trans (KeepsEngaged.of_eq (State.track_groups _ _ _))
  unfold State.instant
  exact ((tracked.trans (State.closing_keepsEngaged _ x o _)).trans (State.detect_keepsEngaged _ _ _ _ _ _)).trans
    (State.finish_keepsEngaged _ x o)

/-! ## Requests -/

/-- A request's rule keeps the engaged sets within the members. -/
def RuleKeepsEngaged (rule : State → State × Option Answer) : Prop := ∀ s, KeepsEngaged s (rule s).1

theorem RuleKeepsEngaged.serve {rule : State → State × Option Answer} (h : RuleKeepsEngaged rule) (s : State)
    (kind tag : Byte) : KeepsEngaged s (s.serve kind tag rule) := by
  rcases s.serve_cases kind tag rule with e | ⟨-, -, e⟩ | ⟨-, t, a, r, e⟩ | ⟨-, t, r, e⟩ <;> rw [e]
  · exact KeepsEngaged.refl s
  · exact KeepsEngaged.of_eq rfl
  · exact fun w => by simpa [r] using h s.openChoice w
  · exact fun w => by simpa [r] using h s.openChoice w

theorem RuleKeepsEngaged.same {rule : State → State × Option Answer} (h : ∀ s, (rule s).1.groups = s.groups) :
    RuleKeepsEngaged rule := fun s => KeepsEngaged.of_eq (h s)

/-- A group's record replaced by one with an empty engaged set. -/
theorem State.setGroup_keepsEngaged (s : State) (g : GroupNo) (r : Group) (h : r.engaged = FeederSet.empty) :
    KeepsEngaged s (s.setGroup g r) := fun w k f => by
  by_cases same : k = g
  · subst same
    simp [State.setGroup, h, FeederSet.get_empty]
  · simpa [State.setGroup, same] using w k f

theorem hold_keepsEngaged (feeder : Byte) (op : HoldOp) (lv : Leave) : RuleKeepsEngaged (answerHold feeder op lv) :=
  fun s => by
    unfold answerHold
    split
    · exact KeepsEngaged.refl s
    · exact (s.hold_setsStay lv _ op).keeps

theorem settingWrite_groups (i f : Byte) (v : Nat) (s : State) : (answerSettingWrite i f v s).1.groups = s.groups := by
  unfold answerSettingWrite State.applySetting
  repeat' split
  all_goals simp [State.refuseWith]

theorem classWrite_groups (c : Byte) (m : Nat) (n : Byte) (l : List Byte) (s : State) :
    (answerClassWrite c m n l s).1.groups = s.groups := by
  unfold answerClassWrite
  repeat' split
  all_goals try rfl
  simp only
  split <;> rfl

theorem groupWrite_keepsEngaged (g m l r : Byte) : RuleKeepsEngaged (answerGroupWrite g m l r) := fun s => by
  unfold answerGroupWrite
  split
  · split
    · exact KeepsEngaged.refl s
    · split
      · exact KeepsEngaged.refl s
      · exact s.setGroup_keepsEngaged _ _ rfl
  · exact KeepsEngaged.refl s

theorem groupAcksClear_keepsEngaged (g : Byte) : RuleKeepsEngaged (answerGroupAcksClear g) := fun s => by
  unfold answerGroupAcksClear
  split
  · exact KeepsEngaged.refl s
  · simp only
    split
    · exact KeepsEngaged.refl s
    · exact KeepsEngaged.refl s
    all_goals exact s.setGroup_keepsEngaged _ _ rfl

theorem lineMapWrite_keepsEngaged (l c : Byte) (lv : Leave) : RuleKeepsEngaged (answerLineMapWrite l c lv) := fun s => by
  have binding (u : State) (low : Bool) (c : EventCode) (op : HoldOp) : SetsStay u (u.bindingHold lv low c op) := by
    unfold State.bindingHold
    split
    · exact (u.hold_setsStay lv _ op).ite (SetsStay.refl u)
    · exact SetsStay.refl u
  unfold answerLineMapWrite State.rebindLine
  split
  · next l c _ _ =>
    simp only
    refine KeepsEngaged.ite (KeepsEngaged.refl s) ?_
    refine KeepsEngaged.trans (t := s.setLine l ((s.lines.get l).rebind c)) (KeepsEngaged.of_eq rfl) ?_
    exact ((binding _ _ _ _).trans (binding _ _ _ _)).keeps
  · exact KeepsEngaged.refl s

theorem bankSelect_groups (b : Byte) (s : State) : (answerBankSelect b s).1.groups = s.groups := by
  unfold answerBankSelect
  split
  · rfl
  · simp only [State.switchBank_groups]
    split <;> rfl

theorem faultClear_groups (f : Byte) (s : State) : (answerFaultClear f s).1.groups = s.groups := by
  unfold answerFaultClear
  repeat' split
  all_goals rfl

theorem compensationEnable_groups (s : State) : (answerCompensationEnable s).1.groups = s.groups := by
  unfold answerCompensationEnable
  split
  · exact s.enterRunning_groups
  · rfl

/-- A rule that reads and answers, changing nothing. -/
def Reads (rule : State → State × Option Answer) : Prop := ∀ s, ∃ a, rule s = (s, some a)

theorem Reads.keepsEngaged {rule : State → State × Option Answer} (h : Reads rule) : RuleKeepsEngaged rule := fun s => by
  obtain ⟨a, e⟩ := h s
  rw [e]
  exact KeepsEngaged.refl s

theorem Reads.answer (a : State → Answer) : Reads fun s => s.answer (a s) := fun _ => ⟨_, rfl⟩

theorem Reads.refuse (st : Status) : Reads fun s => s.refuseWith st := fun _ => ⟨_, rfl⟩

theorem answerFeederQuery_reads (f : Byte) : Reads (answerFeederQuery f) := fun s => by
  unfold answerFeederQuery
  split <;> exact ⟨_, rfl⟩

theorem answerEventQuery_reads (n : Nat) : Reads (answerEventQuery n) := fun s => by
  unfold answerEventQuery
  split <;> exact ⟨_, rfl⟩

theorem answerSettingRead_reads (i f : Byte) : Reads (answerSettingRead i f) := fun s => by
  unfold answerSettingRead
  repeat' split
  all_goals exact ⟨_, rfl⟩

theorem answerClassRead_reads (c : Byte) : Reads (answerClassRead c) := fun s => by
  unfold answerClassRead
  split <;> exact ⟨_, rfl⟩

theorem answerGroupRead_reads (g : Byte) : Reads (answerGroupRead g) := fun s => by
  unfold answerGroupRead
  split <;> exact ⟨_, rfl⟩

/-- R168: a rule of a request reads, or is one of those that write. -/
theorem requestRule_cases {P : (State → State × Option Answer) → Prop} (reads : ∀ rule, Reads rule → P rule)
    (hold : ∀ f op lv, P (answerHold f op lv)) (setting : ∀ i f v, P (answerSettingWrite i f v))
    (cls : ∀ c m n l, P (answerClassWrite c m n l)) (group : ∀ g m l r, P (answerGroupWrite g m l r))
    (line : ∀ l c lv, P (answerLineMapWrite l c lv)) (bank : ∀ b, P (answerBankSelect b))
    (fault : ∀ f, P (answerFaultClear f)) (acks : ∀ g, P (answerGroupAcksClear g))
    (read : ∀ tag o n, P (answerImageRead tag o n)) (write : ∀ tag o b, P (answerImageWrite tag o b))
    (restart : ∀ tag, P (answerRestart tag)) (enable : P answerCompensationEnable) (mask : ∀ m, P (answerReportMask m))
    (kind tag : Byte) (payload : List Byte) (lv : Leave) : P (requestRule kind tag payload lv) := by
  have length : P answerLength := reads _ (Reads.refuse .length)
  unfold requestRule
  split
  case h_6 =>
    split
    · next f op =>
      cases HoldOp.ofCode? op.toNat with
      | some op => exact hold f op lv
      | none => exact reads _ (Reads.refuse .value)
    · exact length
  case h_23 => exact reads _ (Reads.refuse .unknown)
  all_goals split
  · exact reads _ (Reads.answer _)
  · exact length
  · exact reads _ (Reads.answer _)
  · exact length
  · exact reads _ (answerFeederQuery_reads _)
  · exact length
  · exact reads _ (answerEventQuery_reads _)
  · exact length
  · exact reads _ (Reads.answer _)
  · exact length
  · exact setting _ _ _
  · exact length
  · exact reads _ (answerSettingRead_reads _ _)
  · exact length
  · exact cls _ _ _ _
  · exact length
  · exact reads _ (answerClassRead_reads _)
  · exact length
  · exact group _ _ _ _
  · exact length
  · exact reads _ (answerGroupRead_reads _)
  · exact length
  · exact line _ _ _
  · exact length
  · exact reads _ (Reads.answer _)
  · exact length
  · exact bank _
  · exact length
  · exact fault _
  · exact length
  · exact acks _
  · exact length
  · exact read _ _ _
  · exact length
  · exact write _ _ _
  · exact length
  · exact restart _
  · exact length
  · exact enable
  · exact length
  · exact mask _
  · exact length

theorem imageRead_groups (tag : Byte) (o n : Nat) (s : State) : (answerImageRead tag o n s).1.groups = s.groups := by
  unfold answerImageRead
  split <;> rfl

theorem imageWrite_groups (tag : Byte) (o : Nat) (b : List Byte) (s : State) :
    (answerImageWrite tag o b s).1.groups = s.groups := by
  unfold answerImageWrite
  repeat' split
  all_goals rfl

theorem restart_groups (tag : Byte) (s : State) : (answerRestart tag s).1.groups = s.groups := by
  unfold answerRestart
  split <;> rfl

theorem reportMask_groups (m : Byte) (s : State) : (answerReportMask m s).1.groups = s.groups := by
  unfold answerReportMask
  split <;> rfl

theorem requestRule_keepsEngaged (kind tag : Byte) (payload : List Byte) (lv : Leave) :
    RuleKeepsEngaged (requestRule kind tag payload lv) :=
  requestRule_cases (fun _ => Reads.keepsEngaged) hold_keepsEngaged (fun i f v => .same (settingWrite_groups i f v))
    (fun c m n l => .same (classWrite_groups c m n l)) groupWrite_keepsEngaged lineMapWrite_keepsEngaged
    (fun b => .same (bankSelect_groups b)) (fun f => .same (faultClear_groups f)) groupAcksClear_keepsEngaged
    (fun tag o n => .same (imageRead_groups tag o n)) (fun tag o b => .same (imageWrite_groups tag o b))
    (fun tag => .same (restart_groups tag)) (.same compensationEnable_groups) (fun m => .same (reportMask_groups m))
    kind tag payload lv

theorem State.completeFrame_keepsEngaged (s : State) (bytes : List Byte) (lv : Leave) :
    KeepsEngaged s (s.completeFrame bytes lv) := by
  unfold State.completeFrame
  split
  · exact (requestRule_keepsEngaged _ _ _ lv).serve s _ _
  · split
    · exact (Reads.refuse .length).keepsEngaged.serve s _ _
    · exact (Reads.refuse .unknown).keepsEngaged.serve s _ _
  · exact KeepsEngaged.refl s

/-! ## Resets and the image -/

theorem engagedWithin_of_empty {v : Four Group} (h : ∀ g, (v.get g).engaged = FeederSet.empty) : engagedWithin v :=
  fun g f e => by simp [h g, FeederSet.get_empty] at e

theorem loadGroup_engaged (m : List Host.Cell) (placed : FeederSet) (g : GroupNo) :
    (loadGroup m placed g).engaged = FeederSet.empty := by
  unfold loadGroup
  split <;> rfl

theorem loadGroups_engagedWithin (m : List Host.Cell) : engagedWithin (loadGroups m) :=
  engagedWithin_of_empty fun g => by cases g <;> exact loadGroup_engaged _ _ _

theorem State.reset_engagedWithin : engagedWithin State.reset.groups :=
  engagedWithin_of_empty fun g => by cases g <;> rfl

theorem State.resetBlocks_engagedWithin (s : State) (w : Nat) : engagedWithin (s.resetBlocks w).groups :=
  State.reset_engagedWithin

theorem State.endReset_groups (s : State) (rate src : Bool) : (s.endReset rate src).groups = s.groups := by
  unfold State.endReset
  simp only
  split <;> rfl

theorem State.asEvent_keepsEngaged (s : State) (left : Bool) {event : State → State} (h : ∀ s, KeepsEngaged s (event s)) :
    KeepsEngaged s (s.asEvent left event) := by
  have opened : KeepsEngaged s (if left then s.openChoice else s) :=
    (KeepsEngaged.of_eq (State.openChoice_groups s)).ite (KeepsEngaged.refl s)
  exact (opened.trans (h _)).trans (KeepsEngaged.of_eq (State.settleChoice_groups _ left))

theorem State.loadGood_engagedWithin (s : State) : engagedWithin s.loadGood.groups := by
  unfold State.loadGood
  rw [State.enterRunning_groups]
  exact loadGroups_engagedWithin s.image

theorem State.endLoad_keepsEngaged (s : State) (left : Bool) : KeepsEngaged s (s.endLoad left) := by
  unfold State.endLoad
  exact (s.asEvent_keepsEngaged left fun s _ => s.loadGood_engagedWithin).ite (KeepsEngaged.of_eq rfl)

theorem execMemoryNoAnswer_keepsEngaged {s t : State} {w k : Nat} {changed : Changed}
    (e : execMemoryNoAnswer w k changed s = .next t) : KeepsEngaged s t := by
  injection e with e
  subst e
  split
  · exact KeepsEngaged.of_eq rfl
  · refine KeepsEngaged.of_eq ?_
    unfold State.writeUnanswered State.stopWrite
    simp only
    split <;> rfl
  all_goals
    refine KeepsEngaged.ite ?_ (KeepsEngaged.refl s)
    exact KeepsEngaged.of_eq rfl

theorem execImageReadDone_keepsEngaged {s t : State} {changed : Changed}
    (e : execImageReadDone changed s = .next t) : KeepsEngaged s t := by
  injection e with e
  subst e
  split <;> exact KeepsEngaged.of_eq rfl

theorem execImageWriteDone_keepsEngaged {s t : State} {changed : Changed}
    (e : execImageWriteDone changed s = .next t) : KeepsEngaged s t := by
  injection e with e
  subst e
  split <;> exact KeepsEngaged.of_eq rfl

theorem execLinkByteReceived_keepsEngaged {s t : State} {b : Leaving Byte} {err : Bool}
    (e : execLinkByteReceived b err s = .next t) : KeepsEngaged s t := by
  injection e with e
  subst e
  have set (a : Assembler) : KeepsEngaged s (s.setAsm a) := KeepsEngaged.of_eq rfl
  refine (KeepsEngaged.refl s).ite ((set _).ite ?_)
  split
  · exact (set _).trans (State.completeFrame_keepsEngaged _ _ _)
  · exact set _

theorem execTransmitDone_keepsEngaged {s t : State} (e : execTransmitDone s = .next t) : KeepsEngaged s t := by
  injection e with e
  subst e
  refine KeepsEngaged.ite (fun _ => s.resetBlocks_engagedWithin 0) ?_
  split <;> exact KeepsEngaged.of_eq rfl

/-! ## Every command -/

theorem State.eventIf_keepsEngaged {s : State} {c : Prop} [Decidable c] (left : Bool) {event : State → State}
    (h : ∀ s, KeepsEngaged s (event s)) : KeepsEngaged s (if c then s.asEvent left event else s) :=
  (s.asEvent_keepsEngaged left h).ite (KeepsEngaged.refl s)

theorem State.instantIf_keepsEngaged (s : State) (arises : Bool) (x : SampleInput) (o : Orders) :
    KeepsEngaged s (s.instantIf arises x o) :=
  (s.instant_keepsEngaged x o).ite (KeepsEngaged.refl s)

/-- Every command keeps the engaged sets within the members: one case a command, each by the lemma about its meaning. -/
theorem exec_keepsEngaged {i : Instr} {s t : State} (e : exec i s = .next t) : KeepsEngaged s t := by
  cases i
  case linkByteReceived => exact execLinkByteReceived_keepsEngaged e
  case memoryNoAnswer => exact execMemoryNoAnswer_keepsEngaged e
  case imageReadDone => exact execImageReadDone_keepsEngaged e
  case imageWriteDone => exact execImageWriteDone_keepsEngaged e
  case transmitDone => exact execTransmitDone_keepsEngaged e
  all_goals injection e with e; subst e
  case powerUp w => exact fun _ => s.resetBlocks_engagedWithin w
  case resetPinAsserted w => exact fun _ => s.resetBlocks_engagedWithin w
  case resetEnd rate src => exact (KeepsEngaged.of_eq (s.endReset_groups rate src)).ite (KeepsEngaged.refl s)
  case restartReset rate src =>
    refine KeepsEngaged.ite (fun _ => ?_) (KeepsEngaged.refl s)
    rw [State.endReset_groups]
    exact s.resetBlocks_engagedWithin 0
  case imageLoadEnd c =>
    refine KeepsEngaged.ite (KeepsEngaged.trans (t := { s with image := memChange s.image c.value }) ?_
      (State.endLoad_keepsEngaged _ c.leave.choice)) (KeepsEngaged.refl s)
    exact KeepsEngaged.of_eq rfl
  case sampleSet x o => exact (s.instant_keepsEngaged x o).ite (KeepsEngaged.refl s)
  case trackerMisses x o => exact s.instantIf_keepsEngaged _ x o
  case trackerSilence x o => exact s.instantIf_keepsEngaged _ x o
  case fastTrip x o => exact s.instantIf_keepsEngaged _ x o
  case recovered x o => exact s.instantIf_keepsEngaged _ x o
  case eventLimit x o => exact s.instantIf_keepsEngaged _ x o
  case lockoutDwellComplete x o => exact s.instantIf_keepsEngaged _ x o
  case rechargeDelayExpiry x o => exact s.instantIf_keepsEngaged _ x o
  case armTimeout f lv => exact State.eventIf_keepsEngaged _ fun s => (s.armExpiry_setsStay lv f).keeps
  case bypassTimerExpiry f lv => exact State.eventIf_keepsEngaged _ fun s => (s.bypassExpiry_setsStay lv f).keeps
  case handoverExpiry f => exact (s.handoverExpiry_setsStay f).keeps.ite (KeepsEngaged.refl s)
  case stopTimerExpiry f => exact State.eventIf_keepsEngaged _ fun s => (s.stopExpiry_setsStay _ f.value).keeps
  case slotExamination f slot lv => exact State.eventIf_keepsEngaged _ fun s => (s.examine_setsStay lv f slot).keeps
  case portUp f slot lv => exact State.eventIf_keepsEngaged _ fun s => (s.examine_setsStay lv f slot).keeps
  case portLost f slot lv => exact State.eventIf_keepsEngaged _ fun s => (s.examine_setsStay lv f slot).keeps
  case portRecovered f slot lv => exact State.eventIf_keepsEngaged _ fun s => (s.examine_setsStay lv f slot).keeps
  case lineAccepted l =>
    exact State.eventIf_keepsEngaged _ fun s => s.acceptLine_keepsEngaged false l.leave l.value
  case linkGapTimeout => exact KeepsEngaged.of_eq rfl
  case unknownRequest => exact s.completeFrame_keepsEngaged _ _
  case identify => exact (Reads.answer _).keepsEngaged.serve s _ _
  case statusQuery => exact (Reads.answer _).keepsEngaged.serve s _ _
  case feederQuery => exact (answerFeederQuery_reads _).keepsEngaged.serve s _ _
  case eventQuery => exact (answerEventQuery_reads _).keepsEngaged.serve s _ _
  case eventList => exact (Reads.answer _).keepsEngaged.serve s _ _
  case take => exact (hold_keepsEngaged _ _ _).serve s _ _
  case drop => exact (hold_keepsEngaged _ _ _).serve s _ _
  case takeIfFree => exact (hold_keepsEngaged _ _ _).serve s _ _
  case takeIfHeld => exact (hold_keepsEngaged _ _ _).serve s _ _
  case forceClear => exact (hold_keepsEngaged _ _ _).serve s _ _
  case forceFull => exact (hold_keepsEngaged _ _ _).serve s _ _
  case peek => exact (hold_keepsEngaged _ _ _).serve s _ _
  case settingWrite => exact (RuleKeepsEngaged.same (settingWrite_groups _ _ _)).serve s _ _
  case settingWriteLineFreq => exact (RuleKeepsEngaged.same (settingWrite_groups _ _ _)).serve s _ _
  case settingWriteEnabled => exact (RuleKeepsEngaged.same (settingWrite_groups _ _ _)).serve s _ _
  case settingRead => exact (answerSettingRead_reads _ _).keepsEngaged.serve s _ _
  case classWrite => exact (RuleKeepsEngaged.same (classWrite_groups _ _ _ _)).serve s _ _
  case classRead => exact (answerClassRead_reads _).keepsEngaged.serve s _ _
  case groupWrite => exact (groupWrite_keepsEngaged _ _ _ _).serve s _ _
  case groupRead => exact (answerGroupRead_reads _).keepsEngaged.serve s _ _
  case lineMapWrite => exact (lineMapWrite_keepsEngaged _ _ _).serve s _ _
  case lineMapRead => exact (Reads.answer _).keepsEngaged.serve s _ _
  case bankSelect => exact (RuleKeepsEngaged.same (bankSelect_groups _)).serve s _ _
  case faultClear => exact (RuleKeepsEngaged.same (faultClear_groups _)).serve s _ _
  case groupAcksClear => exact (groupAcksClear_keepsEngaged _).serve s _ _
  case imageRead => exact (RuleKeepsEngaged.same (imageRead_groups _ _ _)).serve s _ _
  case imageWrite => exact (RuleKeepsEngaged.same (imageWrite_groups _ _ _)).serve s _ _
  case restart => exact (RuleKeepsEngaged.same (restart_groups _)).serve s _ _
  case compensationEnable => exact (RuleKeepsEngaged.same compensationEnable_groups).serve s _ _
  case reportMask => exact (RuleKeepsEngaged.same (reportMask_groups _)).serve s _ _

theorem step_keepsEngaged {s t : State} (e : step s = .next t) : KeepsEngaged s t := by
  cases q : s.pending with
  | nil =>
    rw [step_of_idle q] at e
    injection e with e
    exact e ▸ KeepsEngaged.refl s
  | cons c rest =>
    rw [step_of_front q] at e
    exact KeepsEngaged.trans (t := { s with pending := rest }) (KeepsEngaged.of_eq rfl) (exec_keepsEngaged e)

/-- Settles O59. -/
theorem everyStepKeepsTheInvariants : Obligations.EveryStepKeepsTheInvariants :=
  ⟨fun _ _ sound obeyed e => step_kept ⟨sound, obeyed⟩ e, fun _ _ within e => step_keepsEngaged e within⟩

/-- Settles O60. -/
theorem resetMeetsTheInvariants : Obligations.ResetMeetsTheInvariants := by
  obtain ⟨sound, obeyed⟩ := State.reset_kept [] memGood_nil 0 []
  exact ⟨sound, obeyed, State.reset_engagedWithin⟩

end Sys2Proof.Machine
end

section
/-! SUPPORT. Requests answered and taken into service, and the commands of reset and of the image memory (chapter 10). -/

namespace Sys2Proof.Machine

open Sys2Proof

/-! ## A request that is served (R167, R168) -/

section

variable {s t : State} {kind tag : Byte} {rule : State → State × Option Answer}

theorem State.serve_of_answer {a : Answer} (takes : s.takesRequests) (r : rule s.openChoice = (t, some a)) :
    s.serve kind tag rule = t.queueReply ⟨kind, tag, a.status, a.body⟩ := by
  rw [State.serve_of_takes takes, r]

theorem State.serve_of_refusal {st : Status} (takes : s.takesRequests)
    (r : rule s.openChoice = s.openChoice.refuseWith st) :
    s.serve kind tag rule = s.openChoice.queueReply ⟨kind, tag, st, []⟩ :=
  State.serve_of_answer takes r

theorem State.serve_of_service (takes : s.takesRequests) (r : rule s.openChoice = (t, none)) :
    s.serve kind tag rule = { t with link := { t.link with choiceOpen := s.link.choiceOpen } } := by
  rw [State.serve_of_takes takes, r]

end

/-- A reply queued in the service of a request changes nothing but the link. -/
@[simp] theorem State.queueReply_butLink (s : State) (r : Reply) : (s.queueReply r).butLink = s.butLink := rfl

@[simp] theorem State.openChoice_butLink (s : State) : s.openChoice.butLink = s.butLink := rfl

/-- The service of a request that changes nothing shows its reply alone. -/
theorem State.openChoice_onlyAnswered (s : State) (r : Reply) :
    Link.onlyAnswered s.link (s.openChoice.queueReply r).link r :=
  State.queueReply_onlyAnswered s.openChoice r

/-! ## The image memory -/

theorem memStore_wf {m : List Host.Cell} (h : memWf m = true) (offset : Nat) (bytes : List Byte) :
    memWf (memStore m offset bytes) = true := by
  induction bytes generalizing m offset with
  | nil => exact h
  | cons b rest ih =>
    unfold memStore
    refine ih ?_ _
    split
    · exact memWrite_wf h offset b
    · exact h

/-- R187: what a write that stops leaves of the memory: the bytes written, and all but them and the next as they were. -/
theorem State.stopWrite_image {s : State} (h : memWf s.image = true) {offset : Nat} {bytes : List Byte}
    (fits : offset + bytes.length ≤ 4096) (w : Nat) :
    memWf (s.stopWrite offset bytes w).image = true ∧
      (∀ i b, i < w → bytes[i]? = some b → memRead (s.stopWrite offset bytes w).image (offset + i) = b) ∧
      ∀ a, a < offset ∨ offset + min (w + 1) bytes.length ≤ a →
        memRead (s.stopWrite offset bytes w).image a = memRead s.image a := by
  have taken : (bytes.take w).length = min w bytes.length := List.length_take
  have wf := memStore_wf h offset (bytes.take w)
  have inside (i : Nat) (b : Byte) (lt : i < w) (e : bytes[i]? = some b) :
      memRead (memStore s.image offset (bytes.take w)) (offset + i) = b := by
    obtain ⟨lt', rfl⟩ := List.getElem?_eq_some_iff.mp e
    rw [memRead_memStore_inside h offset (bytes.take w) (by simp only [Config.imageSize]; omega) i (by omega)]
    simp
  have outside (a : Nat) (out : a < offset ∨ offset + min (w + 1) bytes.length ≤ a) :
      memRead (memStore s.image offset (bytes.take w)) a = memRead s.image a :=
    memRead_memStore_outside h offset _ a (by omega)
  unfold State.stopWrite
  simp only
  split
  · next short =>
    refine ⟨memStore_wf wf _ _, fun i b lt e => ?_, fun a out => ?_⟩
    · rw [memRead_memStore_outside wf _ _ _ (by omega)]
      exact inside i b lt e
    · rw [memRead_memStore_outside wf _ _ _ (by simp only [List.length_singleton]; omega)]
      exact outside a out
  · exact ⟨wf, inside, outside⟩

/-! ## Resets (R178, R180) -/

theorem State.resetBlocks_of_no_write {s : State} (h : ∀ tag offset bytes, s.link.service ≠ some (.imageWrite tag offset bytes))
    (w : Nat) : s.resetBlocks w =
      { State.reset with image := s.image, freeCount := s.freeCount, pending := s.pending } := by
  unfold State.resetBlocks State.cutWrite
  split
  · next tag offset bytes e => exact absurd e (h tag offset bytes)
  all_goals rfl

theorem State.resetBlocks_of_write {s : State} {tag : Byte} {offset : Nat} {bytes : List Byte}
    (h : s.link.service = some (.imageWrite tag offset bytes)) (w : Nat) : s.resetBlocks w =
      { State.reset with
        image := (s.stopWrite offset bytes w).image, freeCount := (s.stopWrite offset bytes w).freeCount
        pending := s.pending } := by
  unfold State.resetBlocks State.cutWrite State.stopWrite
  simp only [h]
  split <;> rfl

/-- Settles O2. -/
theorem resetStateHoldsResetValues : Obligations.ResetStateHoldsResetValues := by
  refine ⟨⟨rfl, rfl, rfl, rfl, rfl, rfl, rfl, rfl⟩, ⟨rfl, fun p => ?_, rfl, rfl, rfl, rfl⟩, ⟨rfl, rfl, rfl, rfl, rfl, rfl⟩,
    fun f => ?_, rfl, rfl, fun f => ?_, fun g => ?_, fun l => ?_, ⟨rfl, rfl, rfl, rfl, rfl, rfl, rfl⟩, ⟨rfl, rfl, rfl, rfl⟩,
    rfl, fun f => ?_, rfl, fun c hc => ?_, fun b f => ?_, rfl, rfl⟩
  · cases p <;> rfl
  · cases f <;> exact ⟨rfl, rfl, rfl, rfl, rfl, rfl, rfl⟩
  · cases f <;> exact ⟨rfl, rfl, rfl, rfl, rfl, rfl, rfl⟩
  · cases g <;> rfl
  · cases l <;> rfl
  · cases f <;> rfl
  · cases c
    · exact absurd rfl hc
    all_goals rfl
  · cases b <;> cases f <;> rfl

/-- Settles O3. -/
theorem powerUpAndResetPinHoldEveryBlock : Obligations.PowerUpAndResetPinHoldEveryBlock := by
  refine ⟨fun s w none => ?_, fun s w tag offset bytes write wf fits => ?_⟩
  · rw [← State.resetBlocks_of_no_write none w]
    exact ⟨rfl, rfl⟩
  · have e := State.resetBlocks_of_write write w
    obtain ⟨canonical, written, kept⟩ := State.stopWrite_image wf fits w
    refine ⟨s.resetBlocks w, rfl, rfl, ?_, ?_⟩
    · rw [e]
    · rw [e]
      exact ⟨canonical, written, kept⟩

/-- Settles O4. -/
theorem resetEndGoesOnByImageSource : Obligations.ResetEndGoesOnByImageSource := by
  intro s rate held
  have e (src : Bool) : exec (.resetEnd rate src) s = .next (s.endReset rate src) := by
    change execResetEnd rate src s = _
    simp [execResetEnd, held]
  exact ⟨e false, e true⟩

/-- Settles O5. -/
theorem restartResetsAsTheResetPin : Obligations.RestartResetsAsTheResetPin := by
  intro s tag r rate src service tx kind status
  have sending : s.sendingRestartOk = true := by simp [State.sendingRestartOk, service, tx, kind, status]
  have done : exec .transmitDone s = .next (s.resetBlocks 0) := by
    change execTransmitDone s = _
    simp [execTransmitDone, sending]
  have restarted : exec (.restartReset rate src) s = .next ((s.resetBlocks 0).endReset rate src) := by
    change execRestartReset rate src s = _
    simp [execRestartReset, sending]
  exact ⟨s.resetBlocks 0, rfl, done, State.resetBlocks_of_no_write (by simp [service]) 0, _, rfl, restarted⟩

/-! ## Image Read and Image Write (R186, R187) -/

/-- A request leaves service: its reply waits behind the others, and the link shows nothing else. -/
theorem State.endService_link (s : State) (r : Reply) :
    (s.endService r).link.service = none ∧ (s.endService r).link.asm = s.link.asm ∧
      (s.endService r).link.mask = s.link.mask ∧ (s.endService r).link.reports = s.link.reports ∧
      (s.endService r).link.waitingReplies = s.link.waitingReplies ++ [r] := by
  obtain ⟨⟨waiting, asm, service, mask⟩, reports, -⟩ := State.queueReply_onlyAnswered
    { s with link := { s.link with service := none }, loader := { s.loader with memOp := .none } } r
  exact ⟨service, asm, mask, reports, waiting⟩

theorem answerImageRead_of_range {tag : Byte} {offset count : Nat} (s : State)
    (h : count = 0 ∨ 64 < count ∨ 4096 < offset + count) : answerImageRead tag offset count s = s.refuseWith .value :=
  if_pos h

theorem answerImageWrite_of_length {tag : Byte} {offset : Nat} {bytes : List Byte} (s : State)
    (h : bytes.length = 0 ∨ 64 < bytes.length) : answerImageWrite tag offset bytes s = s.refuseWith .length :=
  if_pos h

theorem answerImageWrite_of_range {tag : Byte} {offset : Nat} {bytes : List Byte} (s : State)
    (h : ¬ (bytes.length = 0 ∨ 64 < bytes.length)) (k : 4096 < offset + bytes.length) :
    answerImageWrite tag offset bytes s = s.refuseWith .value :=
  (if_neg h).trans (if_pos k)

theorem exec_imageRead_taken {s : State} (takes : s.takesRequests) {tag : Byte} {offset : Half} {count : Byte}
    (h : ¬ (count.toNat = 0 ∨ 64 < count.toNat ∨ 4096 < offset.toNat + count.toNat)) :
    exec (.imageRead tag offset count) s = .next { s with
      loader := { s.loader with memOp := .read }
      link := { s.link with service := some (.imageRead tag offset.toNat count.toNat) } } :=
  congrArg Host.Outcome.next
    (State.serve_of_service (rule := answerImageRead tag offset.toNat count.toNat) takes (if_neg h))

theorem exec_imageWrite_taken {s : State} (takes : s.takesRequests) {tag : Byte} {offset : Half} {bytes : List Byte}
    (h : ¬ (bytes.length = 0 ∨ 64 < bytes.length)) (k : ¬ 4096 < offset.toNat + bytes.length) :
    exec (.imageWrite tag offset bytes) s = .next { s with
      loader := { s.loader with memOp := .write }
      link := { s.link with service := some (.imageWrite tag offset.toNat bytes) } } :=
  congrArg Host.Outcome.next
    (State.serve_of_service (rule := answerImageWrite tag offset.toNat bytes) takes ((if_neg h).trans (if_neg k)))

/-- A request that its rule refuses: the reply, and nothing else. -/
theorem State.refused_request {s : State} (takes : s.takesRequests) {i : Instr} {kind tag : Byte} {st : Status}
    {rule : State → State × Option Answer} (row : exec i s = .next (s.serve kind tag rule))
    (refused : ∀ s, rule s = s.refuseWith st) :
    ∃ t, exec i s = .next t ∧ t.butLink = s.butLink ∧ Link.onlyAnswered s.link t.link ⟨kind, tag, st, []⟩ := by
  rw [row, State.serve_of_refusal takes (refused _)]
  exact ⟨_, rfl, rfl, s.openChoice_onlyAnswered _⟩

/-- Settles O9. -/
theorem imageRequestsAreRefusedOrTakenIntoService : Obligations.ImageRequestsAreRefusedOrTakenIntoService := by
  refine ⟨fun s tag offset count takes => ⟨fun refused => ?_, fun low high fits => ?_⟩,
    fun s tag offset bytes takes => ⟨fun refused => ?_, fun low high beyond => ?_, fun low high fits => ?_⟩⟩
  · exact State.refused_request takes rfl fun s => answerImageRead_of_range s refused
  · exact exec_imageRead_taken takes (by omega)
  · exact State.refused_request takes rfl fun s => answerImageWrite_of_length s refused
  · exact State.refused_request takes rfl fun s => answerImageWrite_of_range s (by omega) beyond
  · exact exec_imageWrite_taken takes (by omega) (by omega)

/-- Bytes read back one by one (R186). -/
theorem memLoad_eq_map (m : List Host.Cell) (offset n : Nat) :
    memLoad m offset n = (List.range n).map fun i => memRead m (offset + i) := by
  induction n generalizing offset with
  | zero => rfl
  | succ n ih =>
    rw [List.range_succ_eq_map]
    simp [memLoad, ih, Nat.add_assoc, Nat.add_comm 1]

theorem memRead_memLoad {m : List Host.Cell} {offset n i : Nat} (h : i < n) :
    (memLoad m offset n)[i]? = some (memRead m (offset + i)) := by
  simp [memLoad_eq_map, h]

/-- R187: what matches is a common beginning. -/
theorem matching_of_eq (l : List Byte) : matching l l = l.length := by
  induction l with
  | nil => rfl
  | cons a l ih => simp [matching, ih]

theorem matching_of_first_difference {l m : List Byte} {i : Nat} {a b : Byte} (same : ∀ j < i, l[j]? = m[j]?)
    (la : l[i]? = some a) (mb : m[i]? = some b) (ne : a ≠ b) : matching l m = i := by
  induction i generalizing l m with
  | zero =>
    cases l with
    | nil => simp at la
    | cons x l =>
      cases m with
      | nil => simp at mb
      | cons y m =>
        simp only [List.getElem?_cons_zero, Option.some.injEq] at la mb
        simp [matching, la, mb, ne]
  | succ i ih =>
    cases l with
    | nil => simp at la
    | cons x l =>
      cases m with
      | nil => simp at mb
      | cons y m =>
        have first : x = y := by simpa using same 0 (Nat.succ_pos i)
        have rest : matching l m = i :=
          ih (fun j lt => by simpa using same (j + 1) (Nat.succ_lt_succ lt)) (by simpa using la) (by simpa using mb)
        simp [matching, first, rest]

theorem exec_imageWriteDone {s : State} {tag : Byte} {offset : Nat} {bytes : List Byte}
    (write : s.link.service = some (.imageWrite tag offset bytes)) (changed : Changed) :
    exec (.imageWriteDone changed) s =
      .next (State.endService { s with image := memChange (memStore s.image offset bytes) changed }
        (writeReply (memChange (memStore s.image offset bytes) changed) tag offset bytes)) := by
  change execImageWriteDone changed s = _
  simp only [execImageWriteDone, write]

/-- Settles O10. -/
theorem imageCommandsEndWithTheirReply : Obligations.ImageCommandsEndWithTheirReply := by
  refine ⟨fun s changed tag offset count read => ?_, fun s tag offset bytes write wf fits => ⟨?_, fun i b v at_ ne => ?_⟩⟩
  · have e : exec (.imageReadDone changed) s = .next (State.endService { s with image := memChange s.image changed }
        ⟨0x12, tag, .ok, half offset ++ [byteOf count] ++ memLoad (memChange s.image changed) offset count⟩) := by
      change execImageReadDone changed s = _
      simp only [execImageReadDone, read]
    obtain ⟨service, asm, mask, reports, waiting⟩ := State.endService_link { s with image := memChange s.image changed }
      ⟨0x12, tag, .ok, half offset ++ [byteOf count] ++ memLoad (memChange s.image changed) offset count⟩
    refine ⟨_, e, rfl, service, asm, mask, reports, ?_⟩
    rw [waiting, memLoad_eq_map]
  · have back : memLoad (memStore s.image offset bytes) offset bytes.length = bytes := memLoad_memStore wf offset bytes fits
    have reply : writeReply (memStore s.image offset bytes) tag offset bytes =
        ⟨0x13, tag, .ok, half offset ++ [byteOf bytes.length]⟩ := by
      simp only [writeReply, back, matching_of_eq, if_true]
    have e : exec (.imageWriteDone []) s = .next (State.endService { s with image := memStore s.image offset bytes }
        ⟨0x13, tag, .ok, half offset ++ [byteOf bytes.length]⟩) := by
      rw [exec_imageWriteDone write, ← reply]
      rfl
    obtain ⟨service, -, -, reports, waiting⟩ := State.endService_link { s with image := memStore s.image offset bytes }
      ⟨0x13, tag, .ok, half offset ++ [byteOf bytes.length]⟩
    refine ⟨_, e, rfl, rfl, service, reports, waiting, memStore_wf wf offset bytes, fun i b at_ => ?_, fun a out => ?_⟩
    · obtain ⟨lt, rfl⟩ := List.getElem?_eq_some_iff.mp at_
      exact memRead_memStore_inside wf offset bytes fits i lt
    · exact memRead_memStore_outside wf offset bytes a out
  · have lt : i < bytes.length := (List.getElem?_eq_some_iff.mp at_).1
    have inside : offset + i < Config.imageSize := by simp only [Config.imageSize]; omega
    have stored := memStore_wf wf offset bytes
    have reply : writeReply (memChange (memStore s.image offset bytes) [(offset + i, v)]) tag offset bytes =
        writeFault tag offset bytes.length (offset + i) := by
      have first : matching bytes (memLoad (memChange (memStore s.image offset bytes) [(offset + i, v)]) offset bytes.length)
          = i := by
        refine matching_of_first_difference (a := b) (b := v) (fun j before => ?_) at_ ?_ (Ne.symm ne)
        · rw [memRead_memLoad (by omega), memRead_memChange_outside stored _ _ (by simp; omega),
            memRead_memStore_inside wf offset bytes fits j (by omega)]
          simp
        · rw [memRead_memLoad lt]
          simp only [memChange, List.foldl, inside, if_true, memRead_memWrite_self stored]
      simp only [writeReply, first, Nat.ne_of_lt lt, if_false]
    refine ⟨_, exec_imageWriteDone write _, (State.endService_link _ _).1, ?_⟩
    rw [reply]
    exact (State.endService_link _ _).2.2.2.2

/-! ## The memory stops answering (R181, R186, R187) -/

/-- R187: the reply names the first byte not confirmed, here the byte that many were confirmed before. -/
theorem State.writeUnanswered_eq {s : State} {tag : Byte} {offset : Nat} {bytes : List Byte} {w k : Nat}
    (wf : memWf s.image = true) (fits : offset + bytes.length ≤ 4096) (written : w ≤ bytes.length) (short : k < bytes.length)
    (silent : w < bytes.length → k = 0) :
    s.writeUnanswered tag offset bytes w k [] = (s.stopWrite offset bytes w).endService
      ⟨0x13, tag, .imageFault, half offset ++ [byteOf bytes.length] ++ half (offset + k)⟩ := by
  have back : (if w < bytes.length then 0 else min k (bytes.length - 1)) = k := by
    split
    · next h => exact (silent h).symm
    · omega
  have confirmed : memLoad (s.stopWrite offset bytes w).image offset k = bytes.take k := by
    refine List.ext_getElem? fun i => ?_
    by_cases lt : i < k
    · have low : i < w := by
        by_cases h : w < bytes.length
        · have := silent h
          omega
        · omega
      rw [memRead_memLoad lt, List.getElem?_take_of_lt lt, List.getElem?_eq_getElem (by omega)]
      exact congrArg some ((State.stopWrite_image wf fits w).2.1 i _ low (List.getElem?_eq_getElem (by omega)))
    · rw [List.getElem?_eq_none (by simpa using lt), List.getElem?_eq_none (by simp; omega)]
  unfold State.writeUnanswered
  simp only [back, memChange, List.foldl_nil, confirmed, matching_of_eq, List.length_take, Nat.min_eq_left (Nat.le_of_lt short)]
  rfl

/-- Settles O8. -/
theorem memoryNoAnswerEndsTheOperation : Obligations.MemoryNoAnswerEndsTheOperation := by
  refine ⟨fun s w k changed out load none => ?_, fun s w k changed tag offset count read => ?_,
    fun s w k tag offset bytes write wf fits written short silent => ?_⟩
  · change execMemoryNoAnswer w k changed s = _
    simp only [execMemoryNoAnswer, none, State.live, out, load]
    rfl
  · have e : exec (.memoryNoAnswer w k changed) s =
        .next (State.endService { s with image := memChange s.image changed } (readFault tag offset count)) := by
      change execMemoryNoAnswer w k changed s = _
      simp only [execMemoryNoAnswer, read]
    obtain ⟨service, asm, mask, -, waiting⟩ := State.endService_link { s with image := memChange s.image changed }
      (readFault tag offset count)
    exact ⟨_, e, rfl, service, asm, mask, waiting⟩
  · have e : exec (.memoryNoAnswer w k []) s = .next ((s.stopWrite offset bytes w).endService
        ⟨0x13, tag, .imageFault, half offset ++ [byteOf bytes.length] ++ half (offset + k)⟩) := by
      change execMemoryNoAnswer w k [] s = _
      simp only [execMemoryNoAnswer, write]
      rw [State.writeUnanswered_eq wf fits written short silent]
    have only : s.stopWrite offset bytes w =
        { s with image := (s.stopWrite offset bytes w).image, freeCount := (s.stopWrite offset bytes w).freeCount } := by
      unfold State.stopWrite
      simp only
      split <;> rfl
    obtain ⟨service, -, -, -, waiting⟩ := State.endService_link (s.stopWrite offset bytes w)
      ⟨0x13, tag, .imageFault, half offset ++ [byteOf bytes.length] ++ half (offset + k)⟩
    obtain ⟨canonical, stored, kept⟩ := State.stopWrite_image wf fits w
    refine ⟨_, e, ?_, service, canonical, ?_, stored, kept, ?_⟩
    · exact congrArg (fun u : State => { u.loader with memOp := MemOp.none }) only
    · rw [waiting, only]
    · exact ⟨(congrArg State.globals only :), (congrArg State.feeders only :), (congrArg State.classes only :),
        (congrArg State.groups only :),
        (congrArg State.lines only :), (congrArg State.seq only :), (congrArg State.holds only :)⟩

end Sys2Proof.Machine
end

section
/-! SUPPORT. The arithmetic of chapters 2, 4 and 11: floors of a class, needs, the division of the store, and the checks of
the bridge records. -/

namespace Sys2Proof.Machine

open Sys2Proof

/-! ## Needs (R78) -/

theorem floorNeed_le (full floor v target : Nat) : floorNeed full floor v target ≤ full := by
  unfold floorNeed
  split
  · exact Nat.zero_le _
  · split
    · exact Nat.min_le_right _ _
    · exact Nat.le_refl _

theorem floorNeed_of_low {full floor v target : Nat} (h : floor ≤ v) : floorNeed full floor v target = 0 := if_pos h

theorem floorNeed_of_between {full floor v target : Nat} (h : v < floor) (k : v < target) :
    floorNeed full floor v target = min (ceilDiv (full * (floor - v)) (target - v)) full :=
  (if_neg (Nat.not_le.mpr h)).trans (if_pos k)

theorem floorNeed_of_high {full floor v target : Nat} (h : v < floor) (k : target ≤ v) :
    floorNeed full floor v target = full :=
  (if_neg (Nat.not_le.mpr h)).trans (if_neg (Nat.not_lt.mpr k))

/-- R78 as a feeder's forecast carries it. -/
theorem State.forecast_floor (s : State) (boundary : Bool) (f : Feeder) : (s.forecast boundary f).floor =
    floorNeed (s.forecast boundary f).full (s.floorNow f) (s.vret.getD 0) s.inForce.globals.targetFull := rfl

/-- Settles O25. -/
theorem floorNeedFollowsItsTable : Obligations.FloorNeedFollowsItsTable := by
  intro s boundary f v reading d target
  have e : d.floor = floorNeed d.full (s.floorNow f) v target := by
    rw [show d.floor = _ from s.forecast_floor boundary f, reading]
    rfl
  rw [e]
  exact ⟨floorNeed_of_low, floorNeed_of_between, floorNeed_of_high, floorNeed_le _ _ _ _⟩

/-! ## Floors of a class (R34) -/

theorem EnvClass.floorAt_of_split {c : EnvClass} {t : Nat} {early later : List Segment} {g : Segment}
    (e : c.segments = early ++ g :: later) (before : ∀ x ∈ early, x.limit ≤ t) (here : t < g.limit) :
    c.floorAt t = g.floor := by
  have found : c.segments.find? (fun g => t < g.limit) = some g := by
    rw [e, List.find?_append, List.find?_eq_none.mpr (by simpa using before)]
    simp [here]
  simp [EnvClass.floorAt, found]

theorem EnvClass.floorAt_of_past {c : EnvClass} {t : Nat} (past : ∀ g ∈ c.segments, g.limit ≤ t) :
    c.floorAt t = c.immunity := by
  have none : c.segments.find? (fun g => t < g.limit) = none := List.find?_eq_none.mpr (by simpa using past)
  simp [EnvClass.floorAt, none]

/-- At any t either one segment is in force or the immunity is (R34). -/
theorem EnvClass.floorAt_cases (c : EnvClass) (t : Nat) :
    (∀ g ∈ c.segments, g.limit ≤ t) ∨
      ∃ early g later, c.segments = early ++ g :: later ∧ (∀ x ∈ early, x.limit ≤ t) ∧ t < g.limit := by
  cases h : c.segments.find? (fun g => t < g.limit) with
  | none => exact .inl (by simpa using List.find?_eq_none.mp h)
  | some g =>
    obtain ⟨here, early, later, e, before⟩ := List.find?_eq_some_iff_append.mp h
    exact .inr ⟨early, g, later, e, by simpa using before, by simpa using here⟩

theorem EnvClass.floorAt_le {c : EnvClass} (h : c.wf) (t : Nat) : c.floorAt t ≤ c.immunity := by
  obtain ⟨-, -, -, each, -⟩ := h
  rcases c.floorAt_cases t with past | ⟨early, g, later, e, before, here⟩
  · exact Nat.le_of_eq (floorAt_of_past past)
  · rw [floorAt_of_split e before here]
    exact (each g (by simp [e])).2.2

theorem EnvClass.floorAt_mono {c : EnvClass} (h : c.wf) {t u : Nat} (le : t ≤ u) : c.floorAt t ≤ c.floorAt u := by
  rcases c.floorAt_cases u with past | ⟨early, g, later, e, before, here⟩
  · rw [floorAt_of_past past]
    exact floorAt_le h t
  · rw [floorAt_of_split e before here]
    obtain ⟨-, -, -, -, rising⟩ := h
    rcases c.floorAt_cases t with past' | ⟨early', g', later', e', before', here'⟩
    · have := past' g (by simp [e])
      omega
    · rw [floorAt_of_split e' before' here']
      rcases List.append_eq_append_iff.mp (e.symm.trans e') with ⟨as, h1, h2⟩ | ⟨bs, h1, h2⟩
      · cases as with
        | nil =>
          simp only [List.nil_append, List.cons.injEq] at h2
          rw [h2.1]
        | cons x as =>
          simp only [List.cons_append, List.cons.injEq] at h2
          have := before' g (by simp [h1, h2.1])
          omega
      · cases bs with
        | nil =>
          simp only [List.nil_append, List.cons.injEq] at h2
          rw [h2.1]
        | cons x bs =>
          simp only [List.cons_append, List.cons.injEq] at h2
          rw [e, List.pairwise_append] at rising
          exact (rising.2.2 g' (by simp [h1, h2.1]) g (by simp)).2

/-- Settles O26. -/
theorem classFloorsRiseToTheImmunity : Obligations.ClassFloorsRiseToTheImmunity := fun _ wf _ u le =>
  ⟨EnvClass.floorAt_mono wf le, EnvClass.floorAt_le wf u, EnvClass.floorAt_of_past,
    fun _ _ _ => EnvClass.floorAt_of_split⟩

/-! ## The unit order (R81) -/

theorem insertClaim_perm (c : Claim) (l : List Claim) : (insertClaim c l).Perm (c :: l) := by
  induction l with
  | nil => exact .refl _
  | cons d rest ih =>
    unfold insertClaim
    split
    · exact .refl _
    · exact (ih.cons d).trans (.swap c d rest)

theorem orderClaims_perm (l : List Claim) : (orderClaims l).Perm l := by
  induction l with
  | nil => exact .refl _
  | cons c rest ih => exact (insertClaim_perm c _).trans (ih.cons c)

/-- The unit order as R81 words it. -/
def Claim.atMost (a b : Claim) : Prop := a.level < b.level ∨ a.level = b.level ∧ a.lowest ≤ b.lowest

theorem Claim.before_iff (a b : Claim) : a.before b = true ↔ a.atMost b := by
  simp [Claim.before, Claim.atMost]

theorem Claim.atMost_trans {a b c : Claim} (h : a.atMost b) (k : b.atMost c) : a.atMost c := by
  unfold Claim.atMost at *
  omega

theorem Claim.atMost_of_not {a b : Claim} (h : ¬ a.atMost b) : b.atMost a := by
  unfold Claim.atMost at *
  omega

theorem insertClaim_ordered (c : Claim) {l : List Claim} (h : l.Pairwise Claim.atMost) :
    (insertClaim c l).Pairwise Claim.atMost := by
  induction l with
  | nil => simp [insertClaim]
  | cons d rest ih =>
    obtain ⟨first, later⟩ := List.pairwise_cons.mp h
    unfold insertClaim
    split
    · next before =>
      have low := (c.before_iff d).mp before
      refine List.pairwise_cons.mpr ⟨fun x hx => ?_, h⟩
      rcases List.mem_cons.mp hx with rfl | hx
      · exact low
      · exact Claim.atMost_trans low (first x hx)
    · next behind =>
      refine List.pairwise_cons.mpr ⟨fun x hx => ?_, ih later⟩
      rcases List.mem_cons.mp ((insertClaim_perm c rest).mem_iff.mp hx) with rfl | hx
      · exact Claim.atMost_of_not fun k => behind ((Claim.before_iff _ _).mpr k)
      · exact first x hx

theorem orderClaims_ordered (l : List Claim) : (orderClaims l).Pairwise Claim.atMost := by
  induction l with
  | nil => exact .nil
  | cons c rest ih => exact insertClaim_ordered c ih

/-! ## The division (R82 to R84) -/

/-- One pass past the units: each takes of the purse what its grant counts for. -/
def dividePass {α : Type} (grant : Purse → α → Claim × Grant) (count : Claim × Grant → Nat) :
    Purse → List α → List (Claim × Grant)
  | _, [] => []
  | p, a :: rest => grant p a :: dividePass grant count (p.take (grant p a).1.level (count (grant p a))) rest

/-- What grants count for, together. -/
def need (count : Claim × Grant → Nat) (l : List (Claim × Grant)) : Nat := (l.map count).sum

/-- The grants of the units of level 0. -/
def bottom (l : List (Claim × Grant)) : List (Claim × Grant) := l.filter fun x => x.1.level = 0

/-- The grants of the units of the levels above 0. -/
def upper (l : List (Claim × Grant)) : List (Claim × Grant) := l.filter fun x => x.1.level ≠ 0

/-- The purse after a list of grants. -/
def Purse.after (p : Purse) (count : Claim × Grant → Nat) (l : List (Claim × Grant)) : Purse :=
  ⟨p.remaining - need count l, p.levelZero + need count (bottom l)⟩

theorem need_cons (count : Claim × Grant → Nat) (x : Claim × Grant) (l : List (Claim × Grant)) :
    need count (x :: l) = count x + need count l := rfl

theorem need_bottom_cons (count : Claim × Grant → Nat) (x : Claim × Grant) (l : List (Claim × Grant)) :
    need count (bottom (x :: l)) = (if x.1.level = 0 then count x else 0) + need count (bottom l) := by
  unfold need bottom
  by_cases h : x.1.level = 0 <;> simp [h]

theorem need_upper_cons (count : Claim × Grant → Nat) (x : Claim × Grant) (l : List (Claim × Grant)) :
    need count (upper (x :: l)) = (if x.1.level = 0 then 0 else count x) + need count (upper l) := by
  unfold need upper
  by_cases h : x.1.level = 0 <;> simp [h]

theorem need_split (count : Claim × Grant → Nat) (l : List (Claim × Grant)) :
    need count l = need count (bottom l) + need count (upper l) := by
  induction l with
  | nil => rfl
  | cons x l ih =>
    rw [need_cons, need_bottom_cons, need_upper_cons, ih]
    split <;> omega

theorem Purse.after_cons (p : Purse) (count : Claim × Grant → Nat) (x : Claim × Grant) (l : List (Claim × Grant)) :
    (p.take x.1.level (count x)).after count l = p.after count (x :: l) := by
  unfold Purse.after Purse.take
  rw [need_cons, need_bottom_cons]
  simp only [Purse.mk.injEq]
  split <;> omega

section

variable {α : Type} {grant : Purse → α → Claim × Grant} {count : Claim × Grant → Nat}

/-- Each grant of a pass is made by the purse that the grants before it left. -/
theorem dividePass_split {p : Purse} {l : List α} {pre post : List (Claim × Grant)} {x : Claim × Grant}
    (h : dividePass grant count p l = pre ++ x :: post) :
    ∃ early a late, l = early ++ a :: late ∧ dividePass grant count p early = pre ∧ x = grant (p.after count pre) a := by
  induction pre generalizing p l with
  | nil =>
    cases l with
    | nil => simp [dividePass] at h
    | cons a late =>
      simp only [dividePass, List.nil_append, List.cons.injEq] at h
      exact ⟨[], a, late, rfl, rfl, h.1.symm⟩
  | cons y pre ih =>
    cases l with
    | nil => simp [dividePass] at h
    | cons b rest =>
      simp only [dividePass, List.cons_append, List.cons.injEq] at h
      obtain ⟨rfl, h⟩ := h
      obtain ⟨early, a, late, rfl, e, g⟩ := ih h
      refine ⟨b :: early, a, late, rfl, by simp only [dividePass, e], ?_⟩
      rw [g, Purse.after_cons]

/-- Grants each within what is usable at their turn fit the purse, and those above level 0 leave the reserve. -/
theorem dividePass_fits {reserve : Nat} {l : List α}
    (each : ∀ p, ∀ a ∈ l, count (grant p a) ≤ p.usable reserve (grant p a).1.level) (p : Purse) :
    need count (dividePass grant count p l) ≤ p.remaining ∧
      need count (upper (dividePass grant count p l)) ≤ p.remaining - (reserve - p.levelZero) := by
  induction l generalizing p with
  | nil => exact ⟨Nat.zero_le _, Nat.zero_le _⟩
  | cons a rest ih =>
    obtain ⟨fits, leaves⟩ := ih (fun p b hb => each p b (List.mem_cons_of_mem a hb))
      (p.take (grant p a).1.level (count (grant p a)))
    have turn := each p a List.mem_cons_self
    simp only [dividePass, need_cons, need_upper_cons]
    simp only [Purse.take] at fits leaves ⊢
    unfold Purse.usable Purse.effectiveReserve at turn
    split at turn
    · next zero =>
      simp only [zero, if_true] at fits leaves ⊢
      omega
    · next above =>
      simp only [above, if_false] at fits leaves ⊢
      omega

end

/-- R84: the grant of a unit under PRIORITY_FULL. -/
def Purse.priority (reserve : Nat) (p : Purse) (c : Claim) : Claim × Grant :=
  (c, if c.fullNeed ≤ p.usable reserve c.level then .full
    else if c.floorNeed ≤ p.usable reserve c.level then .floor else .none)

/-- R83 step 1: the grant of a unit in the floor pass. -/
def Purse.floorTurn (reserve : Nat) (p : Purse) (c : Claim) : Claim × Grant :=
  (c, if c.floorNeed ≤ p.usable reserve c.level then .floor else .none)

/-- R83 step 2: the grant of a unit in the upgrade pass. -/
def Purse.upgradeTurn (reserve : Nat) (p : Purse) (x : Claim × Grant) : Claim × Grant :=
  (x.1, if x.2 = .floor ∧ x.1.fullNeed - x.1.floorNeed ≤ p.usable reserve x.1.level then .full else x.2)

/-- What a grant took in the floor pass. -/
def floorsTaken (x : Claim × Grant) : Nat := if x.2 = .none then 0 else x.1.floorNeed

/-- What a grant took in the upgrade pass. -/
def upgradeTaken (x : Claim × Grant) : Nat := if x.2 = .full then x.1.fullNeed - x.1.floorNeed else 0

/-- What a grant gives (R85). -/
def grantedQuanta (x : Claim × Grant) : Nat := x.1.granted x.2

theorem Purse.take_zero (p : Purse) (level : Nat) : p.take level 0 = p := by
  unfold Purse.take
  split <;> rfl

theorem priorityPass_eq (reserve : Nat) (p : Purse) (l : List Claim) :
    priorityPass reserve p l = dividePass (Purse.priority reserve) grantedQuanta p l := by
  induction l generalizing p with
  | nil => rfl
  | cons c rest ih =>
    unfold priorityPass dividePass Purse.priority grantedQuanta
    split
    · rw [ih]; rfl
    · split
      · rw [ih]; rfl
      · simp only [Claim.granted, Purse.take_zero]
        rw [ih]; rfl

theorem floorPass_eq (reserve : Nat) (p : Purse) (l : List Claim) :
    floorPass reserve p l = (p.after floorsTaken (dividePass (Purse.floorTurn reserve) floorsTaken p l),
      dividePass (Purse.floorTurn reserve) floorsTaken p l) := by
  induction l generalizing p with
  | nil => rfl
  | cons c rest ih =>
    unfold floorPass dividePass
    rw [← Purse.after_cons]
    split
    · next fits => rw [ih]; simp [Purse.floorTurn, fits, floorsTaken]
    · next short => rw [ih]; simp [Purse.floorTurn, short, floorsTaken, Purse.take_zero]

theorem upgradePass_eq (reserve : Nat) (p : Purse) (l : List (Claim × Grant)) (never : ∀ x ∈ l, x.2 ≠ .full) :
    upgradePass reserve p l = dividePass (Purse.upgradeTurn reserve) upgradeTaken p l := by
  induction l generalizing p with
  | nil => rfl
  | cons x rest ih =>
    have rest_ih (p : Purse) := ih p fun y hy => never y (List.mem_cons_of_mem _ hy)
    obtain ⟨c, g⟩ := x
    cases g with
    | full => exact absurd rfl (never _ (List.mem_cons_self))
    | none =>
      simp only [upgradePass, dividePass, Purse.upgradeTurn, upgradeTaken, reduceCtorEq, false_and, if_false,
        Purse.take_zero]
      rw [rest_ih]
    | floor =>
      simp only [upgradePass, dividePass, Purse.upgradeTurn, true_and]
      split
      · simp only [upgradeTaken, if_true]
        rw [rest_ih]
      · simp only [upgradeTaken, reduceCtorEq, if_false, Purse.take_zero]
        rw [rest_ih]

theorem floorTurn_pass_not_full (reserve : Nat) (p : Purse) (l : List Claim) :
    ∀ x ∈ dividePass (Purse.floorTurn reserve) floorsTaken p l, x.2 ≠ .full := by
  induction l generalizing p with
  | nil => simp [dividePass]
  | cons c rest ih =>
    simp only [dividePass, List.forall_mem_cons]
    refine ⟨?_, ih _⟩
    unfold Purse.floorTurn
    split <;> simp

theorem floorFirst_eq (reserve available : Nat) (l : List Claim) :
    floorFirst reserve available l = dividePass (Purse.upgradeTurn reserve) upgradeTaken
      ((Purse.mk available 0).after floorsTaken (dividePass (Purse.floorTurn reserve) floorsTaken ⟨available, 0⟩ l))
      (dividePass (Purse.floorTurn reserve) floorsTaken ⟨available, 0⟩ l) := by
  simp only [floorFirst, floorPass_eq]
  exact upgradePass_eq reserve _ _ (floorTurn_pass_not_full reserve _ l)

/-- The upgrade pass leaves each claim where it stood, and NONE as NONE. -/
theorem upgrade_keeps (reserve : Nat) (p : Purse) (l : List (Claim × Grant)) :
    (dividePass (Purse.upgradeTurn reserve) upgradeTaken p l).map (fun x => (x.1, decide (x.2 = .none))) =
      l.map fun x => (x.1, decide (x.2 = .none)) := by
  induction l generalizing p with
  | nil => rfl
  | cons x rest ih =>
    simp only [dividePass, List.map_cons, ih, List.cons.injEq, and_true]
    unfold Purse.upgradeTurn
    split
    · next up => simp [up.1]
    · rfl

/-- What the floor pass took can be read from the final grants. -/
theorem need_floorsTaken_congr {l m : List (Claim × Grant)}
    (h : l.map (fun x => (x.1, decide (x.2 = .none))) = m.map fun x => (x.1, decide (x.2 = .none))) :
    need floorsTaken l = need floorsTaken m ∧ need floorsTaken (bottom l) = need floorsTaken (bottom m) ∧
      need floorsTaken (upper l) = need floorsTaken (upper m) := by
  induction l generalizing m with
  | nil =>
    cases m with
    | nil => exact ⟨rfl, rfl, rfl⟩
    | cons y m => simp at h
  | cons x l ih =>
    cases m with
    | nil => simp at h
    | cons y m =>
      simp only [List.map_cons, List.cons.injEq, Prod.mk.injEq, decide_eq_decide] at h
      obtain ⟨⟨claim, none⟩, rest⟩ := h
      obtain ⟨all, low, high⟩ := ih rest
      have same : floorsTaken x = floorsTaken y := by simp only [floorsTaken, claim, none]
      refine ⟨?_, ?_, ?_⟩
      · rw [need_cons, need_cons, same, all]
      · rw [need_bottom_cons, need_bottom_cons, same, low, claim]
      · rw [need_upper_cons, need_upper_cons, same, high, claim]

theorem grantedQuanta_le (x : Claim × Grant) : grantedQuanta x ≤ floorsTaken x + upgradeTaken x := by
  obtain ⟨c, g⟩ := x
  cases g <;> simp [grantedQuanta, Claim.granted, floorsTaken, upgradeTaken]
  omega

theorem need_grantedQuanta_le (l : List (Claim × Grant)) :
    need grantedQuanta l ≤ need floorsTaken l + need upgradeTaken l := by
  induction l with
  | nil => exact Nat.zero_le _
  | cons x l ih =>
    have := grantedQuanta_le x
    simp only [need_cons]
    omega

theorem priority_fits (reserve : Nat) (p : Purse) (c : Claim) :
    grantedQuanta (p.priority reserve c) ≤ p.usable reserve (p.priority reserve c).1.level := by
  unfold Purse.priority grantedQuanta
  dsimp only
  split
  · assumption
  · split
    · assumption
    · exact Nat.zero_le _

theorem floorTurn_fits (reserve : Nat) (p : Purse) (c : Claim) :
    floorsTaken (p.floorTurn reserve c) ≤ p.usable reserve (p.floorTurn reserve c).1.level := by
  unfold Purse.floorTurn floorsTaken
  dsimp only
  by_cases h : c.floorNeed ≤ p.usable reserve c.level <;> simp [h]

/-- An upgrade that no unit has before the pass fits what is usable at its turn. -/
theorem upgradeTurn_fits (reserve : Nat) (p : Purse) {x : Claim × Grant} (never : x.2 ≠ .full) :
    upgradeTaken (p.upgradeTurn reserve x) ≤ p.usable reserve (p.upgradeTurn reserve x).1.level := by
  unfold Purse.upgradeTurn upgradeTaken
  by_cases h : x.2 = .floor ∧ x.1.fullNeed - x.1.floorNeed ≤ p.usable reserve x.1.level
  · simp [h]
  · rw [if_neg h]
    simp [never]

theorem need_upper_grantedQuanta_le (l : List (Claim × Grant)) :
    need grantedQuanta (upper l) ≤ need floorsTaken (upper l) + need upgradeTaken (upper l) :=
  need_grantedQuanta_le (upper l)

/-- The grants of the division fit the available quanta, and those above level 0 leave the reserve (R82 to R85). -/
theorem divide_fits (policy : Policy) (reserve available : Nat) (claims : List Claim) :
    need grantedQuanta (divide policy reserve available claims) ≤ available ∧
      need grantedQuanta (upper (divide policy reserve available claims)) ≤ available - reserve := by
  cases policy with
  | priorityFull =>
    change need grantedQuanta (priorityPass reserve ⟨available, 0⟩ claims) ≤ available ∧
      need grantedQuanta (upper (priorityPass reserve ⟨available, 0⟩ claims)) ≤ available - reserve
    rw [priorityPass_eq]
    exact dividePass_fits (reserve := reserve) (fun p c _ => priority_fits reserve p c) ⟨available, 0⟩
  | floorFirst =>
    change need grantedQuanta (floorFirst reserve available claims) ≤ available ∧
      need grantedQuanta (upper (floorFirst reserve available claims)) ≤ available - reserve
    rw [floorFirst_eq]
    generalize hf : dividePass (Purse.floorTurn reserve) floorsTaken ⟨available, 0⟩ claims = floors
    generalize hu : dividePass (Purse.upgradeTurn reserve) upgradeTaken
      ((Purse.mk available 0).after floorsTaken floors) floors = final
    have first := dividePass_fits (reserve := reserve) (l := claims) (fun p c _ => floorTurn_fits reserve p c)
      ⟨available, 0⟩
    have never := floorTurn_pass_not_full reserve ⟨available, 0⟩ claims
    rw [hf] at first never
    have second := dividePass_fits (reserve := reserve) (l := floors)
      (fun p x hx => upgradeTurn_fits reserve p (never x hx)) ((Purse.mk available 0).after floorsTaken floors)
    have kept := need_floorsTaken_congr (upgrade_keeps reserve ((Purse.mk available 0).after floorsTaken floors) floors)
    rw [hu] at second kept
    have split := need_split floorsTaken floors
    have all := need_grantedQuanta_le final
    have high := need_upper_grantedQuanta_le final
    obtain ⟨keptAll, -, keptHigh⟩ := kept
    simp only [Purse.after] at first second
    omega

/-- A unit granted NONE has a floor need (R83, R84). -/
theorem divide_none_needs (policy : Policy) (reserve available : Nat) (claims : List Claim) :
    ∀ x ∈ divide policy reserve available claims, x.2 = .none → 0 < x.1.floorNeed := by
  have priority (p : Purse) (l : List Claim) :
      ∀ x ∈ dividePass (Purse.priority reserve) grantedQuanta p l, x.2 = .none → 0 < x.1.floorNeed := by
    induction l generalizing p with
    | nil => simp [dividePass]
    | cons c rest ih =>
      simp only [dividePass, List.forall_mem_cons]
      refine ⟨fun none => ?_, ih _⟩
      unfold Purse.priority at none ⊢
      by_contra zero
      simp [Nat.eq_zero_of_not_pos zero] at none
      split at none <;> simp at none
  have floors (p : Purse) (l : List Claim) :
      ∀ x ∈ dividePass (Purse.floorTurn reserve) floorsTaken p l, x.2 = .none → 0 < x.1.floorNeed := by
    induction l generalizing p with
    | nil => simp [dividePass]
    | cons c rest ih =>
      simp only [dividePass, List.forall_mem_cons]
      refine ⟨fun none => ?_, ih _⟩
      unfold Purse.floorTurn at none ⊢
      by_contra zero
      simp [Nat.eq_zero_of_not_pos zero] at none
  cases policy with
  | priorityFull =>
    change ∀ x ∈ priorityPass reserve ⟨available, 0⟩ claims, _
    rw [priorityPass_eq]
    exact priority _ _
  | floorFirst =>
    change ∀ x ∈ floorFirst reserve available claims, _
    rw [floorFirst_eq]
    intro x hx none
    have kept := upgrade_keeps reserve ((Purse.mk available 0).after floorsTaken
      (dividePass (Purse.floorTurn reserve) floorsTaken ⟨available, 0⟩ claims))
      (dividePass (Purse.floorTurn reserve) floorsTaken ⟨available, 0⟩ claims)
    have there := List.mem_map_of_mem (f := fun x : Claim × Grant => (x.1, decide (x.2 = .none))) hx
    rw [kept] at there
    obtain ⟨y, hy, e⟩ := List.mem_map.mp there
    simp only [Prod.mk.injEq, decide_eq_decide] at e
    rw [← e.1]
    exact floors _ _ y hy (e.2.mpr none)

/-- R84 at each unit's turn. -/
theorem priorityFull_split {reserve available : Nat} {claims : List Claim} {pre post : List (Claim × Grant)}
    {c : Claim} {g : Grant} (h : divide .priorityFull reserve available claims = pre ++ (c, g) :: post) :
    (c, g) = ((Purse.mk available 0).after grantedQuanta pre).priority reserve c := by
  have h : priorityPass reserve ⟨available, 0⟩ claims = pre ++ (c, g) :: post := h
  rw [priorityPass_eq] at h
  obtain ⟨early, a, late, -, -, e⟩ := dividePass_split h
  have claim : c = a := congrArg Prod.fst e
  rw [claim]
  exact claim ▸ e

/-- R83 at each unit's turn in both passes. -/
theorem floorFirst_split {reserve available : Nat} {claims : List Claim} {pre post : List (Claim × Grant)}
    {c : Claim} {g : Grant} (h : divide .floorFirst reserve available claims = pre ++ (c, g) :: post) :
    (c, g) = (((Purse.mk available 0).after floorsTaken (pre ++ (c, g) :: post)).after upgradeTaken pre).upgradeTurn
      reserve (((Purse.mk available 0).after floorsTaken pre).floorTurn reserve c) := by
  have h : floorFirst reserve available claims = pre ++ (c, g) :: post := h
  rw [floorFirst_eq] at h
  have kept := need_floorsTaken_congr (upgrade_keeps reserve ((Purse.mk available 0).after floorsTaken
    (dividePass (Purse.floorTurn reserve) floorsTaken ⟨available, 0⟩ claims))
    (dividePass (Purse.floorTurn reserve) floorsTaken ⟨available, 0⟩ claims))
  rw [h] at kept
  obtain ⟨keptAll, keptLow, -⟩ := kept
  obtain ⟨early, a, late, e1, e2, e3⟩ := dividePass_split h
  obtain ⟨early', a', late', -, -, e4⟩ := dividePass_split e1
  have claim : c = a.1 := congrArg Prod.fst e3
  have claim' : a.1 = a'  := congrArg Prod.fst e4
  have keptPre := need_floorsTaken_congr (upgrade_keeps reserve ((Purse.mk available 0).after floorsTaken
    (dividePass (Purse.floorTurn reserve) floorsTaken ⟨available, 0⟩ claims)) early)
  rw [e2] at keptPre
  obtain ⟨preAll, preLow, -⟩ := keptPre
  have purse : (Purse.mk available 0).after floorsTaken (pre ++ (c, g) :: post) =
      (Purse.mk available 0).after floorsTaken
        (dividePass (Purse.floorTurn reserve) floorsTaken ⟨available, 0⟩ claims) := by
    simp only [Purse.after, keptAll, keptLow]
  have before : (Purse.mk available 0).after floorsTaken pre = (Purse.mk available 0).after floorsTaken early := by
    simp only [Purse.after, preAll, preLow]
  rw [purse, before, claim, claim', ← e4, ← claim', ← claim]
  exact e3

/-- What the grants of the two passes say of the quanta usable in each (R83). -/
theorem twoTurns_iff {floor rise first second : Nat} {g : Grant}
    (h : g = if (if floor ≤ first then Grant.floor else .none) = .floor ∧ rise ≤ second then .full
      else if floor ≤ first then .floor else .none) :
    (g = .none ↔ first < floor) ∧ (g = .full ↔ floor ≤ first ∧ rise ≤ second) := by
  subst h
  by_cases fits : floor ≤ first
  · by_cases up : rise ≤ second
    · simp [fits, up]
    · simp [fits, up]
  · simp [fits, Nat.not_le.mp fits]

/-- Settles O27. -/
theorem grantsNeverExceedTheStore : Obligations.GrantsNeverExceedTheStore := by
  refine ⟨fun policy reserve available claims => ?_, fun reserve available claims pre post c g => ⟨fun h => ?_, fun h => ?_⟩,
    fun claims => ⟨orderClaims_perm claims, orderClaims_ordered claims⟩⟩
  · exact ⟨divide_claims policy reserve available claims, (divide_fits policy reserve available claims).1,
      (divide_fits policy reserve available claims).2, divide_none_needs policy reserve available claims⟩
  · have e := congrArg Prod.snd (priorityFull_split h)
    simp only [Purse.priority, Purse.usable, Purse.effectiveReserve, Purse.after, Nat.zero_add] at e
    exact e
  · have e := congrArg Prod.snd (floorFirst_split h)
    simp only [Purse.upgradeTurn, Purse.floorTurn, Purse.usable, Purse.effectiveReserve, Purse.after, Nat.zero_add] at e
    exact twoTurns_iff e

/-! ## Bridge records (R119, R190) -/

theorem byteSum_toNat (l : List Byte) : (byteSum l).toNat = (l.map (·.toNat)).sum % 256 := by
  have run (l : List Byte) (acc : Byte) :
      (l.foldl (· + ·) acc).toNat = (acc.toNat + (l.map (·.toNat)).sum) % 256 := by
    induction l generalizing acc with
    | nil => simpa using (Nat.mod_eq_of_lt acc.isLt).symm
    | cons b l ih =>
      rw [List.foldl_cons, ih, BitVec.toNat_add]
      simp only [List.map_cons, List.sum_cons]
      omega
  simpa [byteSum] using run l 0

theorem byteSum_append (l m : List Byte) : byteSum (l ++ m) = byteSum l + byteSum m := by
  refine BitVec.eq_of_toNat_eq ?_
  rw [BitVec.toNat_add, byteSum_toNat, byteSum_toNat, byteSum_toNat, List.map_append, List.sum_append]
  omega

theorem ModuleState.ofCode?_eq_some {n : Nat} {m : ModuleState} : ModuleState.ofCode? n = some m ↔ n = m.code := by
  constructor
  · unfold ModuleState.ofCode?
    split <;> rintro ⟨⟩ <;> rfl
  · rintro rfl
    cases m <;> rfl

theorem BypassPosition.ofCode?_eq_some {n : Nat} {b : BypassPosition} :
    BypassPosition.ofCode? n = some b ↔ n = b.code := by
  constructor
  · unfold BypassPosition.ofCode?
    split <;> rintro ⟨⟩ <;> rfl
  · rintro rfl
    cases b <;> rfl

theorem FaultKind.ofCode?_eq_some {n : Nat} {k : FaultKind} : FaultKind.ofCode? n = some k ↔ n = k.code := by
  constructor
  · unfold FaultKind.ofCode?
    split <;> rintro ⟨⟩ <;> rfl
  · rintro rfl
    cases k <;> rfl

theorem truthOf?_eq_some {n : Nat} {d : Bool} : truthOf? n = some d ↔ n = if d then 1 else 0 := by
  constructor
  · unfold truthOf?
    split <;> rintro ⟨⟩ <;> rfl
  · rintro rfl
    cases d <;> rfl

/-- The fields of a good record are those its bytes name (R119). -/
theorem parseStatus_eq_some {m b d k c : Byte} {st : ModuleStatus} :
    parseStatus [m, b, d, k, c] = some st ↔ byteSum [m, b, d, k, c] = 0 ∧
      ModuleState.ofCode? m.toNat = some st.module ∧ BypassPosition.ofCode? b.toNat = some st.bypass ∧
        truthOf? d.toNat = some st.derate ∧ FaultKind.ofCode? k.toNat = some st.fault := by
  obtain ⟨module, bypass, derate, fault⟩ := st
  unfold parseStatus
  dsimp only
  split
  · next sum =>
    simp only [sum, true_and]
    split
    · next h1 h2 h3 h4 => simp [h1, h2, h3, h4]
    · next none =>
      simp only [reduceCtorEq, false_iff, not_and]
      exact fun h1 h2 h3 h4 => none _ _ _ _ h1 h2 h3 h4
  · next sum => exact ⟨(nomatch ·), fun h => absurd h.1 sum⟩

theorem byteSum_eq_zero_iff (l : List Byte) : byteSum l = 0 ↔ (l.map (·.toNat)).sum % 256 = 0 := by
  rw [← byteSum_toNat, ← BitVec.toNat_inj]
  rfl

/-- Settles O32. -/
theorem bridgeRecordsCarryTheirCheck : Obligations.BridgeRecordsCarryTheirCheck := by
  refine ⟨fun m b d k c st => ?_, fun l wrong => ?_, fun early r whole => ?_, fun early r partly => ?_, fun r => ⟨rfl, ?_⟩⟩
  · rw [parseStatus_eq_some, byteSum_eq_zero_iff, ModuleState.ofCode?_eq_some, BypassPosition.ofCode?_eq_some,
      truthOf?_eq_some, FaultKind.ofCode?_eq_some]
    simp only [List.map_cons, List.map_nil, List.sum_cons, List.sum_nil, Nat.add_zero, Nat.add_assoc]
  · unfold parseStatus
    split
    · exact absurd rfl wrong
    · rfl
  · simp [goodRecord, whole]
  · simp [goodRecord, partly]
  · rw [← byteSum_eq_zero_iff]
    unfold RefRecord.bytes
    rw [byteSum_append]
    simp [byteSum]

end Sys2Proof.Machine
end

section
/-! SUPPORT. The link (chapter 9): the assembler, the admission of requests, the frames that carry them, the transmitter,
and the requests that only read. -/

namespace Sys2Proof.Machine

open Sys2Proof

/-! ## The assembler (R164) -/

theorem exec_linkByteReceived_of_none {s : State} {b : Byte} {a : Assembler} (out : s.inReset = false)
    (h : s.link.asm.take b = (a, none)) (lv : Leave) :
    exec (.linkByteReceived ⟨b, lv⟩ false) s = .next (s.setAsm a) := by
  change execLinkByteReceived ⟨b, lv⟩ false s = _
  simp [execLinkByteReceived, out, h]

theorem exec_linkByteReceived_of_some {s : State} {b : Byte} {a : Assembler} {bytes : List Byte} (out : s.inReset = false)
    (h : s.link.asm.take b = (a, some bytes)) (lv : Leave) :
    exec (.linkByteReceived ⟨b, lv⟩ false) s = .next ((s.setAsm a).completeFrame bytes lv) := by
  change execLinkByteReceived ⟨b, lv⟩ false s = _
  simp [execLinkByteReceived, out, h]

theorem Assembler.take_body (n : Nat) (l : List Byte) (b : Byte) : (Assembler.body n l).take b =
    (if l.length + 1 < n then .body n (l ++ [b]) else .check n (l ++ [b]) none, none) := by
  unfold Assembler.take
  simp only [List.length_append, List.length_singleton, Prod.mk.injEq, and_true]
  split
  · rw [if_neg (by omega)]
  · rw [if_pos (by omega)]

/-- Settles O37. -/
theorem bytesAndGapDriveTheAssembler : Obligations.BytesAndGapDriveTheAssembler := by
  intro s b lv goes byte
  refine ⟨rfl, fun held => ?_, fun out => ⟨?_, fun h => ?_, fun h => ?_, fun n l h => ?_, fun n l h => ?_,
    fun n l hi h fails => ?_⟩⟩
  · have e (framing : Bool) : exec (.linkByteReceived ⟨b, lv⟩ framing) s = .next s := by
      change execLinkByteReceived ⟨b, lv⟩ framing s = _
      simp [execLinkByteReceived, held]
    exact ⟨e true, e false⟩
  · change execLinkByteReceived ⟨b, lv⟩ true s = _
    simp [execLinkByteReceived, out]
    rfl
  · exact exec_linkByteReceived_of_none out (by rw [h]; rfl) lv
  · exact exec_linkByteReceived_of_none out (by rw [h]; rfl) lv
  · exact exec_linkByteReceived_of_none out (by rw [h, Assembler.take_body]) lv
  · exact exec_linkByteReceived_of_none out (by rw [h]; rfl) lv
  · exact exec_linkByteReceived_of_none out (by rw [h]; simp [Assembler.take, checkMatches, fails]) lv

/-! ## The frame of a request (R163, R165) -/

theorem byteOf_toNat {n : Nat} (h : n < 256) : (byteOf n).toNat = n := by
  simp [byteOf, Nat.mod_eq_of_lt h]

theorem halfValue_half {n : Nat} (h : n < 65536) : halfValue (byteOf (n / 256)) (byteOf n) = n := by
  simp only [halfValue, byteOf, BitVec.toNat_ofNat]
  omega

theorem halfValue_halfBytes (h : Half) : halfValue (byteOf (h.toNat / 256)) (byteOf h.toNat) = h.toNat :=
  halfValue_half h.isLt

/-- A check sent high byte first is the check read (R163, R165). -/
theorem append_half (c : Half) : (byteOf (c.toNat / 256) ++ byteOf c.toNat : BitVec (8 + 8)) = c := by
  refine BitVec.eq_of_toNat_eq ?_
  have := c.isLt
  rw [BitVec.toNat_append, byteOf, byteOf, BitVec.toNat_ofNat, BitVec.toNat_ofNat,
    ← Nat.shiftLeft_add_eq_or_of_lt (Nat.mod_lt _ (by decide)), Nat.shiftLeft_eq]
  omega

/-- Every request row is its frame's kind, tag and payload taken by request service. -/
theorem exec_of_request {c : Instr} {k t : Byte} {p : List Byte} (h : c.request? = some (k, t, p)) (s : State) :
    exec c s = .next (s.serveFrame k t p c.leave) := by
  cases c
  case eventQuery t n =>
    cases h
    exact congrArg (fun v => Host.Outcome.next (s.serve _ t (answerEventQuery v))) (halfValue_halfBytes n).symm
  case settingWrite t i f v =>
    cases h
    exact congrArg (fun v => Host.Outcome.next (s.serve _ t (answerSettingWrite i f v))) (halfValue_halfBytes v).symm
  case settingWriteLineFreq t f v =>
    cases h
    exact congrArg (fun v => Host.Outcome.next (s.serve _ t (answerSettingWrite 0x01 f v))) (halfValue_halfBytes v).symm
  case settingWriteEnabled t f v =>
    cases h
    exact congrArg (fun v => Host.Outcome.next (s.serve _ t (answerSettingWrite 0x20 f v))) (halfValue_halfBytes v).symm
  case classWrite t c m n l =>
    cases h
    exact congrArg (fun v => Host.Outcome.next (s.serve _ t (answerClassWrite c v n l))) (halfValue_halfBytes m).symm
  case imageRead t o n =>
    cases h
    exact congrArg (fun v => Host.Outcome.next (s.serve _ t (answerImageRead t v n.toNat))) (halfValue_halfBytes o).symm
  case imageWrite t o b =>
    cases h
    exact congrArg (fun v => Host.Outcome.next (s.serve _ t (answerImageWrite t v b))) (halfValue_halfBytes o).symm
  all_goals cases h <;> rfl

/-- A byte that completes no frame moves the assembler alone. -/
theorem receive_of_none {s : State} {b : Byte} {a a' : Assembler} (out : s.inReset = false) (h : a.take b = (a', none))
    (lv : Leave) (rest : List Byte) : receive lv (b :: rest) (s.setAsm a) = receive lv rest (s.setAsm a') := by
  rw [receive, exec_linkByteReceived_of_none (s := s.setAsm a) out h lv]
  rfl

/-- The bytes of kind, tag and payload, received one by one. -/
theorem receive_body {s : State} (out : s.inReset = false) (lv : Leave) (rest : List Byte) {bytes : List Byte} {n : Nat}
    {l : List Byte} (some : bytes ≠ []) (length : l.length + bytes.length = n) :
    receive lv (bytes ++ rest) (s.setAsm (.body n l)) = receive lv rest (s.setAsm (.check n (l ++ bytes) none)) := by
  induction bytes generalizing l with
  | nil => exact absurd rfl some
  | cons b bytes ih =>
    rw [List.cons_append, receive_of_none out (Assembler.take_body n l b)]
    cases bytes with
    | nil => rw [if_neg (by simp at length; omega)]; rfl
    | cons c bytes =>
      rw [if_pos (by simp at length; omega), ih (by simp) (by simp at length ⊢; omega), List.append_assoc]
      rfl

theorem State.setAsm_of_hunting {s : State} (h : s.link.asm = .hunting) : s.setAsm .hunting = s := by
  unfold State.setAsm
  rw [← h]

/-- A whole frame received from the hunting assembler is taken by request service. -/
theorem receive_frame {s : State} (out : s.inReset = false) (hunting : s.link.asm = .hunting) (lv : Leave) (k t : Byte)
    {p : List Byte} (short : p.length ≤ 248) : receive lv (frame k t p) s = .next (s.serveFrame k t p lv) := by
  have len : (byteOf (p.length + 2)).toNat = p.length + 2 := byteOf_toNat (by omega)
  have start : Assembler.hunting.take 0xA5 = (.length, none) := rfl
  have length : Assembler.length.take (byteOf (p.length + 2)) = (.body (p.length + 2) [], none) := by
    simp [Assembler.take, len]
    omega
  rw [← State.setAsm_of_hunting hunting]
  unfold frame
  dsimp only
  rw [List.cons_append, receive_of_none out start, List.cons_append, receive_of_none out length,
    receive_body out lv _ (List.cons_ne_nil k _) (by simp)]
  generalize check : crc16 (byteOf (p.length + 2) :: k :: t :: p) = c
  have first : (Assembler.check (p.length + 2) (k :: t :: p) none).take (byteOf (c.toNat / 256)) =
    (.check (p.length + 2) (k :: t :: p) (some (byteOf (c.toNat / 256))), none) := rfl
  have second : (Assembler.check (p.length + 2) (k :: t :: p) (some (byteOf (c.toNat / 256)))).take (byteOf c.toNat) =
      (.hunting, some (k :: t :: p)) := by
    simp [Assembler.take, checkMatches, check, append_half]
  unfold half
  rw [List.nil_append, receive_of_none out first]
  rw [receive, exec_linkByteReceived_of_some
    (s := s.setAsm (.check (p.length + 2) (k :: t :: p) (some (byteOf (c.toNat / 256))))) out second lv]
  rfl

/-- Settles O38. -/
theorem requestFrameBytesRunTheRequest : Obligations.RequestFrameBytesRunTheRequest := fun _ k t _ s request short out hunting =>
  (receive_frame out hunting _ k t short).trans (exec_of_request request s).symm

/-! ## Admission (R166, R167) -/

theorem State.serve_of_reset {s : State} (h : s.inReset = true) (k t : Byte) (rule : State → State × Option Answer) :
    s.serve k t rule = s := by
  simp [State.serve, h]

theorem State.serve_of_noRoom {s : State} (h : s.noRoom = true) (k t : Byte) (rule : State → State × Option Answer) :
    s.serve k t rule = s := by
  simp [State.serve, State.admission, h]

theorem State.serve_of_busy {s : State} (out : s.inReset = false) (room : s.noRoom = false)
    (busy : s.loader.op = .loading ∨ s.link.service ≠ none) (k t : Byte) (rule : State → State × Option Answer) :
    s.serve k t rule = s.queueReply ⟨k, t, .busy, []⟩ := by
  have taken : s.loader.op = .loading ∨ s.link.service.isSome = true := by
    simpa [Option.isSome_iff_ne_none] using busy
  simp [State.serve, State.admission, out, room, taken]

theorem State.noRoom_eq (s : State) :
    s.noRoom = (decide (4 ≤ s.link.replies.length) || (s.replyOwed && decide (3 ≤ s.link.replies.length))) := rfl

/-- The rule of a kind that is no request (R168 test 1). -/
theorem requestRule_of_unknown {k : Byte} (h : k.toNat = 0 ∨ 0x16 < k.toNat) (t : Byte) (p : List Byte) (lv : Leave) :
    requestRule k t p lv = answerUnknown := by
  unfold requestRule
  split
  case h_23 => rfl
  all_goals omega

/-- Settles O39. -/
theorem requestsAreAdmittedInOrder : Obligations.RequestsAreAdmittedInOrder := by
  refine fun s => ⟨fun c k t p request => ?_, fun takes k t p unknown => ⟨?_, ?_⟩⟩
  · intro queued busy
    have busy_of (out : s.inReset = false) (room : s.noRoom = false)
        (h : s.loader.op = .loading ∨ s.link.service ≠ none) : busy := by
      refine ⟨_, exec_of_request request s, ?_⟩
      unfold State.serveFrame
      rw [State.serve_of_busy out room h]
      exact ⟨rfl, State.queueReply_onlyAnswered s _⟩
    refine ⟨fun h => ?_, fun three owed => ?_, fun out few h => ?_, fun out three h => ?_⟩
    · rw [exec_of_request request s]
      rcases h with held | full
      · exact congrArg _ (State.serve_of_reset held _ _ _)
      · exact congrArg _ (State.serve_of_noRoom (by simp [State.noRoom_eq, show 4 ≤ s.link.replies.length from full]) _ _ _)
    · rw [exec_of_request request s]
      have owes : s.replyOwed = true := by
        rcases owed with ⟨tag, offset, n, service⟩ | ⟨tag, offset, l, service⟩ <;> simp [State.replyOwed, service]
      exact congrArg _ (State.serve_of_noRoom
        (by simp [State.noRoom_eq, owes, show s.link.replies.length = 3 from three]) _ _ _)
    · have few : s.link.replies.length < 3 := few
      exact busy_of out (by simp [State.noRoom_eq]; omega) h
    · have three : s.link.replies.length = 3 := three
      rcases h with ⟨tag, service⟩ | ⟨none, loading⟩
      · exact busy_of out (by simp [State.noRoom_eq, State.replyOwed, service, three]) (.inr (by simp [service]))
      · exact busy_of out (by simp [State.noRoom_eq, State.replyOwed, none, three]) (.inl loading)
  · refine State.refused_request takes rfl fun s => ?_
    rw [requestRule_of_unknown unknown]
    rfl
  · refine State.refused_request takes rfl fun s => ?_
    have not : namesRequest k = false := by
      unfold namesRequest
      simp only [Bool.and_eq_false_iff, decide_eq_false_iff_not]
      omega
    simp [not, answerUnknown]

/-! ## The transmitter and posted reports (R173 to R177) -/

theorem exec_transmitDone_of_frame {s : State}
    (plain : ∀ tag r, s.link.service = some (.restart tag) → s.link.tx = some (.reply r) → ¬ (r.kind = 0x14 ∧ r.status = .ok)) :
    exec .transmitDone s = .next (match s.link.tx with
      | some _ => { s with link := s.link.finish }
      | none => s) := by
  have none : s.sendingRestartOk = false := by
    unfold State.sendingRestartOk
    split
    · next tag r service tx =>
      simpa [Bool.and_eq_false_iff, or_iff_not_imp_left] using plain tag r service tx
    · rfl
  change execTransmitDone s = _
  simp only [execTransmitDone, none]
  rfl

/-- Settles O40. -/
theorem reportsAreQueuedAndTheTransmitterChooses : Obligations.ReportsAreQueuedAndTheTransmitterChooses := by
  refine ⟨fun s plain => ⟨fun idle => ?_, fun sending => ?_⟩, fun s r => ?_⟩
  · rw [exec_transmitDone_of_frame plain, idle]
  · obtain ⟨f, tx⟩ := Option.ne_none_iff_exists'.mp sending
    have e : exec .transmitDone s = .next { s with link := s.link.finish } := by
      rw [exec_transmitDone_of_frame plain, tx]
    rw [e]
    unfold Link.finish Link.choose
    refine ⟨fun r rest replies => ?_, fun r rest none reports => ?_, fun none empty => ?_⟩
    · simp [replies]
    · simp [none, reports]
    · simp [none, empty]
  · intro kept
    have kept_eq : kept = (s.link.mask.getLsbD r.bit = true) := by
      have lt := r.bit_lt
      have bit : r.kind.toNat - 0x40 = r.bit := by
        rw [Report.kind, byteOf_toNat (by omega)]
        omega
      simp only [kept, bit]
    rw [kept_eq]
    refine ⟨fun masked => State.post_of_masked (by simpa using masked), fun on waits => ?_, fun on idle closed none empty => ?_⟩
    · have e : s.post r = { s with link := s.link.offer r } := by
        unfold State.post
        rcases waits with sending | opened
        · rw [Link.post_of_sending sending on]
        · simp [Link.post, on, opened]
      rw [e]
      unfold Link.offer
      refine ⟨fun few => ?_, fun full => ?_⟩
      · rw [if_pos (show s.link.reports.length < Config.reportCapacity from few)]
      · rw [if_neg (show ¬ s.link.reports.length < Config.reportCapacity from Nat.not_lt.mpr full)]
    · simp [State.post, Link.post, on, closed, Link.offer, empty, Link.choose, idle, none, Config.reportCapacity]

/-! ## Requests that only read -/

/-- A rule that reads: it leaves the state as it is and answers OK, or VALUE where it finds nothing to read. -/
def Queries (rule : State → State × Option Answer) : Prop :=
  ∀ s, ∃ st body, (st = .ok ∨ st = .value) ∧ rule s = (s, some ⟨st, body⟩)

theorem Queries.ok {body : State → List Byte} : Queries fun s => s.answer (.ok (body s)) :=
  fun s => ⟨.ok, body s, .inl rfl, rfl⟩

theorem State.answer_ok (s : State) (body : List Byte) :
    ∃ st b, (st = .ok ∨ st = .value) ∧ s.answer (.ok body) = (s, some ⟨st, b⟩) := ⟨.ok, body, .inl rfl, rfl⟩

theorem State.refuse_value (s : State) :
    ∃ st b, (st = .ok ∨ st = .value) ∧ s.refuseWith .value = (s, some ⟨st, b⟩) := ⟨.value, [], .inr rfl, rfl⟩

theorem Queries.request {s : State} {rule : State → State × Option Answer} (h : Queries rule) (takes : s.takesRequests)
    {c : Instr} {k t : Byte} (row : exec c s = .next (s.serve k t rule)) :
    ∃ u st body, exec c s = .next u ∧ u.butLink = s.butLink ∧ (st = .ok ∨ st = .value) ∧
      Link.onlyAnswered s.link u.link ⟨k, t, st, body⟩ := by
  obtain ⟨st, body, status, e⟩ := h s.openChoice
  rw [row, State.serve_of_answer takes e]
  exact ⟨_, st, body, rfl, rfl, status, s.openChoice_onlyAnswered _⟩

theorem answerFeederQuery_queries (f : Byte) : Queries (answerFeederQuery f) := fun s => by
  unfold answerFeederQuery
  split
  · exact s.refuse_value
  · exact s.answer_ok _

theorem answerEventQuery_queries (n : Nat) : Queries (answerEventQuery n) := fun s => by
  unfold answerEventQuery
  split
  · exact s.answer_ok _
  · exact s.answer_ok _
  · exact s.refuse_value

@[simp] theorem Six.set_get {α : Type} (v : Six α) (f : Feeder) : v.set f (v.get f) = v := by cases f <;> rfl

/-- PEEK moves no count (R149). -/
theorem State.hold_peek (s : State) (lv : Leave) (f : Feeder) : s.hold lv f .peek = s := by
  simp [State.hold, HoldOp.apply]

theorem answerPeek_queries (f : Byte) : Queries (answerHold f .peek .nothing) := fun s => by
  unfold answerHold
  split
  · exact s.refuse_value
  · simp only [State.hold_peek]
    exact s.answer_ok _

theorem answerSettingRead_queries (i f : Byte) : Queries (answerSettingRead i f) := fun s => by
  unfold answerSettingRead
  split
  · exact s.refuse_value
  · split
    · exact s.refuse_value
    · exact s.answer_ok _

theorem answerClassRead_queries (c : Byte) : Queries (answerClassRead c) := fun s => by
  unfold answerClassRead
  split
  · exact s.refuse_value
  · exact s.answer_ok _

theorem answerGroupRead_queries (g : Byte) : Queries (answerGroupRead g) := fun s => by
  unfold answerGroupRead
  split
  · exact s.refuse_value
  · exact s.answer_ok _

/-- Settles O41. -/
theorem readRequestsChangeNothing : Obligations.ReadRequestsChangeNothing := by
  intro c k t p s reads request takes
  cases c
  case identify t => cases request; exact Queries.ok.request takes rfl
  case statusQuery t => cases request; exact Queries.ok.request takes rfl
  case feederQuery t f => cases request; exact (answerFeederQuery_queries f).request takes rfl
  case eventQuery t n => cases request; exact (answerEventQuery_queries n.toNat).request takes rfl
  case eventList t => cases request; exact Queries.ok.request takes rfl
  case peek t f => cases request; exact (answerPeek_queries f).request takes rfl
  case settingRead t i f => cases request; exact (answerSettingRead_queries i f).request takes rfl
  case classRead t c => cases request; exact (answerClassRead_queries c).request takes rfl
  case groupRead t g => cases request; exact (answerGroupRead_queries g).request takes rfl
  case lineMapRead t => cases request; exact Queries.ok.request takes rfl
  all_goals exact nomatch reads

end Sys2Proof.Machine
end

section
/-! SUPPORT. What the queries show (section 11.3). -/

namespace Sys2Proof.Machine

open Sys2Proof

/-- A request that only reads shows its answer alone. -/
theorem State.read_request {s : State} {c : Instr} {k t : Byte} {rule : State → State × Option Answer} {st : Status}
    {body : List Byte} (takes : s.takesRequests) (row : exec c s = .next (s.serve k t rule))
    (e : rule s.openChoice = (s.openChoice, some ⟨st, body⟩)) :
    ∃ u, exec c s = .next u ∧ Link.onlyAnswered s.link u.link ⟨k, t, st, body⟩ := by
  rw [row, State.serve_of_answer takes e]
  exact ⟨_, rfl, s.openChoice_onlyAnswered _⟩

/-! ## Numbers in bytes -/

theorem byteOf_toNat_self (b : Byte) : byteOf b.toNat = b := by simp [byteOf]

theorem ClassNo.ofNumber?_eq_some {n : Nat} {c : ClassNo} (h : ClassNo.ofNumber? n = some c) : c.number = n := by
  unfold ClassNo.ofNumber? at h
  split at h <;> cases h <;> rfl

theorem GroupNo.ofNumber?_eq_some {n : Nat} {g : GroupNo} (h : GroupNo.ofNumber? n = some g) : g.number = n := by
  unfold GroupNo.ofNumber? at h
  split at h <;> cases h <;> rfl

/-! ## Identify, Feeder Query, Peek and the reads of one record (R170 to R172) -/

theorem timerCode_eq (t : Option Timer) : timerCode t = match t with
    | none => 0
    | some ⟨.arm, _, _⟩ => 1
    | some ⟨.bypass, _, _⟩ => 2
    | some ⟨.handover, _, _⟩ => 3
    | some ⟨.stop, _, _⟩ => 4 := by
  rcases t with - | ⟨k, r, f⟩
  · rfl
  · cases k <;> rfl

theorem statusBytes_eq (st : Option ModuleStatus) : statusBytes st = match st with
    | some st => [byteOf st.module.code, byteOf st.bypass.code, truth st.derate, byteOf st.fault.code]
    | none => [0xFF, 0xFF, 0xFF, 0xFF] := by
  rcases st with - | ⟨m, b, d, k⟩
  · rfl
  · cases d <;> rfl

/-- The unit of a feeder in the latest grant list (R91). -/
def unitBytes (units : List UnitGrant) (f : Feeder) : List Byte :=
  let u := unitOf units f
  let m := u.bind fun u => u.members.find? fun m => m.feeder = f
  [optByte (u.map fun u => (u.group.map (·.number)).getD 0), optByte (u.map (·.level))] ++ half ((m.map (·.full)).getD 0) ++
    [optByte (m.map fun m => if m.measured then 1 else 0)] ++ half ((m.map (·.floor)).getD 0) ++
    [optByte (u.map (·.grant.code))]

theorem arbiterBytes_eq (s : State) (f : Feeder) : arbiterBytes s f =
    unitBytes ((s.arbiter.summary.map (·.units)).getD []) f ++ ([truth (s.arbiter.budgets.get f).isSome] ++
      half (((s.arbiter.budgets.get f).map (·.share)).getD 0) ++ [truth (s.arbiter.flags.get f)]) := by
  have same : (s.arbiter.summary.bind fun m => unitOf m.units f) =
      unitOf ((s.arbiter.summary.map (·.units)).getD []) f := by cases s.arbiter.summary <;> rfl
  unfold arbiterBytes unitBytes
  dsimp only
  rw [same]
  generalize unitOf ((s.arbiter.summary.map (·.units)).getD []) f = u
  rcases u with - | ⟨g, l, c, m, fu, fl, gr, q⟩
  · rfl
  · cases g <;> rfl

theorem unitBytes_of_none {units : List UnitGrant} {f : Feeder} (h : ∀ w ∈ units, ∀ d ∈ w.members, d.feeder ≠ f) :
    unitBytes units f = [0xFF, 0xFF, 0, 0, 0xFF, 0, 0, 0xFF] := by
  have none : unitOf units f = none := by
    simpa [unitOf] using h
  simp [unitBytes, none, optByte, half, byteOf]

theorem unitOf_of_split {early later : List UnitGrant} {w : UnitGrant} {d : Forecast} {f : Feeder} (mem : d ∈ w.members)
    (this : d.feeder = f) (others : ∀ y ∈ early, ∀ e ∈ y.members, e.feeder ≠ f) :
    unitOf (early ++ w :: later) f = some w := by
  have none : early.find? (fun u => u.members.any fun m => m.feeder = f) = none := by simpa using others
  have here : (w.members.any fun m => m.feeder = f) = true := by
    simpa using ⟨d, mem, this⟩
  simp [unitOf, List.find?_append, none, here]

theorem find_member_of_split {before after : List Forecast} {d : Forecast} {f : Feeder} (this : d.feeder = f)
    (others : ∀ e ∈ before, e.feeder ≠ f) : (before ++ d :: after).find? (fun m => m.feeder = f) = some d := by
  have none : before.find? (fun m => m.feeder = f) = none := by simpa using others
  simp [List.find?_append, none, this]

theorem unitBytes_of_split {early later : List UnitGrant} {w : UnitGrant} {before after : List Forecast} {d : Forecast}
    {f : Feeder} (members : w.members = before ++ d :: after) (this : d.feeder = f)
    (others : ∀ y ∈ early, ∀ e ∈ y.members, e.feeder ≠ f) (first : ∀ e ∈ before, e.feeder ≠ f) :
    unitBytes (early ++ w :: later) f =
      [byteOf ((w.group.map (·.number)).getD 0), byteOf w.level] ++ half d.full ++ [truth d.measured] ++ half d.floor ++
        [byteOf w.grant.code] := by
  have unit := unitOf_of_split (w := w) (later := later) (d := d) (by simp [members]) this others
  have member := find_member_of_split (after := after) this first
  simp only [unitBytes, unit, Option.bind_some, members, member, Option.map_some]
  cases d.measured <;> rfl

theorem answerFeederQuery_of_feeder {s : State} {b : Byte} {f : Feeder} (h : Feeder.ofNumber? b.toNat = some f) :
    answerFeederQuery b s = s.answer (.ok ([b] ++ sequencerBytes s f ++ generatorBytes s f ++ arbiterBytes s f ++
      portBytes (s.port.get f))) := by
  simp only [answerFeederQuery, h]

/-- Settles O42. -/
theorem queriesShowTheState : Obligations.QueriesShowTheState := by
  intro s tag b takes
  refine ⟨State.read_request (rule := answerIdentify) takes rfl rfl, fun f feeder => ?_, fun id f ident setting feeder => ?_, fun c cls => ?_,
    fun g group => ?_⟩
  · intro q g p injLimit units budget sequencer generator held port
    refine ⟨⟨unitBytes units f, ?_⟩, ?_⟩
    · have sequencer_eq : sequencerBytes s f = sequencer := by
        simp only [sequencerBytes, timerCode_eq, sequencer, q] <;> rfl
      have port_eq : portBytes p = port := by
        simp only [portBytes, statusBytes_eq, port] <;> rfl
      have arbiter_eq : arbiterBytes s f = unitBytes units f ++ held := arbiterBytes_eq s f
      have e : answerFeederQuery b s.openChoice = (s.openChoice, some (Answer.ok
          ([b] ++ sequencer ++ generator ++ unitBytes units f ++ held ++ port))) := by
        rw [answerFeederQuery_of_feeder feeder, ← sequencer_eq, ← port_eq, List.append_assoc _ _ held, ← arbiter_eq]
        rfl
      obtain ⟨u, run, shows⟩ := State.read_request (c := .feederQuery tag b) takes rfl e
      refine ⟨u, run, shows, unitBytes_of_none, fun early later w before after d split members this others first => ?_⟩
      rw [split]
      exact unitBytes_of_split members this others first
    · have e : answerHold b .peek .nothing s.openChoice = (s.openChoice, some (Answer.ok
          [b, byteOf (s.holds.get f), byteOf (s.holds.get f)])) := by
        simp only [answerHold, feeder, State.hold_peek]
        rfl
      exact State.read_request (c := .peek tag b) takes rfl e
  · have named : settingFeeder id b = some (if id.perFeeder then f else .f1) := by
      unfold settingFeeder
      split
      · next per => exact feeder per
      · rfl
    have global : id.perFeeder = false → s.settingValue id .f1 = s.settingValue id f := by
      cases id <;> first | exact fun _ => rfl | exact nofun
    have value : s.settingValue id (if id.perFeeder then f else .f1) = s.settingValue id f := by
      split
      · rfl
      · next not => exact global (by simpa using not)
    have e : answerSettingRead ident b s.openChoice = (s.openChoice, some (Answer.ok
        ([ident, if id.perFeeder then b else 0xFF] ++ half (s.settingValue id f)))) := by
      simp only [answerSettingRead, setting, named, ← value]
      rfl
    exact State.read_request (c := .settingRead tag ident b) takes rfl e
  · have e : answerClassRead b s.openChoice = (s.openChoice, some (Answer.ok (classBody c (s.classes.classes.get c)))) := by
      simp only [answerClassRead, cls]
      rfl
    rw [show ([b] : List Byte) = [byteOf c.number] by rw [ClassNo.ofNumber?_eq_some cls, byteOf_toNat_self]]
    exact State.read_request (c := .classRead tag b) takes rfl e
  · have e : answerGroupRead b s.openChoice = (s.openChoice, some (Answer.ok (groupBody g (s.groups.get g)))) := by
      simp only [answerGroupRead, group]
      rfl
    have number : byteOf g.number = b := by rw [GroupNo.ofNumber?_eq_some group, byteOf_toNat_self]
    obtain ⟨u, run, shows⟩ := State.read_request (c := .groupRead tag b) takes rfl e
    refine ⟨u, run, ?_⟩
    rw [← number]
    exact shows

/-! ## Status Query and Line Map Read (R161, R171) -/

theorem magnitudeBytes_eq (m : Option (Tri Nat)) : magnitudeBytes m = match m with
    | some m => half m.a ++ half m.b ++ half m.c ++ half (min m.a (min m.b m.c)) ++
      [if m.a ≤ m.b ∧ m.a ≤ m.c then 0 else if m.b ≤ m.c then 1 else 2]
    | none => [0xFF, 0xFF, 0xFF, 0xFF, 0xFF, 0xFF, 0xFF, 0xFF, 0xFF] := by
  cases m with
  | none => rfl
  | some m =>
    simp only [magnitudeBytes, readingBytes, Option.map_some, optHalf, optByte, readingOf]
    split
    · next first =>
      rw [Nat.min_eq_left (by omega)]
      simp [Phase.number, byteOf, half]
    · split
      · rw [show min m.a (min m.b m.c) = m.b by omega]
        simp [Phase.number, byteOf, half]
      · rw [show min m.a (min m.b m.c) = m.c by omega]
        simp [Phase.number, byteOf, half]

theorem UnitGrant.ident_eq (w : UnitGrant) : w.ident = match w.group, w.members with
    | some g, _ => 0x10 + g.number
    | none, d :: _ => d.feeder.number
    | none, [] => 0 := by
  obtain ⟨g, l, c, m, fu, fl, gr, q⟩ := w
  cases g
  · cases m <;> rfl
  · rfl

theorem summaryBytes_eq (m : Option Summary) : summaryBytes m = match m with
    | none => [0, 0, 0xFF, 0, 0, 0, 0, 0, 0, 0, 0, 0, 0, 0, 0, 0]
    | some m => half m.event ++
      (match m.point with
        | .onset .fast => [0, 0]
        | .onset .rms => [0, 1]
        | .onset .external => [0, 2]
        | .boundary t => [1, byteOf t]) ++
      optHalf m.vret ++ half m.available ++ [byteOf m.policy.code] ++ half m.reserve ++ half m.granted ++
      half m.unassigned ++ [byteOf m.units.length] ++ m.units.flatMap fun w => [byteOf w.ident, byteOf w.grant.code] := by
  rcases m with - | ⟨e, p, v, a, po, r, g, un, units⟩
  · rfl
  · rcases p with c | t
    · cases c <;> rfl
    · rfl

theorem lineBody_length (x : LineState) : (lineBody x).length = 3 := by
  unfold lineBody
  split <;> rfl

/-- Three bytes a line, in order (section 11.3). -/
theorem lineBodies_length (l : List Line) (x : Line → LineState) :
    (l.flatMap fun l => lineBody (x l)).length = 3 * l.length := by
  simp [List.length_flatMap, lineBody_length, Nat.mul_comm]

theorem lineBodies_take (early : List Line) (l : Line) (later : List Line) (x : Line → LineState) :
    (((early ++ l :: later).flatMap fun l => lineBody (x l)).drop (3 * early.length)).take 3 = lineBody (x l) := by
  rw [List.flatMap_append, List.drop_left' (lineBodies_length early x), List.flatMap_cons,
    List.take_left' (lineBody_length _)]

theorem lineList_split (l : Line) : ∃ early later, Line.list = early ++ l :: later ∧ early.length = l.number - 1 := by
  refine ⟨Line.list.take (l.number - 1), Line.list.drop l.number, ?_, ?_⟩ <;> cases l <;> rfl

theorem answerLineMapRead_open (s : State) : answerLineMapRead s.openChoice =
    (s.openChoice, some (.ok (Line.list.flatMap fun l => lineBody (s.lines.get l)))) := rfl

theorem answerStatusQuery_open (s : State) : answerStatusQuery s.openChoice = (s.openChoice, some (.ok (
    [byteOf s.loader.op.code, truth s.loader.imageFault, byteOf s.tracker.state.code, byteOf s.tracker.miss] ++
    magnitudeBytes s.magnitude.mags ++
    [byteOf s.detector.state.code, byteOf s.detector.t, byteOf s.detector.dwell] ++
    half ((s.detector.record.map (·.number)).getD 0) ++
    [byteOf s.classes.activeBank.number, optByte (s.classes.pendingBank.map (·.number))] ++
    storeBytes s.store ++ summaryBytes s.arbiter.summary ++
    Feeder.list.map (fun f => byteOf (s.seq.get f).state.code) ++
    Feeder.list.map (fun f => byteOf (s.port.get f).state.code) ++
    GroupNo.list.map (fun g => byteOf (s.groups.get g).state.code) ++
    [s.link.mask.zeroExtend 8, byteOf s.link.reports.length, truth s.link.overflow]))) := rfl

/-- Settles O43. -/
theorem statusAndLineMapShowTheState : Obligations.StatusAndLineMapShowTheState := by
  intro s tag takes
  refine ⟨?_, ?_⟩
  · intro v magnitudes ident summary
    have magnitudes_eq : magnitudeBytes s.magnitude.mags = magnitudes := by
      rw [magnitudeBytes_eq] <;> rfl
    have summary_eq : summaryBytes s.arbiter.summary = summary := by
      rw [summaryBytes_eq]
      simp only [UnitGrant.ident_eq]
      rfl
    rw [← magnitudes_eq, ← summary_eq]
    have e := answerStatusQuery_open s
    unfold storeBytes at e
    simp only [← List.append_assoc] at e
    exact State.read_request takes rfl e
  · obtain ⟨u, run, shows⟩ := State.read_request (s := s) (c := .lineMapRead tag) takes rfl
      (answerLineMapRead_open s)
    refine ⟨u, _, run, shows, lineBodies_length Line.list s.lines.get, fun l => ?_⟩
    obtain ⟨early, later, split, length⟩ := lineList_split l
    rw [← length]
    change (((Line.list.flatMap fun l => lineBody (s.lines.get l)).drop _).take 3) = _
    rw [split, lineBodies_take]
    rfl

/-! ## Event Query and Event List (R45) -/

theorem half_length (n : Nat) : (half n).length = 2 := rfl

theorem quad_length (n : Nat) : (quad n).length = 4 := rfl

theorem readingBytes_length (v : Option Reading) : (readingBytes v).length = 3 := by cases v <;> rfl

theorem verdictBytes_length (v : Verdict) : (verdictBytes v).length = 2 := by cases v <;> rfl

theorem entryBytes_length (e : Entry) : (entryBytes e).length = 15 := by
  simp [entryBytes, quad_length, verdictBytes_length]

theorem recordBytes_length (r : Record) (o : Bool) (d : Nat) : (recordBytes r o d).length = 24 + 15 * r.entries.length := by
  simp [recordBytes, half_length, quad_length, readingBytes_length, List.length_flatMap, entryBytes_length]
  omega

theorem readingBytes_eq (v : Option Reading) : readingBytes v = match v with
    | some ⟨k, p⟩ => half k ++ [match p with
      | .a => 0
      | .b => 1
      | .c => 2]
    | none => [0xFF, 0xFF, 0xFF] := by
  rcases v with - | ⟨k, p⟩
  · rfl
  · cases p <;> rfl

theorem answerEventQuery_of_some {s : State} {n : Nat} {r : Record} {o : Bool} (h : s.findRecord n = some (r, o)) :
    answerEventQuery n s.openChoice = (s.openChoice, some ⟨.ok, recordBytes r o (if o then s.detector.t else r.duration)⟩) := by
  have h : s.openChoice.findRecord n = some (r, o) := h
  unfold answerEventQuery
  rw [h]
  cases o <;> rfl

theorem answerEventQuery_of_none {s : State} {n : Nat} (h : s.findRecord n = none) :
    answerEventQuery n s.openChoice = (s.openChoice, some ⟨.value, []⟩) := by
  have h : s.openChoice.findRecord n = none := h
  unfold answerEventQuery
  rw [h]
  rfl

theorem State.findRecord_of_open {s : State} {n : Nat} {r : Record} (h : s.detector.record = some r)
    (k : n = 0 ∨ n = r.number) : s.findRecord n = some (r, true) := by
  unfold State.findRecord
  rcases k with zero | number
  · simp [zero, h]
  · simp [number, h]

theorem State.findRecord_of_newest {s : State} {r : Record} {early : List Record} (h : s.detector.record = none)
    (k : s.detector.table = early ++ [r]) : s.findRecord 0 = some (r, false) := by
  simp [State.findRecord, h, k]

/-- A number that the open record does not bear is looked for in the table. -/
theorem State.findRecord_of_other {s : State} {n : Nat} (pos : n ≠ 0)
    (h : ∀ q, s.detector.record = some q → q.number ≠ n) :
    s.findRecord n = (s.detector.table.find? fun r => r.number = n).map fun r => (r, false) := by
  unfold State.findRecord
  cases e : s.detector.record with
  | none => simp [pos]
  | some q => simp [pos, h q e]

theorem answerEventList_open (s : State) : answerEventList s.openChoice =
    (s.openChoice, some (.ok (half ((s.detector.record.map (·.number)).getD 0) ++ [byteOf s.detector.table.length] ++
      s.detector.table.reverse.flatMap fun r => half r.number))) := rfl

/-- Settles O44. -/
theorem eventQueriesShowTheRecords : Obligations.EventQueriesShowTheRecords := by
  intro s tag n takes reading entry shown
  have reading_eq : readingBytes = reading := funext readingBytes_eq
  have entry_eq : entryBytes = entry := by
    funext e
    simp only [entryBytes, entry]
    cases e.verdict <;> rfl
  have shown_eq (r : Record) (o : Bool) (d : Nat) : recordBytes r o d = shown r (truth o) d := by
    simp only [recordBytes, shown, reading_eq, entry_eq]
  have show_record {r : Record} {o : Bool} {b : Byte} {d : Nat} (found : s.findRecord n.toNat = some (r, o))
      (flag : truth o = b) (duration : (if o then s.detector.t else r.duration) = d) :
      ∃ u, exec (.eventQuery tag n) s = .next u ∧ Link.onlyAnswered s.link u.link ⟨0x04, tag, .ok, shown r b d⟩ := by
    rw [← flag, ← duration, ← shown_eq]
    exact State.read_request takes rfl (answerEventQuery_of_some found)
  refine ⟨State.read_request takes rfl (answerEventList_open s), fun r opened named => ?_, fun r early closed zero newest => ?_,
    fun r early later table named pos others apart => ?_, fun table opened => ?_, fun r o d => ?_⟩
  · exact show_record (State.findRecord_of_open opened named) rfl rfl
  · exact show_record (zero ▸ State.findRecord_of_newest closed newest) rfl rfl
  · refine show_record (o := false) ?_ rfl rfl
    have none : early.find? (fun q => q.number = n.toNat) = none := by
      simpa [named] using others
    rw [State.findRecord_of_other pos fun q opened => named ▸ apart q opened, table, List.find?_append, none]
    simp [named]
  · refine State.read_request takes rfl (answerEventQuery_of_none ?_)
    by_cases zero : n.toNat = 0
    · have closed : s.detector.record = none :=
        Option.eq_none_iff_forall_ne_some.mpr fun q e => (opened q e).1 zero
      have empty : s.detector.table = [] :=
        List.eq_nil_iff_forall_not_mem.mpr fun q mem => (table q mem).1 zero
      simp [State.findRecord, zero, closed, empty]
    · rw [State.findRecord_of_other zero fun q e => (opened q e).2]
      simpa using fun q mem => (table q mem).2
  · have e : shown r o d = (recordBytes r false d).set 2 o := by
      rw [shown_eq]
      rfl
    rw [e, List.length_set, recordBytes_length]

end Sys2Proof.Machine
end

section
/-! SUPPORT. The requests that write one block and post nothing (sections 2.2, 2.3, 7.1, 7.6, 9.4, 9.6). -/

namespace Sys2Proof.Machine

open Sys2Proof

/-- The service of a request whose rule leaves the link alone shows its reply alone. -/
theorem State.quiet_answered {s t : State} (quiet : t.link = s.openChoice.link) (r : Reply) :
    Link.onlyAnswered s.link (t.queueReply r).link r := by
  have e : (t.queueReply r).link = (s.openChoice.queueReply r).link := by simp only [State.queueReply, quiet]
  rw [e]
  exact s.openChoice_onlyAnswered r

/-- A request whose rule leaves the link alone: the reply, and what the rule makes of the other blocks. -/
theorem State.write_request {s t v : State} {c : Instr} {k tag : Byte} {rule : State → State × Option Answer} {st : Status}
    {body : List Byte} (takes : s.takesRequests) (row : exec c s = .next (s.serve k tag rule))
    (e : rule s.openChoice = (t, some ⟨st, body⟩)) (quiet : t.link = s.openChoice.link) (blocks : t.butLink = v.butLink) :
    ∃ u, exec c s = .next u ∧ u.butLink = v.butLink ∧ Link.onlyAnswered s.link u.link ⟨k, tag, st, body⟩ := by
  rw [row, State.serve_of_answer takes e]
  exact ⟨_, rfl, blocks, State.quiet_answered quiet _⟩

/-! ## Restart (R178) -/

theorem answerRestart_of_event {s : State} (h : s.eventOpen = true) (tag : Byte) :
    answerRestart tag s = s.refuseWith .notNow := if_pos h

theorem answerRestart_of_no_event {s : State} (h : s.eventOpen = false) (tag : Byte) :
    answerRestart tag s = ({ s with link := { s.link with service := some (.restart tag) } }, some (.ok [])) :=
  if_neg (by simp [h])

/-- Settles O57. -/
theorem restartIsAnsweredBeforeTheReset : Obligations.RestartIsAnsweredBeforeTheReset := by
  refine fun s tag takes => ⟨fun opened => ?_, fun closed => ?_⟩
  · exact State.write_request takes rfl (answerRestart_of_event (s := s.openChoice) opened tag) rfl rfl
  · have run : exec (.restart tag) s = .next _ := congrArg Host.Outcome.next
      (State.serve_of_answer (rule := answerRestart tag) takes (answerRestart_of_no_event (s := s.openChoice) closed tag))
    rw [run]
    obtain ⟨⟨waiting, asm, service, mask⟩, reports, overflow⟩ := State.queueReply_onlyAnswered
      { s.openChoice with link := { s.openChoice.link with service := some (.restart tag) } } ⟨0x14, tag, .ok, []⟩
    exact ⟨_, rfl, rfl, service, asm, mask, reports, overflow, waiting⟩

/-! ## Bank Select (R36) -/

theorem Bank.ofNumber?_eq_some {n : Nat} {b : Bank} : Bank.ofNumber? n = some b ↔ b.number = n := by
  constructor
  · unfold Bank.ofNumber?
    split <;> rintro ⟨⟩ <;> rfl
  · rintro rfl
    exact Bank.ofNumber?_number b

theorem bankNumber_lt (b : Bank) : b.number < 2 := by cases b <;> decide

theorem Bank.ofNumber?_eq_none {n : Nat} (h : 2 ≤ n) : Bank.ofNumber? n = none := by
  refine Option.eq_none_iff_forall_ne_some.mpr fun b e => ?_
  have := bankNumber_lt b
  have := Bank.ofNumber?_eq_some.mp e
  omega

theorem State.switchBank_of_no_event {s : State} (h : s.eventOpen = false) (b : Bank) :
    s.switchBank b = { s with classes := { s.classes with activeBank := b, pendingBank := none } } :=
  if_neg (by simp [h])

theorem State.switchBank_of_event {s : State} (h : s.eventOpen = true) (b : Bank) :
    s.switchBank b = { s with classes := { s.classes with pendingBank := some b } } := if_pos h

theorem answerBankSelect_of_no_event {s : State} {b : Byte} {k : Bank} (named : Bank.ofNumber? b.toNat = some k)
    (h : s.eventOpen = false) : answerBankSelect b s =
      ({ s.markWrite with classes := { s.classes with activeBank := k, pendingBank := none } },
        some (.ok [byteOf k.number, 0xFF])) := by
  have h' : s.markWrite.eventOpen = false := h
  simp only [answerBankSelect, named, h, Bool.false_eq_true, if_false, State.switchBank_of_no_event h']
  rfl

theorem answerBankSelect_of_event {s : State} {b : Byte} {k : Bank} (named : Bank.ofNumber? b.toNat = some k)
    (h : s.eventOpen = true) : answerBankSelect b s =
      ({ s with classes := { s.classes with pendingBank := some k } },
        some (.ok [byteOf s.classes.activeBank.number, byteOf k.number])) := by
  simp only [answerBankSelect, named, h, if_true, State.switchBank_of_event h]
  rfl

/-- Settles O54. -/
theorem bankSelectSwitchesOrPends : Obligations.BankSelectSwitchesOrPends := by
  refine fun s tag b takes => ⟨fun high => ?_, fun k number => ?_⟩
  · refine State.refused_request (rule := answerBankSelect b) takes rfl fun s => ?_
    simp only [answerBankSelect, Bank.ofNumber?_eq_none high]
  · have named := Bank.ofNumber?_eq_some.mpr number
    have byte : byteOf k.number = b := by rw [number, byteOf_toNat_self]
    refine ⟨fun closed => ?_, fun opened => ?_⟩
    · have e := answerBankSelect_of_no_event (s := s.openChoice) named closed
      rw [byte] at e
      exact State.write_request takes rfl e rfl rfl
    · have e := answerBankSelect_of_event (s := s.openChoice) named opened
      rw [byte] at e
      exact State.write_request takes rfl e rfl rfl

/-! ## Group Acks Clear (R146) -/

theorem GroupNo.ofNumber?_eq_none {n : Nat} (h : n < 1 ∨ 4 < n) : GroupNo.ofNumber? n = none := by
  refine Option.eq_none_iff_forall_ne_some.mpr fun g e => ?_
  have number := GroupNo.ofNumber?_eq_some e
  cases g <;> simp [GroupNo.number] at number <;> omega

/-- A group record with its course emptied (R146). -/
def Group.cleared (r : Group) : Group :=
  { r with engaged := .empty, acknowledged := .empty, refused := .empty, abandonCause := none }

theorem answerGroupAcksClear_of_engaged {s : State} {b : Byte} {g : GroupNo} (named : GroupNo.ofNumber? b.toNat = some g)
    (h : (s.groups.get g).state = .engaging ∨ (s.groups.get g).state = .active) :
    answerGroupAcksClear b s = s.refuseWith .notNow := by
  rcases h with h | h <;> simp only [answerGroupAcksClear, named, h]

theorem answerGroupAcksClear_of_idle {s : State} {b : Byte} {g : GroupNo} (named : GroupNo.ofNumber? b.toNat = some g)
    (h : (s.groups.get g).state = .idle ∨ (s.groups.get g).state = .abandoned) :
    answerGroupAcksClear b s = (s.setGroup g (s.groups.get g).cleared, some (.ok [b])) := by
  rcases h with h | h <;> simp only [answerGroupAcksClear, named, Group.cleared, h]

/-- The group of a feeder is read from the members alone. -/
theorem State.groupOf_congr {s t : State} (h : ∀ g, (t.groups.get g).members = (s.groups.get g).members) (f : Feeder) :
    t.groupOf f = s.groupOf f := by
  simp only [State.groupOf, h]

theorem State.setGroup_groupOf {s : State} {g : GroupNo} {r : Group} (h : r.members = (s.groups.get g).members)
    (f : Feeder) : (s.setGroup g r).groupOf f = s.groupOf f := by
  refine State.groupOf_congr (fun k => ?_) f
  by_cases e : k = g
  · subst e
    simpa using h
  · simp [Four.get_set_ne _ _ e]

/-- R141, R146: a group in ABANDONED whose sets were cleared takes a refusal of any of its members into its refused set. -/
theorem State.takeRefusal_of_cleared {s : State} {g : GroupNo} {f : Feeder} (member : s.groupOf f = some g)
    (state : (s.groups.get g).state = .abandoned) (empty : (s.groups.get g).engaged = .empty) (a : AbandonCause) :
    s.takeRefusal f a = s.setGroup g { s.groups.get g with refused := (s.groups.get g).refused.insert f } := by
  simp [State.takeRefusal, member, Group.takesRefusal, state, empty, State.refuse]

theorem State.groupClaim_of_abandoned {s : State} {g : GroupNo} {began : Four Group}
    (state : (began.get g).state = .abandoned) (k : PointKind) (released : GroupNo → Bool) :
    s.groupClaim k began released g = [] := by
  simp only [State.groupClaim, state]

theorem State.available_iff (s : State) (f : Feeder) : s.available f = true ↔
    (s.seq.get f).state = .standby ∧ (s.seq.get f).barred = false ∧ (s.port.get f).state = .up := by
  simp [State.available, and_assoc]

/-- R76: an available member of a group that is not in IDLE, and of no unit, stands by as GROUP_INCOMPLETE. -/
theorem State.stoodBy_of_incomplete {s : State} {f : Feeder} {g : GroupNo} {units : List UnitGrant} {began : Four Group}
    (available : s.available f = true) (none : unitOf units f = none) (member : s.groupOf f = some g)
    (state : (began.get g).state ≠ .idle) (k : PointKind) :
    s.stoodBy k began units f = some .groupIncomplete := by
  obtain ⟨standby, free, up⟩ := (s.available_iff f).mp available
  simp [State.stoodBy, standby, free, up, none, member, state]

/-- Settles O52. -/
theorem groupAcksClearEmptiesTheSets : Obligations.GroupAcksClearEmptiesTheSets := by
  refine fun s tag b takes => ⟨fun outside => ?_, fun g number => ⟨fun engaged => ?_, fun idle => ?_⟩⟩
  · refine State.refused_request (rule := answerGroupAcksClear b) takes rfl fun s => ?_
    simp only [answerGroupAcksClear, GroupNo.ofNumber?_eq_none outside]
  · have named : GroupNo.ofNumber? b.toNat = some g := by rw [← number, GroupNo.ofNumber?_number]
    exact State.write_request takes rfl (answerGroupAcksClear_of_engaged (s := s.openChoice) named engaged) rfl rfl
  · have named : GroupNo.ofNumber? b.toNat = some g := by rw [← number, GroupNo.ofNumber?_number]
    have run : exec (.groupAcksClear tag b) s = .next ((s.openChoice.setGroup g (s.groups.get g).cleared).queueReply
        ⟨0x11, tag, .ok, [b]⟩) := congrArg Host.Outcome.next (State.serve_of_answer (rule := answerGroupAcksClear b) takes
      (answerGroupAcksClear_of_idle (s := s.openChoice) named idle))
    intro cleared
    generalize hu : (s.openChoice.setGroup g (s.groups.get g).cleared).queueReply ⟨0x11, tag, .ok, [b]⟩ = u at run
    have groups : u.groups = s.groups.set g cleared := by rw [← hu]; rfl
    have record : u.groups.get g = cleared := by rw [groups, Four.get_set_self]
    have member (f : Feeder) : u.groupOf f = s.groupOf f := by
      rw [← hu]
      exact State.setGroup_groupOf (s := s) (r := (s.groups.get g).cleared) rfl f
    refine ⟨u, run, by rw [← hu]; rfl, by rw [← hu]; exact State.quiet_answered rfl _, fun abandoned =>
      ⟨fun f a of => ?_, fun k released => ?_, fun k units f of available none => ?_⟩⟩
    · rw [State.takeRefusal_of_cleared ((member f).trans of) (by rw [record]; exact abandoned) (by rw [record]), record]
      rfl
    · exact State.groupClaim_of_abandoned (by rw [record]; exact abandoned) k released
    · refine State.stoodBy_of_incomplete ?_ none ((member f).trans of) (by rw [record]; simp [cleared, abandoned]) k
      rw [← hu]
      exact available

/-! ## Group Write (R132) -/

theorem setByte_setOf {m : Byte} (h : m.toNat < 64) : setByte (setOf m) = m := by
  have all : ∀ n : Fin 64, setByte (setOf (byteOf n)) = byteOf n := by decide
  have e := all ⟨m.toNat, h⟩
  rwa [byteOf_toNat_self] at e

theorem State.groupConflict_iff (s : State) (g : GroupNo) (members : FeederSet) : s.groupConflict g members = true ↔
    ∃ f h, members.get f = true ∧ h ≠ g ∧ (s.groups.get h).members.get f = true := by
  simp only [State.groupConflict, List.any_eq_true, Bool.and_eq_true, bne_iff_ne]
  constructor
  · rintro ⟨f, -, mem, h, -, ne, other⟩
    exact ⟨f, h, mem, ne, other⟩
  · rintro ⟨f, h, mem, ne, other⟩
    exact ⟨f, Feeder.mem_list f, mem, h, GroupNo.mem_list h, ne, other⟩

theorem setOf?_of_lt {m : Byte} (h : m.toNat < 64) : setOf? m = some (setOf m) := if_pos h

theorem setOf?_of_le {m : Byte} (h : 64 ≤ m.toNat) : setOf? m = none := if_neg (Nat.not_lt.mpr h)

theorem truthOf?_of_lt {n : Nat} (h : n < 2) : truthOf? n = some (decide (n = 1)) := by
  interval_cases n <;> rfl

theorem truthOf?_of_le {n : Nat} (h : 2 ≤ n) : truthOf? n = none := by
  unfold truthOf?
  split
  · omega
  · omega
  · rfl

theorem truth_decide {b : Byte} (h : b.toNat < 2) : truth (decide (b.toNat = 1)) = b := by
  refine BitVec.eq_of_toNat_eq ?_
  generalize b.toNat = n at h
  interval_cases n <;> rfl

theorem clampNat_three (n : Nat) : clampNat 0 3 n = min 3 n := by
  unfold clampNat
  omega

section

variable {s : State} {b m level all : Byte} {g : GroupNo} (named : GroupNo.ofNumber? b.toNat = some g)
  (small : m.toNat < 64) (code : all.toNat < 2)

include named small code

/-- Group Write of a group, members and REQUIRE_ALL that exist: by an open event and a conflict of members (R132). -/
theorem answerGroupWrite_of_codes : answerGroupWrite b m level all s =
    if s.eventOpen then s.refuseWith .notNow
    else if s.groupConflict g (setOf m) then s.refuseWith .value
    else (s.setGroup g { Group.default with
        members := setOf m, level := min 3 level.toNat, requireAll := decide (all.toNat = 1) },
      some ⟨if 3 < level.toNat then .clamped else .ok, [b, m, byteOf (min 3 level.toNat), all, 0, 0, 0, 0, 0xFF]⟩) := by
  have number : byteOf g.number = b := by rw [GroupNo.ofNumber?_eq_some named, byteOf_toNat_self]
  simp only [answerGroupWrite, named, setOf?_of_lt small, truthOf?_of_lt code, clampNat_three, groupBody, number,
    setByte_setOf small, truth_decide code]
  rfl

end

/-- Settles O51. -/
theorem groupWriteReplacesTheRecord : Obligations.GroupWriteReplacesTheRecord := by
  intro s tag b m level all takes
  refine ⟨fun outside => ?_, fun g named small code => ⟨fun opened => ?_, fun closed taken => ?_, fun closed free => ?_⟩⟩
  · refine State.refused_request (rule := answerGroupWrite b m level all) takes rfl fun s => ?_
    rcases outside with none | large | code
    · simp only [answerGroupWrite, none]
    · simp only [answerGroupWrite, setOf?_of_le large]
      cases GroupNo.ofNumber? b.toNat <;> rfl
    · simp only [answerGroupWrite, truthOf?_of_le code]
      cases GroupNo.ofNumber? b.toNat <;> cases setOf? m <;> rfl
  · refine State.write_request takes rfl (t := s.openChoice) ?_ rfl rfl
    rw [answerGroupWrite_of_codes named small code, if_pos (show s.openChoice.eventOpen = true from opened)]
    rfl
  · refine State.write_request takes rfl (t := s.openChoice) ?_ rfl rfl
    rw [answerGroupWrite_of_codes named small code, if_neg (by rw [show s.openChoice.eventOpen = false from closed]; simp),
      if_pos ((State.groupConflict_iff s.openChoice g (setOf m)).mpr taken)]
    rfl
  · refine State.write_request (v := { s with groups := s.groups.set g _ }) takes rfl (t := s.openChoice.setGroup g _) ?_ rfl rfl
    rw [answerGroupWrite_of_codes named small code, if_neg (by rw [show s.openChoice.eventOpen = false from closed]; simp),
      if_neg fun h => free ((State.groupConflict_iff s.openChoice g (setOf m)).mp h)]
    rfl

end Sys2Proof.Machine
end

section
/-! SUPPORT. Class Write and Setting Write (sections 2.2 and 9.4). -/

namespace Sys2Proof.Machine

open Sys2Proof

/-! ## Class Write (R31, R32) -/

theorem clampNat_eq {lo hi : Nat} (h : lo ≤ hi) (v : Nat) : clampNat lo hi v = max lo (min hi v) := by
  unfold clampNat
  omega

theorem clampNat_zero (hi v : Nat) : clampNat 0 hi v = min v hi := by
  unfold clampNat
  omega

theorem clampNat_of_range {lo hi v : Nat} (low : lo ≤ v) (high : v ≤ hi) : clampNat lo hi v = v := by
  unfold clampNat
  omega

theorem clampFloors_limits (m : Nat) (l : List Segment) (p : Nat) :
    (clampFloors m p l).map (·.limit) = l.map (·.limit) := by
  induction l generalizing p with
  | nil => rfl
  | cons g rest ih => simp [clampFloors, ih]

/-- R32 step 4: each stored floor is the one given, raised to the stored floor before it and lowered to the immunity. -/
theorem clampFloors_floor (m : Nat) (l : List Segment) (p : Nat) (i : Nat) {g a : Segment}
    (hg : (clampFloors m p l)[i]? = some g) (ha : l[i]? = some a) :
    g.floor = min (max (if i = 0 then p else (((clampFloors m p l)[i - 1]?).map (·.floor)).getD 0) a.floor) m := by
  induction l generalizing p i with
  | nil => simp at ha
  | cons x rest ih =>
    cases i with
    | zero =>
      simp only [clampFloors, List.getElem?_cons_zero, Option.some.injEq] at hg ha
      simp [← hg, ← ha]
    | succ i =>
      simp only [clampFloors, List.getElem?_cons_succ] at hg ha
      rw [ih (max p x.floor) i hg ha]
      cases i with
      | zero =>
        simp only [clampFloors, if_true, Nat.zero_add, Nat.succ_ne_zero, if_false, Nat.sub_self,
          List.getElem?_cons_zero, Option.map_some, Option.getD_some]
        omega
      | succ i => simp [clampFloors]

/-- Rising floors within the immunity are kept (R32 step 4). -/
theorem clampFloors_of_rising {m : Nat} {l : List Segment} {p : Nat} (low : ∀ g ∈ l, p ≤ g.floor)
    (high : ∀ g ∈ l, g.floor ≤ m) (rising : l.Pairwise fun a b => a.floor ≤ b.floor) : clampFloors m p l = l := by
  induction l generalizing p with
  | nil => rfl
  | cons x rest ih =>
    obtain ⟨first, later⟩ := List.pairwise_cons.mp rising
    have hp := low x List.mem_cons_self
    have hm := high x List.mem_cons_self
    have raised : max p x.floor = x.floor := by omega
    simp only [clampFloors, raised, Nat.min_eq_left hm]
    rw [ih first (fun g hg => high g (List.mem_cons_of_mem x hg)) later]

theorem limitsAscend_iff (l : List Segment) : limitsAscend l = true ↔ (l.map (·.limit)).Pairwise (· < ·) := by
  refine ⟨fun h => List.pairwise_map.mpr (limitsAscend_pairwise l h), fun h => ?_⟩
  induction l with
  | nil => rfl
  | cons a rest ih =>
    obtain ⟨first, later⟩ := List.pairwise_cons.mp h
    cases rest with
    | nil => rfl
    | cons b rest =>
      simp only [limitsAscend, Bool.and_eq_true, decide_eq_true_eq]
      exact ⟨first b.limit (by simp), ih later⟩

theorem EnvClass.clampRanges_limits (c : EnvClass) :
    c.clampRanges.segments.map (·.limit) = c.segments.map fun g => max 1 (min 250 g.limit) := by
  simp [EnvClass.clampRanges, Function.comp_def, clampNat_eq]

theorem EnvClass.clampRanges_of_wf {c : EnvClass} (h : c.wf) : c.clampRanges = c := by
  obtain ⟨low, high, -, each, -⟩ := h
  have segments : c.segments.map (fun g => (⟨clampNat 1 250 g.limit, clampNat 0 1000 g.floor⟩ : Segment)) = c.segments := by
    refine (List.map_congr_left fun g hg => ?_).trans (List.map_id _)
    obtain ⟨h1, h2, h3⟩ := each g hg
    rw [clampNat_of_range h1 h2, clampNat_of_range (Nat.zero_le _) (h3.trans high)]
    rfl
  simp only [EnvClass.clampRanges, clampNat_of_range low high, segments]

theorem EnvClass.clampOrder_of_wf {c : EnvClass} (h : c.wf) : c.clampOrder = c := by
  obtain ⟨-, -, -, each, rising⟩ := h
  simp only [EnvClass.clampOrder, clampFloors_of_rising (fun g _ => Nat.zero_le _) (fun g hg => (each g hg).2.2)
    (rising.imp And.right)]

/-- R31, R32: a class record as Class Write stores it. -/
def EnvClass.stored (c : EnvClass) : EnvClass := c.clampRanges.clampOrder

theorem EnvClass.stored_of_wf {c : EnvClass} (h : c.wf) : c.stored = c := by
  rw [EnvClass.stored, EnvClass.clampRanges_of_wf h, EnvClass.clampOrder_of_wf h]

theorem EnvClass.stored_limits (c : EnvClass) :
    c.stored.segments.map (·.limit) = c.segments.map fun g => max 1 (min 250 g.limit) :=
  (clampFloors_limits _ _ 0).trans c.clampRanges_limits

theorem EnvClass.stored_length (c : EnvClass) : c.stored.segments.length = c.segments.length := by
  have e := congrArg List.length c.stored_limits
  simpa using e

theorem EnvClass.stored_floor (c : EnvClass) (i : Nat) {g a : Segment} (hg : c.stored.segments[i]? = some g)
    (ha : c.segments[i]? = some a) : g.floor =
      min (max (if i = 0 then 0 else ((c.stored.segments[i - 1]?).map (·.floor)).getD 0) (min a.floor 1000))
        c.stored.immunity := by
  have ranged : c.clampRanges.segments[i]? = some ⟨clampNat 1 250 a.limit, clampNat 0 1000 a.floor⟩ := by
    simp [EnvClass.clampRanges, ha]
  have e := clampFloors_floor c.clampRanges.immunity c.clampRanges.segments 0 i hg ranged
  rw [clampNat_zero] at e
  exact e

theorem EnvClass.stored_wf {c : EnvClass} (short : c.segments.length ≤ 6)
    (rising : (c.segments.map fun g => max 1 (min 250 g.limit)).Pairwise (· < ·)) : c.stored.wf := by
  obtain ⟨range, limits, length⟩ := c.clampRanges_spec
  refine EnvClass.clampOrder_wf _ (by rw [length]; exact short) range limits ?_
  rw [← EnvClass.clampRanges_limits] at rising
  exact List.pairwise_map.mp rising

theorem answerClassWrite_of_length {b : Byte} {m : Nat} {n : Byte} {l : List Byte} (s : State)
    (h : 6 < n.toNat ∨ l.length ≠ 3 * n.toNat) : answerClassWrite b m n l s = s.refuseWith .length := if_pos h

/-- R32 past the length test, for a class that exists. -/
theorem answerClassWrite_of_class {b : Byte} {m : Nat} {n : Byte} {l : List Byte} {s : State} {c : ClassNo}
    (short : n.toNat ≤ 6) (len : l.length = 3 * n.toNat) (named : ClassNo.ofNumber? b.toNat = some c) :
    answerClassWrite b m n l s =
      if s.eventOpen then s.refuseWith .notNow
      else if limitsAscend (EnvClass.clampRanges ⟨m, segmentsOf l⟩).segments then
        (s.storeClass c (EnvClass.stored ⟨m, segmentsOf l⟩),
          some ⟨if EnvClass.stored ⟨m, segmentsOf l⟩ = ⟨m, segmentsOf l⟩ then .ok else .clamped,
            classBody c (EnvClass.stored ⟨m, segmentsOf l⟩)⟩)
      else s.refuseWith .value := by
  unfold answerClassWrite
  rw [if_neg (by omega), named]
  dsimp only
  cases limitsAscend (EnvClass.clampRanges ⟨m, segmentsOf l⟩).segments <;> rfl

/-- Settles O50. -/
theorem classWriteClampsInOrder : Obligations.ClassWriteClampsInOrder := by
  intro s tag b m n l takes refused asked limits
  refine ⟨fun wrong => ?_, fun short len => ⟨fun none => ?_, fun c named => ⟨fun opened => ?_, fun closed falls => ?_,
    fun closed rises => ?_⟩⟩⟩
  · exact State.refused_request (rule := answerClassWrite b m.toNat n l) takes rfl fun s => answerClassWrite_of_length s wrong
  · refine State.refused_request (rule := answerClassWrite b m.toNat n l) takes rfl fun s => ?_
    simp only [answerClassWrite, if_neg (show ¬ (6 < n.toNat ∨ l.length ≠ 3 * n.toNat) by omega), none]
  · refine State.write_request takes rfl (t := s.openChoice) ?_ rfl rfl
    rw [answerClassWrite_of_class short len named, if_pos (show s.openChoice.eventOpen = true from opened)]
    rfl
  · refine State.write_request takes rfl (t := s.openChoice) ?_ rfl rfl
    have fails : ¬ limitsAscend asked.clampRanges.segments = true := by
      rw [limitsAscend_iff, EnvClass.clampRanges_limits]
      exact falls
    rw [answerClassWrite_of_class short len named,
      if_neg (by rw [show s.openChoice.eventOpen = false from closed]; simp), if_neg fails]
    rfl
  · have ascends : limitsAscend asked.clampRanges.segments = true := by
      rw [limitsAscend_iff, EnvClass.clampRanges_limits]
      exact rises
    have count : asked.segments.length = n.toNat := segmentsOf_length n.toNat l len
    have body : classBody c asked.stored = [b] ++ half asked.stored.immunity ++ [n] ++
        asked.stored.segments.flatMap fun g => byteOf g.limit :: half g.floor := by
      rw [classBody, ClassNo.ofNumber?_eq_some named, byteOf_toNat_self, EnvClass.stored_length, count, byteOf_toNat_self]
    have e : answerClassWrite b m.toNat n l s.openChoice = (s.openChoice.storeClass c asked.stored,
        some ⟨if asked.stored = asked then .ok else .clamped, [b] ++ half asked.stored.immunity ++ [n] ++
          asked.stored.segments.flatMap fun g => byteOf g.limit :: half g.floor⟩) := by
      rw [answerClassWrite_of_class short len named,
        if_neg (by rw [show s.openChoice.eventOpen = false from closed]; simp), if_pos ascends, ← body]
    obtain ⟨u, run, blocks, shows⟩ := State.write_request (c := .classWrite tag b m n l)
      (v := { s with classes := { s.classes with classes := s.classes.classes.set c asked.stored }, written := some s.stored })
      takes rfl e rfl rfl
    exact ⟨u, asked.stored, run, blocks, EnvClass.stored_wf (by rw [count]; exact short) rises,
      clampNat_eq (by omega) m.toNat, asked.stored_limits, fun i g a => asked.stored_floor i, EnvClass.stored_of_wf, shows⟩

/-! ## Setting Write (R169, R172) -/

theorem answerSettingWrite_of_unknown {ident b : Byte} (v : Nat) (s : State) (h : SettingId.ofCode? ident.toNat = none) :
    answerSettingWrite ident b v s = s.refuseWith .value := by
  simp only [answerSettingWrite, h]

/-- R172 for a setting that exists: its feeder, its value, and an open event, in this order. -/
theorem answerSettingWrite_of_setting {ident b : Byte} {id : SettingId} (h : SettingId.ofCode? ident.toNat = some id)
    (v : Nat) (s : State) : answerSettingWrite ident b v s = match settingFeeder id b with
      | none => s.refuseWith .value
      | some f =>
        if id.valueInSet v then (if s.eventOpen then s.refuseWith .notNow else s.applySetting ident b id f v)
        else s.refuseWith .value := by
  simp only [answerSettingWrite, h]
  cases settingFeeder id b with
  | none => rfl
  | some f => cases id.valueInSet v <;> rfl

theorem settingFeeder_of_perFeeder {id : SettingId} {b : Byte} (h : id.perFeeder = true) :
    settingFeeder id b = Feeder.ofNumber? b.toNat := if_pos h

theorem settingFeeder_ne_none {id : SettingId} {b : Byte} (h : id.perFeeder = true → Feeder.ofNumber? b.toNat ≠ none) :
    ∃ f, settingFeeder id b = some f := by
  unfold settingFeeder
  split
  · next per => exact Option.ne_none_iff_exists'.mp (h per)
  · exact ⟨_, rfl⟩

/-- The settings whose write only stores (R169). -/
theorem State.applySetting_of_plain {id : SettingId} (freq : id ≠ .lineFreq) (enabled : id ≠ .enabled) (s : State)
    (ident b : Byte) (f : Feeder) (v : Nat) : s.applySetting ident b id f v =
      (s.storeSetting id f (s.globals.clampSetting id v),
        some ⟨if s.globals.clampSetting id v = v then .ok else .clamped,
          settingBody ident id b (s.globals.clampSetting id v)⟩) := by
  unfold State.applySetting
  split
  · exact absurd rfl enabled
  · exact absurd rfl freq
  · rfl

/-- R169: the clamp is the limit to the range in force. -/
theorem Globals.clampSetting_eq {g : Globals} (h : g.wf) (id : SettingId) (v : Nat) :
    g.clampSetting id v = (match id.range g with
      | some (low, high) => max low (min high v)
      | none => v : Nat) := by
  obtain ⟨h1, h2, h3, h4, h5, h6, h7⟩ := h
  cases id <;> simp only [Globals.clampSetting, Globals.clampOnset, SettingId.range, clampNat] <;> omega

theorem Policy.ofCode?_eq_some {n : Nat} {p : Policy} (h : Policy.ofCode? n = some p) : p.code = n := by
  unfold Policy.ofCode? at h
  split at h <;> cases h <;> rfl

theorem LineFreq.ofCode?_eq_some {n : Nat} {q : LineFreq} : LineFreq.ofCode? n = some q ↔ n = q.code := by
  constructor
  · unfold LineFreq.ofCode?
    split <;> rintro ⟨⟩ <;> rfl
  · rintro rfl
    cases q <;> rfl

theorem truthOf?_isSome {n : Nat} (h : (truthOf? n).isSome = true) : n = 0 ∨ n = 1 := by
  unfold truthOf? at h
  split at h
  · exact .inl rfl
  · exact .inr rfl
  · cases h

/-- A truth value stored as its code is read back as it. -/
theorem truth_code {n : Nat} (h : (truthOf? n).isSome = true) : (if (n == 1) = true then 1 else 0) = n := by
  rcases truthOf?_isSome h with rfl | rfl <;> rfl

theorem SettingId.valueInSet_clamp (g : Globals) (id : SettingId) (v : Nat) :
    id.valueInSet (g.clampSetting id v) = id.valueInSet v := by
  cases id <;> rfl

/-- A stored value in its set is read back. -/
theorem State.storeSetting_same {id : SettingId} {v : Nat} (inSet : id.valueInSet v = true) (s : State) (f : Feeder) :
    (s.storeSetting id f v).settingValue id f = v := by
  cases id
  case lineFreq =>
    obtain ⟨q, e⟩ := Option.isSome_iff_exists.mp inSet
    change ((LineFreq.ofCode? v).getD _).code = v
    rw [e]
    exact (LineFreq.ofCode?_eq_some.mp e).symm
  case allocPolicy =>
    obtain ⟨p, e⟩ := Option.isSome_iff_exists.mp inSet
    change ((Policy.ofCode? v).getD _).code = v
    rw [e]
    exact Policy.ofCode?_eq_some e
  case bankClass b =>
    obtain ⟨c, e⟩ := Option.isSome_iff_exists.mp inSet
    simp only [State.storeSetting, State.storeBank, State.settingValue, Two.get_set_self, Six.get_set_self, e]
    exact ClassNo.ofNumber?_eq_some e
  case enabled =>
    simpa [State.storeSetting, State.settingValue, FeederSettings.store, SettingId.perFeeder] using truth_code inSet
  case startHeld =>
    simpa [State.storeSetting, State.settingValue, FeederSettings.store, SettingId.perFeeder] using truth_code inSet
  all_goals simp [State.storeSetting, State.storeBank, State.settingValue, FeederSettings.store, Globals.store,
    SettingId.perFeeder]

/-- A global setting stored leaves every other setting. -/
theorem Globals.store_other {id id' : SettingId} (ne : id' ≠ id) (s : State) (f : Feeder) (v : Nat) :
    State.settingValue { s with globals := s.globals.store id v } id' f = s.settingValue id' f := by
  cases id' <;> cases id <;> first | rfl | contradiction

/-- A feeder's setting stored leaves its other settings. -/
theorem FeederSettings.store_other {id id' : SettingId} (ne : id' ≠ id) (s : State) (f f' : Feeder) (v : Nat) :
    State.settingValue { s with feeders := s.feeders.set f ((s.feeders.get f).store id v) } id' f' =
      s.settingValue id' f' := by
  by_cases e : f' = f
  · subst e
    cases id' <;> simp only [State.settingValue, Six.get_set_self] <;> cases id <;> first | rfl | contradiction
  · cases id' <;> simp [State.settingValue, Six.get_set_ne _ _ e]

/-- A bank entry stored leaves the other feeders and the other bank, and every other setting. -/
theorem State.storeBank_other {b : Bank} {f f' : Feeder} {e : BankEntry} {s : State} {id' : SettingId}
    (cls : id' = .bankClass b → f' = f → e.cls = ((s.classes.banks.get b).get f).cls)
    (level : id' = .bankLevel b → f' = f → e.level = ((s.classes.banks.get b).get f).level) :
    (s.storeBank b f e).settingValue id' f' = s.settingValue id' f' := by
  cases id'
  case bankClass c =>
    by_cases same : c = b
    · subst same
      by_cases here : f' = f
      · subst here
        simp [State.settingValue, State.storeBank, cls rfl rfl]
      · simp [State.settingValue, State.storeBank, Six.get_set_ne _ _ here]
    · simp [State.settingValue, State.storeBank, Two.get_set_ne _ _ same]
  case bankLevel c =>
    by_cases same : c = b
    · subst same
      by_cases here : f' = f
      · subst here
        simp [State.settingValue, State.storeBank, level rfl rfl]
      · simp [State.settingValue, State.storeBank, Six.get_set_ne _ _ here]
    · simp [State.settingValue, State.storeBank, Two.get_set_ne _ _ same]
  all_goals rfl

/-- R35: the settings kept in a bank. -/
def SettingId.inBank : SettingId → Bool
  | .bankClass _ | .bankLevel _ => true
  | _ => false

theorem State.storeSetting_of_global {id : SettingId} (h : id.perFeeder = false) (s : State) (f : Feeder) (v : Nat) :
    s.storeSetting id f v = { s.markWrite with globals := s.globals.store id v } := by
  unfold State.storeSetting
  dsimp only
  split
  · cases h
  · cases h
  · exact if_neg (by simp [h])

theorem State.storeSetting_of_feeder {id : SettingId} (per : id.perFeeder = true) (h : id.inBank = false) (s : State)
    (f : Feeder) (v : Nat) :
    s.storeSetting id f v = { s.markWrite with feeders := s.feeders.set f ((s.feeders.get f).store id v) } := by
  unfold State.storeSetting
  dsimp only
  split
  · cases h
  · cases h
  · exact if_pos per

/-- A stored value changes no other setting, and of a per-feeder one no other feeder's. -/
theorem State.storeSetting_other {id id' : SettingId} {f f' : Feeder}
    (other : id' ≠ id ∨ id.perFeeder = true ∧ f' ≠ f) (s : State) (v : Nat) :
    (s.storeSetting id f v).settingValue id' f' = s.settingValue id' f' := by
  by_cases per : id.perFeeder = true
  · by_cases bank : id.inBank = true
    · cases id
      case bankClass b =>
        refine State.storeBank_other (s := s.markWrite) (fun same here => ?_) fun _ _ => rfl
        exact absurd other (by simp [same, here])
      case bankLevel b =>
        refine State.storeBank_other (s := s.markWrite) (fun _ _ => rfl) fun same here => ?_
        exact absurd other (by simp [same, here])
      all_goals cases bank
    · rw [State.storeSetting_of_feeder per (by simpa using bank)]
      by_cases ne : id' = id
      · have apart : f' ≠ f := by simpa [ne, per] using other
        cases id' <;> simp [State.settingValue, Six.get_set_ne _ _ apart]
      · exact FeederSettings.store_other ne s.markWrite f f' v
  · have ne : id' ≠ id := by simpa [per] using other
    rw [State.storeSetting_of_global (by simpa using per)]
    exact Globals.store_other ne s.markWrite f' v

/-- A stored value leaves every block but its own, and keeps the values before it for the instant (R167). -/
theorem State.storeSetting_frame (s : State) (id : SettingId) (f : Feeder) (v : Nat) :
    (s.storeSetting id f v).written = some s.stored ∧
      State.butLink { s.storeSetting id f v with
        globals := s.globals, feeders := s.feeders
        classes := { (s.storeSetting id f v).classes with banks := s.classes.banks }, written := s.written } = s.butLink := by
  cases id <;> exact ⟨rfl, rfl⟩

theorem State.storeSetting_globals_wf {s : State} (h : s.globals.wf) (id : SettingId) (f : Feeder) (v : Nat) :
    (s.storeSetting id f (s.globals.clampSetting id v)).globals.wf := by
  by_cases per : id.perFeeder = true
  · cases id <;> first | exact h | contradiction
  · rw [State.storeSetting_of_global (by simpa using per)]
    exact h.store id v

/-- Settles O47. -/
theorem settingWriteClampsStoresOrRefuses : Obligations.SettingWriteClampsStoresOrRefuses := by
  refine ⟨fun s tag ident b v id f takes named freq enabled feeder inSet closed wf => ?_, fun s tag ident b v takes =>
    ⟨fun unknown => ?_, fun id named => ⟨fun bad => ?_, fun feeder inSet opened => ?_⟩⟩⟩
  · intro stored
    have clamp : s.globals.clampSetting id v.toNat = stored := Globals.clampSetting_eq wf id v.toNat
    obtain ⟨g, chosen, same⟩ : ∃ g, settingFeeder id b = some g ∧ (id.perFeeder = true → g = f) := by
      by_cases per : id.perFeeder = true
      · exact ⟨f, (settingFeeder_of_perFeeder per).trans (feeder per), fun _ => rfl⟩
      · exact ⟨.f1, if_neg per, fun h => absurd h per⟩
    have value (t : State) : t.settingValue id g = t.settingValue id f := by
      by_cases per : id.perFeeder = true
      · rw [same per]
      · cases id <;> first | rfl | contradiction
    have e : answerSettingWrite ident b v.toNat s.openChoice = (s.openChoice.storeSetting id g stored,
        some ⟨if stored = v.toNat then .ok else .clamped,
          [ident, if id.perFeeder then b else 0xFF] ++ half stored⟩) := by
      rw [answerSettingWrite_of_setting named, chosen]
      dsimp only
      rw [if_pos inSet, if_neg (by rw [show s.openChoice.eventOpen = false from closed]; simp),
        State.applySetting_of_plain freq enabled, show s.openChoice.globals = s.globals from rfl, clamp]
      rfl
    have run : exec (.settingWrite tag ident b v) s = .next _ := congrArg Host.Outcome.next
      (State.serve_of_answer (rule := answerSettingWrite ident b v.toNat) takes e)
    obtain ⟨written, frame⟩ := s.openChoice.storeSetting_frame id g stored
    refine ⟨_, run, ?_, fun id' f' other => ?_, ?_, written, frame, State.quiet_answered ?_ _⟩
    · rw [← value]
      exact State.storeSetting_same (by rw [← clamp, SettingId.valueInSet_clamp, inSet]) s.openChoice g
    · exact State.storeSetting_other (other.imp_right fun ⟨per, ne⟩ => ⟨per, by rw [same per]; exact ne⟩) s.openChoice stored
    · rw [← clamp]
      exact State.storeSetting_globals_wf (s := s.openChoice) wf id g v.toNat
    · exact State.storeSetting_link s.openChoice id g stored
  · exact State.refused_request (rule := answerSettingWrite ident b v.toNat) takes rfl
      fun s => answerSettingWrite_of_unknown v.toNat s unknown
  · refine State.refused_request (rule := answerSettingWrite ident b v.toNat) takes rfl fun s => ?_
    rw [answerSettingWrite_of_setting named]
    rcases bad with ⟨per, none⟩ | outside
    · rw [settingFeeder_of_perFeeder per, none]
    · cases settingFeeder id b with
      | none => rfl
      | some f => exact if_neg (by simp [outside])
  · obtain ⟨f, chosen⟩ := settingFeeder_ne_none feeder
    refine State.write_request takes rfl (t := s.openChoice) (rule := answerSettingWrite ident b v.toNat) ?_ rfl rfl
    rw [answerSettingWrite_of_setting named, chosen]
    dsimp only
    rw [if_pos inSet, if_pos (show s.openChoice.eventOpen = true from opened)]
    rfl

end Sys2Proof.Machine
end

section
/-! SUPPORT. The reports of a part that is sending a frame (R173, R175): the queue only grows, so a report once posted is
carried to the end of the event or the instant that posted it. -/

namespace Sys2Proof.Machine

open Sys2Proof

/-- From `l` to `m` the queue of a sending transmitter has only grown, and the overflow marker has only been set. -/
def Link.Grows (l m : Link) : Prop :=
  l.tx ≠ none → m.tx = l.tx ∧ m.mask = l.mask ∧ l.reports.IsPrefix m.reports ∧ (l.overflow = true → m.overflow = true)

namespace Link.Grows

variable {l m n : Link}

theorem refl (l : Link) : Grows l l := fun _ => ⟨rfl, rfl, List.prefix_refl _, id⟩

theorem of_eq (h : m = l) : Grows l m := h ▸ refl l

theorem trans (a : Grows l m) (b : Grows m n) : Grows l n := fun sending => by
  obtain ⟨tx, mask, reports, overflow⟩ := a sending
  obtain ⟨tx', mask', reports', overflow'⟩ := b (tx ▸ sending)
  exact ⟨tx'.trans tx, mask'.trans mask, reports.trans reports', overflow' ∘ overflow⟩

/-- A report posted before the queue grew is still carried. -/
theorem carries_before {r : Report} (b : Grows m n) (posted : l.carries m r) (a : Grows l m) : l.carries n r := by
  intro sending kept
  obtain ⟨tx, -, -, -⟩ := a sending
  obtain ⟨-, -, reports, overflow⟩ := b (tx ▸ sending)
  exact (posted sending kept).imp (fun h => reports.subset h) fun ⟨full, lost⟩ =>
    ⟨full.trans reports.length_le, overflow lost⟩

/-- A report posted after the queue grew. -/
theorem carries_after {r : Report} (a : Grows l m) (posted : m.carries n r) : l.carries n r := by
  intro sending kept
  obtain ⟨tx, mask, -, -⟩ := a sending
  exact posted (tx ▸ sending) (mask ▸ kept)

end Link.Grows

theorem Link.offer_grows (l : Link) (r : Report) : Link.Grows l (l.offer r) := by
  intro _
  unfold Link.offer
  split
  · exact ⟨rfl, rfl, List.prefix_append _ _, id⟩
  · exact ⟨rfl, rfl, List.prefix_refl _, fun _ => rfl⟩

theorem Link.choose_grows (l : Link) : Link.Grows l l.choose := fun sending =>
  Link.Grows.of_eq (Link.choose_of_sending sending) sending

theorem Link.post_grows (l : Link) (r : Report) : Link.Grows l (l.post r) := by
  unfold Link.post
  split
  · split
    · exact l.offer_grows r
    · exact (l.offer_grows r).trans (l.offer r).choose_grows
  · exact .refl l

theorem Link.closeChoice_grows (l : Link) : Link.Grows l l.closeChoice := by
  unfold Link.closeChoice
  split
  · exact Link.Grows.trans (m := { l with choiceOpen := false }) (Link.Grows.refl l) (Link.choose_grows _)
  · exact .refl l

/-- Two states whose links grow from one to the other. -/
def State.Grows (s t : State) : Prop := Link.Grows s.link t.link

end Sys2Proof.Machine
end

section
/-! SUPPORT. What an event of a sequencer or of the group table does, as a course of elementary changes: reports posted,
entries written, sequencers changed so that none is engaged anew and one is barred only as it leaves engagement, a group's
record changed that wakes no group, requests and refusals moved. What such a course keeps is then said once per elementary
change. The grants (R96, R136), which arm feeders and wake groups, are no such course.

Within a sample instant, where no status record is taken, a sequencer that is out of STANDBY, HELD and OFFLINE only goes
forward, towards FAULTED and towards the last phase, and its timer is only stopped, started anew or left (`Sequencer.Ages`). -/

namespace Sys2Proof.Machine

open Sys2Proof

/-! ## How a sequencer ages within an instant -/

/-- The place of a state on the way out of engagement. -/
def FeederState.stage : FeederState → Nat
  | .offline | .standby | .held => 0
  | .arming | .injecting => 1
  | .releasing => 2
  | .faulted => 3

/-- The place of a phase. -/
def phaseStage : Option SeqPhase → Nat
  | none | some .closing => 0
  | some .handingOver => 1
  | some .stopping => 2
  | some .settled => 3

/-- How far a sequencer has come on its way out of engagement. -/
def Sequencer.stage (q : Sequencer) : Nat := 10 * q.state.stage + phaseStage q.phase

/-- In ARMING, INJECTING, RELEASING or FAULTED: the states whose timers run (R93). -/
def Sequencer.running (q : Sequencer) : Prop := 1 ≤ q.state.stage

/-- The timer's kind and count, without the mark of its start. -/
def Sequencer.count (q : Sequencer) : Option (TimerKind × Nat) := q.timer.map fun t => (t.kind, t.remaining)

/-- The sequencer's timer has expired and its expiry is not yet taken. -/
def Sequencer.due (q : Sequencer) : Prop := ∃ k, q.count = some (k, 0)

/-- The sequencer stands in its state and phase, with its timer. -/
def Sequencer.Stands (q r : Sequencer) : Prop := r.state = q.state ∧ r.phase = q.phase ∧ r.count = q.count

/-- What an instant may make of a sequencer; `expired` says that an expiry of it may be taken. -/
structure Sequencer.Ages (g : Globals) (expired : Bool) (q r : Sequencer) : Prop where
  timer : r.count = q.count ∨ r.count = none ∨ ∃ k, r.count = some (k, g.timeout k)
  goesOn : q.running → q.stage < r.stage ∨ q.Stands r ∨ expired = true ∧ q.due ∧ r.state = q.state ∧ r.phase = q.phase
  faulted : q.state = .faulted → q.Stands r ∧ r.followOn = q.followOn ∨ expired = true ∧ q.due
  present : q.state ≠ .offline → r.state ≠ .offline

/-- What grants and the boundary's notice alone change of a sequencer (R97, R100): its mode and its injected flag. -/
def Sequencer.Same (q r : Sequencer) : Prop := r.mode = q.mode ∧ r.injected = q.injected

namespace Sequencer

variable {g : Globals} {expired : Bool} {q r u : Sequencer}

theorem phaseStage_le (p : Option SeqPhase) : phaseStage p ≤ 3 := by
  rcases p with - | p
  · decide
  · cases p <;> decide

theorem Stands.refl (q : Sequencer) : q.Stands q := ⟨rfl, rfl, rfl⟩

theorem Stands.trans (a : q.Stands r) (b : r.Stands u) : q.Stands u :=
  ⟨b.1.trans a.1, b.2.1.trans a.2.1, b.2.2.trans a.2.2⟩

theorem stage_eq (state : r.state = q.state) (phase : r.phase = q.phase) : r.stage = q.stage := by
  rw [stage, state, phase, stage]

theorem running_of_stage_lt (h : q.running) (more : q.stage < r.stage) : r.running := by
  have := phaseStage_le r.phase
  unfold running stage at *
  omega

theorem Ages.of_stands (h : q.Stands r) (followOn : r.followOn = q.followOn) : Ages g expired q r :=
  ⟨.inl h.2.2, fun _ => .inr (.inl h), fun _ => .inl ⟨h, followOn⟩, fun n => h.1 ▸ n⟩

theorem Ages.refl (q : Sequencer) : Ages g expired q q := .of_stands (.refl q) rfl

theorem Ages.trans (a : Ages g expired q r) (b : Ages g expired r u) : Ages g expired q u where
  timer := by
    rcases b.timer with h | h | h
    · rw [h]
      exact a.timer
    · exact .inr (.inl h)
    · exact .inr (.inr h)
  goesOn := fun run => by
    rcases a.goesOn run with more | stands | ⟨may, due, state, phase⟩
    · rcases b.goesOn (running_of_stage_lt run more) with h | ⟨state, phase, -⟩ | ⟨-, -, state, phase⟩
      · exact .inl (more.trans h)
      · exact .inl (stage_eq state phase ▸ more)
      · exact .inl (stage_eq state phase ▸ more)
    · have run' : r.running := by rwa [running, stands.1]
      rcases b.goesOn run' with h | h | ⟨may, ⟨k, due⟩, state, phase⟩
      · exact .inl (stage_eq stands.1 stands.2.1 ▸ h)
      · exact .inr (.inl (stands.trans h))
      · exact .inr (.inr ⟨may, ⟨k, stands.2.2 ▸ due⟩, state.trans stands.1, phase.trans stands.2.1⟩)
    · have run' : r.running := by rwa [running, state]
      rcases b.goesOn run' with h | h | ⟨-, -, state', phase'⟩
      · exact .inl (stage_eq state phase ▸ h)
      · exact .inr (.inr ⟨may, due, h.1.trans state, h.2.1.trans phase⟩)
      · exact .inr (.inr ⟨may, due, state'.trans state, phase'.trans phase⟩)
  faulted := fun state => by
    rcases a.faulted state with ⟨stands, follow⟩ | h
    · rcases b.faulted (stands.1.trans state) with ⟨stands', follow'⟩ | ⟨may, k, due⟩
      · exact .inl ⟨stands.trans stands', follow'.trans follow⟩
      · exact .inr ⟨may, k, stands.2.2 ▸ due⟩
    · exact .inr h
  present := b.present ∘ a.present

/-- A sequencer in STANDBY or HELD may be changed freely but for its timer. -/
theorem Ages.of_idle (idle : q.state.stage = 0) (present : r.state ≠ .offline)
    (timer : r.count = q.count ∨ r.count = none ∨ ∃ k, r.count = some (k, g.timeout k)) : Ages g expired q r :=
  ⟨timer, fun run => by unfold running at run; omega, fun state => by rw [state] at idle; exact absurd idle (by decide),
    fun _ => present⟩

/-- A sequencer that goes on to a later state or phase, and was not FAULTED. -/
theorem Ages.of_later (later : q.stage < r.stage) (state : q.state ≠ .faulted) (present : r.state ≠ .offline)
    (timer : r.count = q.count ∨ r.count = none ∨ ∃ k, r.count = some (k, g.timeout k)) : Ages g expired q r :=
  ⟨timer, fun _ => .inl later, fun e => absurd e state, fun _ => present⟩

/-- A sequencer whose expiry is taken in its state. -/
theorem Ages.of_due (due : q.due) (on : q.stage < r.stage ∨ r.phase = q.phase) (state : r.state = q.state)
    (timer : r.count = none ∨ ∃ k, r.count = some (k, g.timeout k)) : Ages g true q r :=
  ⟨.inr timer, fun _ => on.imp_right fun h => .inr ⟨rfl, due, state, h⟩, fun _ => .inr ⟨rfl, due⟩, fun n => state ▸ n⟩

end Sequencer

/-- What the course of an event may make of a sequencer: anything, or what an instant may in which the expiries of some
feeders are taken; `steady`, with no grant and no boundary's notice. -/
inductive Taken where
  | any
  | aged (expired : Feeder → Bool)
  | steady (expired : Feeder → Bool)

/-- A change of a feeder's sequencer is one that a course may make. -/
def Taken.allows (k : Taken) (g : Globals) (f : Feeder) (q r : Sequencer) : Prop :=
  match k with
  | .any => True
  | .aged expired => Sequencer.Ages g (expired f) q r
  | .steady expired => Sequencer.Ages g (expired f) q r ∧ q.Same r

/-- An expiry of a feeder may be taken. -/
def Taken.expires (k : Taken) (f : Feeder) : Prop :=
  match k with
  | .any => True
  | .aged expired | .steady expired => expired f = true

/-- Grants and the boundary's notice may reach a sequencer. -/
def Taken.grants : Taken → Prop
  | .any | .aged _ => True
  | .steady _ => False

section

variable {k : Taken} {g : Globals} {f : Feeder} {q r u : Sequencer}

theorem Taken.allows_of_ages (h : ∀ expired, Sequencer.Ages g expired q r) (same : k.grants ∨ q.Same r) :
    k.allows g f q r := by
  cases k with
  | any => trivial
  | aged expired => exact h _
  | steady expired => exact ⟨h _, same.resolve_left id⟩

theorem Taken.allows_of_expiry (may : k.expires f) (h : Sequencer.Ages g true q r) (same : q.Same r) :
    k.allows g f q r := by
  have aged (expired : Feeder → Bool) (e : expired f = true) : Sequencer.Ages g (expired f) q r := by rwa [e]
  cases k with
  | any => trivial
  | aged expired => exact aged expired may
  | steady expired => exact ⟨aged expired may, same⟩

theorem Taken.allows_refl (k : Taken) (g : Globals) (f : Feeder) (q : Sequencer) : k.allows g f q q :=
  Taken.allows_of_ages (fun _ => .refl q) (.inr ⟨rfl, rfl⟩)

theorem Taken.allows_trans (a : k.allows g f q r) (b : k.allows g f r u) : k.allows g f q u := by
  cases k with
  | any => trivial
  | aged expired => exact Sequencer.Ages.trans a b
  | steady expired => exact ⟨a.1.trans b.1, b.2.1.trans a.2.1, b.2.2.trans a.2.2⟩

end

/-! ## The course of an event -/

/-- The facts of a half-cycle that an outcome entry holds, with its feeder (R41, R43): not its participation, modes and
release. -/
def Entry.facts (e : Entry) : Feeder × Nat × Nat × Nat × Nat × Verdict :=
  (e.feeder, e.injected, e.quanta, e.overdraw, e.saturated, e.verdict)

theorem Entry.withRelease_facts (e : Entry) (c : Cause) : (e.withRelease c).facts = e.facts := by
  unfold Entry.withRelease
  split <;> rfl

/-- A course of elementary changes by events of the sequencers, the group table and the blocks around them, other than
grants. -/
inductive State.Course (k : Taken) : State → State → Prop where
  | refl (s : State) : Course k s s
  | trans {s t u : State} : Course k s t → Course k t u → Course k s u
  | links (s : State) (l : Link) (grows : Link.Grows s.link l) : Course k s { s with link := l }
  | entry (s : State) (f : Feeder) (c : Entry → Entry) (facts : ∀ e, (c e).facts = e.facts) : Course k s (s.updateEntry f c)
  | seqs (s : State) (v : Six Sequencer) (allowed : ∀ f, k.allows s.globals f (s.seq.get f) (v.get f))
      (engaged : ∀ f, (v.get f).state.engaged = true → s.participant f = true)
      (barred : ∀ f, (v.get f).barred = true →
        (s.seq.get f).barred = true ∨ s.participant f = true ∧ s.eventOpen = true) : Course k s { s with seq := v }
  | group (s : State) (g : GroupNo) (r : Group) (idle : (s.groups.get g).state = .idle → r.state = .idle) :
      Course k s (s.setGroup g r)
  | requests (s : State) (w : FeederSet) : Course k s { s with groupRequests := w }
  | refusals (s : State) (w : List (Feeder × AbandonCause)) : Course k s { s with refusals := w }
  | blocks (s t : State) (seq : t.seq = s.seq) (groups : t.groups = s.groups) (globals : t.globals = s.globals)
      (link : t.link = s.link) (detector : t.detector = s.detector) (tracker : t.tracker = s.tracker)
      (arbiter : t.arbiter = s.arbiter) : Course k s t

open State (Course)

namespace State.Course

variable {k : Taken}

theorem post (s : State) (r : Report) : Course k s (s.post r) := .links s _ (s.link.post_grows r)

theorem ite {s t u : State} {c : Prop} [Decidable c] (a : Course k s t) (b : Course k s u) :
    Course k s (if c then t else u) := by
  split
  · exact a
  · exact b

theorem foldl {α : Type} {step : State → α → State} (h : ∀ a s, Course k s (step s a)) (l : List α) (s : State) :
    Course k s (l.foldl step s) := foldl_rel Course.refl Course.trans h l s

theorem forFeeders {step : Feeder → State → State} (h : ∀ f s, Course k s (step f s)) (s : State) :
    Course k s (Machine.forFeeders step s) := Course.foldl (step := fun s f => step f s) h _ s

theorem forGroups {step : GroupNo → State → State} (h : ∀ g s, Course k s (step g s)) (s : State) :
    Course k s (Machine.forGroups step s) := Course.foldl (step := fun s g => step g s) h _ s

theorem forLines {step : Line → State → State} (h : ∀ l s, Course k s (step l s)) (s : State) :
    Course k s (Machine.forLines step s) := Course.foldl (step := fun s l => step l s) h _ s

/-- One sequencer changed. -/
theorem seq (s : State) (f : Feeder) (q : Sequencer) (allowed : k.allows s.globals f (s.seq.get f) q)
    (engaged : q.state.engaged = true → s.participant f = true)
    (barred : q.barred = true → (s.seq.get f).barred = true ∨ s.participant f = true ∧ s.eventOpen = true) :
    Course k s (s.setSeq f q) := by
  have other (h : Feeder) (ne : h ≠ f) : (s.seq.set f q).get h = s.seq.get h := Six.get_set_ne _ _ ne
  refine .seqs s (s.seq.set f q) (fun h => ?_) (fun h => ?_) fun h => ?_ <;> by_cases same : h = f
  · subst same
    rwa [Six.get_set_self]
  · rw [other h same]
    exact k.allows_refl _ h _
  · subst same
    rwa [Six.get_set_self]
  · rw [other h same]
    exact id
  · subst same
    rwa [Six.get_set_self]
  · rw [other h same]
    exact .inl

/-- A sequencer changed to a state out of engagement, with no bar set. -/
theorem idle (s : State) (f : Feeder) (q : Sequencer) (allowed : k.allows s.globals f (s.seq.get f) q)
    (engaged : q.state.engaged = false) (barred : q.barred = (s.seq.get f).barred) : Course k s (s.setSeq f q) :=
  .seq s f q allowed (fun e => by simp [engaged] at e) fun e => .inl (barred ▸ e)

/-- A sequencer changed within its state. -/
theorem same (s : State) (f : Feeder) (q : Sequencer) (allowed : k.allows s.globals f (s.seq.get f) q)
    (state : q.state = (s.seq.get f).state) (barred : q.barred = (s.seq.get f).barred) : Course k s (s.setSeq f q) :=
  .seq s f q allowed (fun e => by rwa [State.participant, ← state]) fun e => .inl (barred ▸ e)

/-- What a course in an instant makes of the sequencers, another may too. -/
theorem toAny {s t : State} (h : Course k s t) : Course .any s t := by
  induction h with
  | refl s => exact .refl s
  | trans _ _ a b => exact a.trans b
  | links s l grows => exact .links s l grows
  | entry s f c facts => exact .entry s f c facts
  | seqs s v _ engaged barred => exact .seqs s v (fun _ => trivial) engaged barred
  | group s g r idle => exact .group s g r idle
  | requests s w => exact .requests s w
  | refusals s w => exact .refusals s w
  | blocks s t seq groups globals link detector tracker arbiter =>
    exact .blocks s t seq groups globals link detector tracker arbiter

end State.Course

/-! ## Departures and refusals -/

section

variable {k : Taken}

/-- R95, R104, R110: a feeder sent to STANDBY or HELD, where the course may do so. -/
theorem State.enterReady_course (s : State) (f : Feeder) (allowed : k.allows s.globals f (s.seq.get f)
    { s.seq.get f with state := s.readyState f, phase := none, timer := none }) : Course k s (s.enterReady f) := by
  refine .trans (.idle s f { s.seq.get f with state := s.readyState f, phase := none, timer := none } allowed ?_ rfl)
    (.post _ _)
  unfold State.readyState
  dsimp only
  split <;> rfl

/-- R101: a feeder released from engagement goes on to RELEASING. -/
theorem Sequencer.stage_lt_of_engaged {q r : Sequencer} (engaged : q.state.engaged = true)
    (state : 2 ≤ r.state.stage) : q.stage < r.stage := by
  have bound := Sequencer.phaseStage_le q.phase
  have one : q.state.stage = 1 := by
    revert engaged
    cases q.state <;> simp [FeederState.engaged, FeederState.stage]
  unfold Sequencer.stage
  omega

theorem State.releaseAlone_course (s : State) (f : Feeder) (c : Cause) : Course k s (s.releaseAlone f c) := by
  unfold State.releaseAlone
  simp only
  split
  · next engaged =>
    refine .trans (.trans (.seq s f _ (Taken.allows_of_ages (fun _ => .of_later (Sequencer.stage_lt_of_engaged engaged ?_)
      ?_ ?_ (.inr (.inr ⟨.bypass, rfl⟩))) ?_) (fun _ => engaged) fun b => ?_) (.entry _ f _ fun e => e.withRelease_facts c)) (.post _ _)
    · exact le_refl 2
    · intro e
      rw [e] at engaged
      cases engaged
    · exact nofun
    · exact .inr ⟨rfl, rfl⟩
    · rcases (Bool.or_eq_true _ _).mp b with b | b
      · exact .inl b
      · exact .inr ⟨engaged, b⟩
  · exact .refl s

/-- R107 to R109: an entry into FAULTED of a feeder that is not FAULTED, or where the course may do anything. -/
theorem State.faultAlone_course (s : State) (f : Feeder) (c : Cause) (ph : SeqPhase) (timer : Option TimerKind)
    (allowed : k = .any ∨ (s.seq.get f).state ≠ .faulted) : Course k s (s.faultAlone f c ph timer) := by
  unfold State.faultAlone
  simp only
  refine .trans (.trans ?_ (.post _ _)) (.post _ _)
  have moved (q : Sequencer) (state : q.state = .faulted) (started : q.timer = timer.bind s.globals.startTimer)
      (barred : q.barred = ((s.seq.get f).barred || (s.participant f && s.eventOpen))) (same : (s.seq.get f).Same q) :
      Course k s (s.setSeq f q) := by
    refine .seq s f q ?_ (fun e => by simp [state, FeederState.engaged] at e) fun b => ?_
    · rcases allowed with rfl | other
      · trivial
      · refine Taken.allows_of_ages (fun _ => .of_later ?_ other (by simp [state]) ?_) (.inr same)
        · have bound := Sequencer.phaseStage_le (s.seq.get f).phase
          have low : (s.seq.get f).state.stage ≤ 2 := by
            revert other
            cases (s.seq.get f).state <;> simp [FeederState.stage]
          have high : q.state.stage = 3 := by rw [state]; rfl
          unfold Sequencer.stage
          omega
        · unfold Sequencer.count
          rw [started]
          cases timer with
          | none => exact .inr (.inl rfl)
          | some j => exact .inr (.inr ⟨j, rfl⟩)
    · rw [barred] at b
      simpa using b
  exact .ite (.trans (moved _ rfl rfl rfl (by exact ⟨rfl, rfl⟩)) (.entry _ f _ fun e => e.withRelease_facts c))
    (moved _ rfl rfl rfl (by exact ⟨rfl, rfl⟩))

theorem State.followOn_course (s : State) (f : Feeder) (c : Cause)
    (allowed : k.allows s.globals f (s.seq.get f) { s.seq.get f with followOn := some c }) : Course k s (s.followOn f c) :=
  .trans (.same s f { s.seq.get f with followOn := some c } allowed rfl rfl) (.post _ _)

theorem State.takeGroupRequests_course (s : State) : Course k s s.takeGroupRequests :=
  .trans (.requests s _) (.forFeeders (fun f s => .ite (s.releaseAlone_course f _) (.refl s)) _)

theorem State.refuse_course (s : State) (g : GroupNo) (f : Feeder) (a : AbandonCause) : Course k s (s.refuse g f a) := by
  have stays (r : Group) (idle : (s.groups.get g).state = .idle → r.state = .idle) : Course k s (s.setGroup g r) :=
    .group s g r idle
  unfold State.refuse
  simp only
  split
  · next e => exact .trans (stays _ (by simp [e])) (.requests _ _)
  · next e => exact .trans (stays _ (by simp [e])) (.requests _ _)
  · next e => exact stays _ (by simp [e])
  · next e => exact stays _ (by simp [e])

theorem State.takeRefusal_course (s : State) (f : Feeder) (a : AbandonCause) : Course k s (s.takeRefusal f a) := by
  unfold State.takeRefusal
  split
  · exact .ite (s.refuse_course _ f a) (.refl s)
  · exact .refl s

theorem State.takeRefusals_course (s : State) : Course k s s.takeRefusals :=
  .trans (.refusals s _)
    (.foldl (step := fun s (r : Feeder × AbandonCause) => s.takeRefusal r.1 r.2) (fun _ s => s.takeRefusal_course _ _) _ _)

theorem State.settleGroups_course (s : State) (lv : Leave) : Course k s (s.settleGroups lv) := by
  unfold State.settleGroups
  exact .ite (.refl s) (.ite s.takeRefusals_course (.trans s.takeRefusals_course (State.takeGroupRequests_course _)))

theorem State.depart_course (s : State) (lv : Leave) (f : Feeder) (c : Cause) : Course k s (s.depart lv f c) := by
  unfold State.depart
  split
  · exact .trans (.refusals s _) (State.settleGroups_course _ lv)
  · exact .refl s

theorem State.release_course (s : State) (lv : Leave) (f : Feeder) (c : Cause) : Course k s (s.release lv f c) := by
  unfold State.release
  exact .ite (.trans (s.releaseAlone_course f c) (State.depart_course _ lv f c)) (.refl s)

theorem State.fault_course (s : State) (lv : Leave) (f : Feeder) (c : Cause) (ph : SeqPhase) (timer : Option TimerKind)
    (allowed : k = .any ∨ (s.seq.get f).state ≠ .faulted) : Course k s (s.fault lv f c ph timer) := by
  have alone := s.faultAlone_course f c ph timer allowed
  unfold State.fault
  exact .ite (.trans alone (State.depart_course _ lv f c)) alone

/-! ## The group table -/

theorem State.starveGroup_course (s : State) (g : GroupNo) : Course k s (s.starveGroup g) := by
  unfold State.starveGroup
  simp only
  split
  · next e => exact .group s g _ (by simp [e])
  · next e => exact .group s g _ (by simp [e])
  · exact .refl s
  · exact .refl s

theorem State.groupNotNeeded_course (s : State) (g : GroupNo) : Course k s (s.groupNotNeeded g) := by
  unfold State.groupNotNeeded
  simp only
  split
  · exact .group s g _ fun _ => rfl
  · exact .group s g _ fun _ => rfl
  · exact .refl s
  · exact .refl s

theorem State.groupEventEnd_course (s : State) (g : GroupNo) (e : EndCause) : Course k s (s.groupEventEnd g e) := by
  have ended (who : Feeder → Bool) : Course k s (forFeeders (fun f s => if who f then s.release .nothing f e.cause else s)
      (s.setGroup g { s.groups.get g with state := .idle })) :=
    .trans (.group s g _ fun _ => rfl) (.forFeeders (fun f s => .ite (s.release_course _ f _) (.refl s)) _)
  unfold State.groupEventEnd
  simp only
  split
  · exact ended _
  · exact ended _
  · exact .group s g _ fun _ => rfl
  · exact .refl s

theorem State.participantGrant_course (may : k.grants) (s : State) (f : Feeder) (m : Mode) :
    Course k s (s.participantGrant f m) := by
  have moded : Course k s (s.setSeq f { s.seq.get f with mode := some m }) :=
    .same s f _ (Taken.allows_of_ages (fun _ => .of_stands ⟨rfl, rfl, rfl⟩ rfl) (.inl may)) rfl rfl
  unfold State.participantGrant
  exact .ite (.ite moded (.trans moded (.entry _ f _ fun _ => rfl))) (.refl s)

/-! ## Expiries and holds -/

theorem Sequencer.due_of_timer {q : Sequencer} {t : Timer} (h : q.timer = some t) (zero : t.remaining = 0) : q.due :=
  ⟨t.kind, by rw [Sequencer.count, h, ← zero]; rfl⟩

section

variable {s : State} {f : Feeder} (may : k.expires f) (due : (s.seq.get f).due)

include may due

theorem State.stopTimer_course : Course k s (s.stopTimer f) :=
  .same s f _ (Taken.allows_of_expiry may (.of_due due (.inr rfl) rfl (.inl rfl)) ⟨rfl, rfl⟩) rfl rfl

theorem State.armExpiry_course (lv : Leave) : Course k s (s.armExpiry lv f) := by
  unfold State.armExpiry
  split
  · next arming => exact s.fault_course lv f _ _ _ (.inr (by simp [arming]))
  · exact State.stopTimer_course may due

theorem State.bypassExpiry_course (lv : Leave) : Course k s (s.bypassExpiry lv f) := by
  unfold State.bypassExpiry
  split
  · exact s.release_course lv f _
  · next releasing _ => exact s.fault_course lv f _ _ _ (.inr (by simp [releasing]))
  · exact State.stopTimer_course may due

theorem State.handoverExpiry_course : Course k s (s.handoverExpiry f) := by
  unfold State.handoverExpiry
  split
  · next handing =>
    refine .same s f _ (Taken.allows_of_expiry may (.of_due due (.inl ?_) rfl (.inr ⟨.stop, rfl⟩)) ⟨rfl, rfl⟩) rfl rfl
    unfold Sequencer.stage
    rw [handing]
    exact Nat.lt_succ_self _
  · exact State.stopTimer_course may due

theorem State.stopExpiry_course (lv : Leave) : Course k s (s.stopExpiry lv f) := by
  unfold State.stopExpiry
  split
  · next releasing _ => exact s.fault_course lv f _ _ _ (.inr (by simp [releasing]))
  · have both : s.stopTimer f = s.setSeq f { s.seq.get f with timer := none } := rfl
    rw [both, State.followOn]
    simp only [State.setSeq, Six.get_set_self]
    refine .trans ?_ (.post _ _)
    have moved : Course k s (s.setSeq f { s.seq.get f with timer := none, followOn := some .stopTimeout }) :=
      .same s f _ (Taken.allows_of_expiry may (.of_due due (.inr rfl) rfl (.inl rfl)) ⟨rfl, rfl⟩) rfl rfl
    have twice : (s.seq.set f { s.seq.get f with timer := none }).set f
        { s.seq.get f with timer := none, followOn := some .stopTimeout } =
        s.seq.set f { s.seq.get f with timer := none, followOn := some .stopTimeout } := by cases f <;> rfl
    rw [twice]
    exact moved
  · exact State.stopTimer_course may due

end

/-- R93: an expiry taken, where the course may take it. -/
theorem State.expire_course (s : State) (lv : Leave) {f : Feeder} (may : k.expires f) : Course k s (s.expire lv f) := by
  unfold State.expire
  split
  · next t timer =>
    split
    · next zero =>
      have due := Sequencer.due_of_timer timer zero
      split
      · exact State.armExpiry_course may due lv
      · exact State.bypassExpiry_course may due lv
      · exact State.handoverExpiry_course may due
      · exact State.stopExpiry_course may due lv
    · exact .refl s
  · exact .refl s

/-- A feeder sent to STANDBY or HELD out of a state in which no timer runs. -/
theorem State.enterReady_course_of_idle (s : State) (f : Feeder) (idle : (s.seq.get f).state.stage = 0) :
    Course k s (s.enterReady f) :=
  s.enterReady_course f (Taken.allows_of_ages
    (fun _ => .of_idle idle (by simp only [State.readyState]; split <;> exact nofun) (.inr (.inl rfl))) (.inr ⟨rfl, rfl⟩))

theorem State.holdTaken_course (s : State) (lv : Leave) (f : Feeder) : Course k s (s.holdTaken lv f) := by
  unfold State.holdTaken
  split
  · next standby => exact s.enterReady_course_of_idle f (by rw [standby]; rfl)
  · exact s.release_course lv f _
  · exact s.release_course lv f _
  all_goals exact .refl s

theorem State.holdFreed_course (s : State) (f : Feeder) : Course k s (s.holdFreed f) := by
  unfold State.holdFreed
  split
  · next held => exact s.enterReady_course_of_idle f (by rw [held]; rfl)
  · exact .refl s

/-- A hold operation (R149, R150). -/
theorem State.hold_course (s : State) (lv : Leave) (f : Feeder) (op : HoldOp) : Course k s (s.hold lv f op) := by
  have counted : Course k s { s with holds := s.holds.set f (op.apply (s.holds.get f)) } := .blocks _ _ rfl rfl rfl rfl rfl rfl rfl
  unfold State.hold
  exact .ite (counted.trans (State.holdTaken_course _ lv f)) (.ite (counted.trans (State.holdFreed_course _ f)) counted)

end

/-! ## Status records -/

theorem State.takePortLost_course (s : State) (lv : Leave) (f : Feeder) : Course .any s (s.takePortLost lv f) := by
  unfold State.takePortLost
  split
  case h_6 => exact s.followOn_course f _ trivial
  case h_7 => exact .refl s
  all_goals exact s.fault_course lv f _ _ _ (.inl rfl)

end Sys2Proof.Machine
end

section
/-! SUPPORT. What a course of changes leaves and keeps. -/

namespace Sys2Proof.Machine

open Sys2Proof
open State (Course)

open State (Grows)

theorem State.updateEntry_link (s : State) (f : Feeder) (c : Entry → Entry) : (s.updateEntry f c).link = s.link := by
  unfold State.updateEntry
  split <;> rfl

theorem State.Grows.of_eq {s t : State} (h : t.link = s.link) : Grows s t := Link.Grows.of_eq h

theorem State.Grows.refl (s : State) : Grows s s := Link.Grows.refl _

theorem State.Grows.trans {s t u : State} (a : Grows s t) (b : Grows t u) : Grows s u := Link.Grows.trans a b

theorem State.Grows.ite {s t u : State} {c : Prop} [Decidable c] (a : Grows s t) (b : Grows s u) :
    Grows s (if c then t else u) := by
  split
  · exact a
  · exact b

theorem State.updateEntry_eventOpen (s : State) (f : Feeder) (c : Entry → Entry) :
    (s.updateEntry f c).eventOpen = s.eventOpen := by
  unfold State.updateEntry
  split <;> rfl

theorem State.updateEntry_seq (s : State) (f : Feeder) (c : Entry → Entry) : (s.updateEntry f c).seq = s.seq := by
  unfold State.updateEntry
  split <;> rfl

theorem State.updateEntry_globals (s : State) (f : Feeder) (c : Entry → Entry) : (s.updateEntry f c).globals = s.globals := by
  unfold State.updateEntry
  split <;> rfl

section

variable {k : Taken} {s t : State}

theorem State.Course.grows (h : Course .any s t) : Grows s t := by
  induction h with
  | refl s => exact Grows.refl s
  | trans _ _ a b => exact a.trans b
  | links _ _ grows => exact grows
  | entry s f c => exact Grows.of_eq (s.updateEntry_link f c)
  | seqs => exact Grows.of_eq rfl
  | group => exact Grows.of_eq rfl
  | requests => exact Grows.of_eq rfl
  | refusals => exact Grows.of_eq rfl
  | blocks _ _ _ _ _ link => exact Grows.of_eq link

/-- A course brings no feeder into engagement, wakes no group, opens or ends no event, and outside an event bars no
feeder. -/
theorem State.Course.participant (h : Course k s t) (f : Feeder) (out : s.participant f = false) :
    t.participant f = false := by
  induction h with
  | refl => exact out
  | trans _ _ a b => exact b (a out)
  | links => exact out
  | entry s h c => rwa [State.participant, State.updateEntry_seq]
  | seqs s v _ engaged =>
    rw [Bool.eq_false_iff]
    intro e
    exact absurd (engaged f e) (by simp [out])
  | group => exact out
  | requests => exact out
  | refusals => exact out
  | blocks _ _ seq => rwa [State.participant, seq]

theorem State.Course.groupIdle (h : Course k s t) (g : GroupNo) (idle : (s.groups.get g).state = .idle) :
    (t.groups.get g).state = .idle := by
  induction h with
  | refl => exact idle
  | trans _ _ a b => exact b (a idle)
  | links => exact idle
  | entry s f c => rwa [State.updateEntry_groups]
  | seqs => exact idle
  | group s h r kept =>
    by_cases same : g = h
    · subst same
      simpa using kept idle
    · simpa [same] using idle
  | requests => exact idle
  | refusals => exact idle
  | blocks _ _ _ groups => rwa [groups]

theorem State.Course.eventOpen (h : Course k s t) : t.eventOpen = s.eventOpen := by
  induction h with
  | refl => rfl
  | trans _ _ a b => exact b.trans a
  | entry s f c => exact s.updateEntry_eventOpen f c
  | links => rfl
  | seqs => rfl
  | group => rfl
  | requests => rfl
  | refusals => rfl
  | blocks _ _ _ _ _ _ detector _ _ => rw [State.eventOpen, detector, ← State.eventOpen]

theorem State.Course.globals (h : Course k s t) : t.globals = s.globals := by
  induction h with
  | refl => rfl
  | trans _ _ a b => exact b.trans a
  | entry s f c => exact s.updateEntry_globals f c
  | links => rfl
  | seqs => rfl
  | group => rfl
  | requests => rfl
  | refusals => rfl
  | blocks _ _ _ _ globals => exact globals

theorem State.Course.barred (h : Course k s t) (f : Feeder) (closed : s.eventOpen = false)
    (free : (s.seq.get f).barred = false) : (t.seq.get f).barred = false := by
  induction h with
  | refl => exact free
  | trans a _ iha ihb => exact ihb (a.eventOpen.trans closed) (iha closed free)
  | links => exact free
  | entry s f c => rwa [State.updateEntry_seq]
  | seqs s v _ _ barred =>
    rw [Bool.eq_false_iff]
    intro e
    simpa [free, closed] using barred f e
  | group => exact free
  | requests => exact free
  | refusals => exact free
  | blocks _ _ seq => rwa [seq]

/-- What a course makes of a sequencer, taken as a whole. -/
theorem State.Course.allows (h : Course k s t) (f : Feeder) : k.allows s.globals f (s.seq.get f) (t.seq.get f) := by
  induction h with
  | refl => exact k.allows_refl _ f _
  | trans a _ iha ihb => exact Taken.allows_trans iha (a.globals ▸ ihb)
  | links => exact k.allows_refl _ f _
  | entry s h c =>
    rw [State.updateEntry_seq]
    exact k.allows_refl _ f _
  | seqs s v allowed => exact allowed f
  | group => exact k.allows_refl _ f _
  | requests => exact k.allows_refl _ f _
  | refusals => exact k.allows_refl _ f _
  | blocks _ _ seq =>
    rw [seq]
    exact k.allows_refl _ f _

/-- A detector with the outcome entries of its open record changed. -/
def Detector.mapEntries (d : Detector) (c : Entry → Entry) : Detector :=
  { d with record := d.record.map fun r => { r with entries := r.entries.map c } }

/-- The detector has only had its open record's entries written, and no facts of a half-cycle among them. -/
def State.Noted (s t : State) : Prop :=
  ∃ c : Entry → Entry, (∀ e, (c e).facts = e.facts) ∧ t.detector = s.detector.mapEntries c

theorem State.Noted.of_eq (h : t.detector = s.detector) : State.Noted s t :=
  ⟨id, fun _ => rfl, by rw [h]; rcases s.detector with ⟨_, _, _, - | _, _, _, _⟩ <;> simp [Detector.mapEntries]⟩

theorem State.Noted.trans {u : State} (a : State.Noted s t) (b : State.Noted t u) : State.Noted s u := by
  obtain ⟨c, kept, first⟩ := a
  obtain ⟨d, kept', second⟩ := b
  refine ⟨d ∘ c, fun e => (kept' _).trans (kept e), ?_⟩
  rw [second, first]
  unfold Detector.mapEntries
  cases s.detector.record <;> simp

theorem State.updateEntry_noted (s : State) (f : Feeder) (c : Entry → Entry) (facts : ∀ e, (c e).facts = e.facts) :
    State.Noted s (s.updateEntry f c) := by
  refine ⟨fun e => if e.feeder = f then c e else e, fun e => ?_, ?_⟩
  · dsimp only
    split
    · exact facts e
    · rfl
  · unfold State.updateEntry
    split
    · next r e => rw [Detector.mapEntries, e]; rfl
    · next e => rw [Detector.mapEntries, e, Option.map_none, ← e]

theorem State.Course.noted (h : Course k s t) : State.Noted s t := by
  induction h with
  | refl => exact .of_eq rfl
  | trans _ _ a b => exact a.trans b
  | entry s f c facts => exact s.updateEntry_noted f c facts
  | links => exact .of_eq rfl
  | seqs => exact .of_eq rfl
  | group => exact .of_eq rfl
  | requests => exact .of_eq rfl
  | refusals => exact .of_eq rfl
  | blocks _ _ _ _ _ _ detector => exact .of_eq detector

theorem State.updateEntry_tracker (s : State) (f : Feeder) (c : Entry → Entry) :
    (s.updateEntry f c).tracker = s.tracker ∧ (s.updateEntry f c).arbiter = s.arbiter := by
  unfold State.updateEntry
  split <;> exact ⟨rfl, rfl⟩

/-- A course is none of the tracker's or the arbiter's. -/
theorem State.Course.tracker (h : Course k s t) : t.tracker = s.tracker ∧ t.arbiter = s.arbiter := by
  induction h with
  | trans _ _ a b => exact ⟨b.1.trans a.1, b.2.trans a.2⟩
  | entry s f c => exact s.updateEntry_tracker f c
  | refl => exact ⟨rfl, rfl⟩
  | links => exact ⟨rfl, rfl⟩
  | seqs => exact ⟨rfl, rfl⟩
  | group => exact ⟨rfl, rfl⟩
  | requests => exact ⟨rfl, rfl⟩
  | refusals => exact ⟨rfl, rfl⟩
  | blocks _ _ _ _ _ _ _ tracker arbiter => exact ⟨tracker, arbiter⟩

end

end Sys2Proof.Machine
end

section
/-! SUPPORT. A step taken at each feeder in turn, seen at one feeder (its own step, when the others leave that feeder alone),
and a report that one of the steps posts. -/

namespace Sys2Proof.Machine

open Sys2Proof
open State (Grows)

theorem Feeder.list_nodup : Feeder.list.Nodup := by decide

section

/-- Over a list, what shows of one member is its own step's work, if it is listed, and else stands. -/
theorem foldl_view {ι α : Type} [DecidableEq ι] {step : ι → State → State} {f : ι} {view : State → α} {own : α → α}
    (apart : ∀ h s, h ≠ f → view (step h s) = view s) (mine : ∀ s, view (step f s) = own (view s)) (l : List ι)
    (nodup : l.Nodup) (s : State) : view (l.foldl (fun s h => step h s) s) = if f ∈ l then own (view s) else view s := by
  induction l generalizing s with
  | nil => rfl
  | cons h l ih =>
    obtain ⟨fresh, nodup⟩ := List.nodup_cons.mp nodup
    rw [List.foldl_cons, ih nodup]
    by_cases same : h = f
    · subst same
      simp [fresh, mine]
    · simp [Ne.symm same, apart h s same]

variable {step : Feeder → State → State} {f : Feeder}

theorem forFeeders_view {α : Type} {view : State → α} (own : α → α)
    (apart : ∀ h s, h ≠ f → view (step h s) = view s) (mine : ∀ s, view (step f s) = own (view s)) (s : State) :
    view (forFeeders step s) = own (view s) :=
  (foldl_view apart mine Feeder.list Feeder.list_nodup s).trans (if_pos (Feeder.mem_list f))

/-- A report that one feeder's step posts is carried to the end of the steps. -/
theorem foldl_carries {P : State → Prop} {r : Report} (grows : ∀ h s, Grows s (step h s))
    (apart : ∀ h s, h ≠ f → P s → P (step h s)) (posts : ∀ s, P s → s.link.carries (step f s).link r) (l : List Feeder)
    (listed : f ∈ l) (s : State) (start : P s) : s.link.carries (l.foldl (fun s h => step h s) s).link r := by
  induction l generalizing s with
  | nil => cases listed
  | cons h l ih =>
    rw [List.foldl_cons]
    by_cases same : h = f
    · subst same
      have rest : Grows (step h s) (l.foldl (fun s h => step h s) (step h s)) :=
        foldl_rel (step := fun s h => step h s) Grows.refl Grows.trans grows l _
      exact Link.Grows.carries_before rest (posts s start) (grows h s)
    · have later := (List.mem_cons.mp listed).resolve_left (Ne.symm same)
      exact (grows h s).carries_after (ih later (step h s) (apart h s same start))

theorem forFeeders_carries {P : State → Prop} {r : Report} (grows : ∀ h s, Grows s (step h s))
    (apart : ∀ h s, h ≠ f → P s → P (step h s)) (posts : ∀ s, P s → s.link.carries (step f s).link r) (s : State)
    (start : P s) : s.link.carries (forFeeders step s).link r :=
  foldl_carries grows apart posts Feeder.list (Feeder.mem_list f) s start

end

end Sys2Proof.Machine
end

section
/-! SUPPORT. Requests that post reports before their reply (sections 1.1, 5.5, 5.6, 10.4): the reply and the reports are
both carried. -/

namespace Sys2Proof.Machine

open Sys2Proof
open State (Grows)

theorem Six.set_set {α : Type} (v : Six α) (f : Feeder) (a b : α) : (v.set f a).set f b = v.set f b := by cases f <;> rfl

/-! ## A request that posts -/

theorem State.Grows.of_post {s t : State} {r : Report} (h : t.link = s.link.post r) : Grows s t := by
  unfold State.Grows
  rw [h]
  exact s.link.post_grows r

theorem State.queueReply_grows (s : State) (r : Reply) : Grows s (s.queueReply r) :=
  Link.Grows.trans (m := { s.link with replies := s.link.replies ++ [r], choiceOpen := false }) (Link.Grows.refl s.link)
    (Link.choose_grows _)

/-- A report posted in the service of a request is carried after its reply. -/
theorem State.carries_reply {s t : State} {r : Report} (grows : Grows s.openChoice t)
    (posted : s.openChoice.link.carries t.link r) (reply : Reply) : s.link.carries (t.queueReply reply).link r :=
  Link.Grows.carries_before (l := s.openChoice.link) (t.queueReply_grows reply) posted grows

/-- A rule that posts still leaves its reply behind those that waited. -/
theorem State.answered_of_posted {s t : State} (posted : Link.Posted s.openChoice.link t.link) (r : Reply) :
    Link.answered s.link (t.queueReply r).link r := by
  obtain ⟨waiting, asm, service, mask⟩ := t.queueReply_answered r
  exact ⟨by rw [waiting, posted.waiting]; rfl, asm.trans posted.asm, service.trans posted.service, mask.trans posted.mask⟩

/-- The run of a request whose rule answers. -/
theorem exec_of_answer {s t : State} {c : Instr} {k tag : Byte} {rule : State → State × Option Answer} {st : Status}
    {body : List Byte} (takes : s.takesRequests) (row : exec c s = .next (s.serve k tag rule))
    (e : rule s.openChoice = (t, some ⟨st, body⟩)) : exec c s = .next (t.queueReply ⟨k, tag, st, body⟩) := by
  rw [row, State.serve_of_answer takes e]

/-! ## Fault Clear (R110) -/

/-- R95, R104, R110: the sequencer of a feeder that enters STANDBY or HELD by its hold count. -/
def Sequencer.readied (q : Sequencer) (holds : Nat) : Sequencer :=
  { q with state := if holds = 0 then .standby else .held, phase := none, timer := none }

/-- R113: the report of a feeder that enters STANDBY or HELD. -/
def readyReport (f : Feeder) (q : Sequencer) (holds : Nat) : Report :=
  if holds = 0 then .feederState f .standby none q.mode none else .feederState f .held none q.mode (some .held)

theorem State.postFeederState_setSeq (s : State) (f : Feeder) (q : Sequencer) (c : Option Cause) :
    (s.setSeq f q).postFeederState f c = (s.setSeq f q).post (.feederState f q.state q.phase q.mode c) := by
  simp [State.postFeederState]

theorem State.enterReady_eq (s : State) (f : Feeder) : s.enterReady f =
    (s.setSeq f ((s.seq.get f).readied (s.holds.get f))).post (readyReport f (s.seq.get f) (s.holds.get f)) := by
  unfold State.enterReady State.readyState readyReport Sequencer.readied
  rw [State.postFeederState_setSeq]
  split <;> rfl

theorem State.clearFault_eq (s : State) (f : Feeder) : s.clearFault f =
    (s.setSeq f { (s.seq.get f).readied (s.holds.get f) with faultCause := none, followOn := none }).post
      (readyReport f (s.seq.get f) (s.holds.get f)) := by
  unfold State.clearFault
  rw [State.enterReady_eq]
  simp only [State.setSeq, Six.set_set, Six.get_set_self]
  rfl

theorem State.clearable_iff (s : State) (f : Feeder) : s.clearable f = true ↔ (s.port.get f).state = .up ∧
    ∃ st, (s.port.get f).status = some st ∧ st.module = .idle ∧ st.fault = .none ∧ st.bypass = .closed := by
  unfold State.clearable
  cases (s.port.get f).status <;> simp [and_assoc]

/-- Settles O55. -/
theorem faultClearReturnsTheFeeder : Obligations.FaultClearReturnsTheFeeder := by
  intro s tag b takes refused
  refine ⟨fun none => ?_, fun f named => ?_⟩
  · refine State.refused_request (rule := answerFaultClear b) takes rfl fun s => ?_
    simp only [answerFaultClear, none]
  · intro q clear
    have rule (s : State) : answerFaultClear b s = if (s.seq.get f).state = .faulted then
        (if s.clearable f then (s.clearFault f, some (.ok [b, byteOf (s.readyState f).code])) else s.refuseWith .refused)
        else s.answer (.ok [b, byteOf (s.seq.get f).state.code]) := by simp only [answerFaultClear, named]
    refine ⟨fun other => ?_, fun faulted kept => ?_, fun faulted cleared => ?_⟩
    · have e : answerFaultClear b s.openChoice = (s.openChoice, some (.ok [b, byteOf q.state.code])) :=
        (rule _).trans (if_neg other)
      exact State.write_request takes rfl e rfl rfl
    · have e : answerFaultClear b s.openChoice = s.openChoice.refuseWith .refused := by
        refine (rule _).trans ((if_pos faulted).trans (if_neg ?_))
        exact fun can => kept ((s.openChoice.clearable_iff f).mp can)
      exact State.write_request takes rfl e rfl rfl
    · have code : byteOf (s.readyState f).code = if s.holds.get f = 0 then 1 else 2 := by
        unfold State.readyState
        split <;> rfl
      have e : answerFaultClear b s.openChoice =
          (s.openChoice.clearFault f, some (.ok [b, if s.holds.get f = 0 then 1 else 2])) := by
        refine (rule _).trans ((if_pos faulted).trans ((if_pos ((s.openChoice.clearable_iff f).mpr cleared)).trans ?_))
        rw [← code]
        rfl
      have posted : (s.openChoice.clearFault f).link = s.openChoice.link.post (readyReport f q (s.holds.get f)) := by
        rw [State.clearFault_eq]
        rfl
      refine ⟨_, exec_of_answer takes rfl e, ?_, State.answered_of_posted ?_ _, State.carries_reply ?_ ?_ _⟩
      · rw [State.queueReply_butLink, State.clearFault_eq]
        rfl
      · exact posted ▸ Link.post_posted _ _
      · exact Grows.of_post posted
      · exact posted ▸ Link.carries_post _ _

/-! ## LINE_FREQ (R3) -/

theorem State.writeLineFreq_of_same {s : State} {v : Nat} (h : LineFreq.ofCode? v = some s.globals.lineFreq) :
    s.writeLineFreq v = s := if_pos h

/-- The state once LINE_FREQ has changed, before its report. -/
def State.freqChanged (s : State) (q : LineFreq) : State :=
  { s with globals := { s.globals with lineFreq := q }, written := some s.stored,
           tracker := { s.tracker with state := .seeking, miss := 0, remembered := false } }

theorem State.writeLineFreq_of_other {s : State} {v : Nat} {q : LineFreq} (h : LineFreq.ofCode? v = some q)
    (other : q ≠ s.globals.lineFreq) : s.writeLineFreq v =
      if s.tracker.state = .seeking then s.freqChanged q else (s.freqChanged q).post (.tracker .seeking .freqChange) := by
  have stored : s.storeSetting .lineFreq .f1 v =
      { s with globals := { s.globals with lineFreq := q }, written := some s.stored } := by
    rw [State.storeSetting_of_global rfl]
    simp only [Globals.store, h]
    rfl
  unfold State.writeLineFreq
  rw [if_neg (by simpa [h] using other), stored]
  rfl

/-- Settles O48. -/
theorem lineFreqWriteReturnsTrackerToSeeking : Obligations.LineFreqWriteReturnsTrackerToSeeking := by
  intro s tag b v takes refused
  have rule (s : State) : answerSettingWrite 0x01 b v.toNat s =
      if SettingId.lineFreq.valueInSet v.toNat then
        (if s.eventOpen then s.refuseWith .notNow
          else (s.writeLineFreq v.toNat, some (.ok ([0x01, 0xFF] ++ half v.toNat))))
      else s.refuseWith .value :=
    answerSettingWrite_of_setting (id := .lineFreq) rfl v.toNat s
  have inSet (q : LineFreq) (h : v.toNat = q.code) : SettingId.lineFreq.valueInSet v.toNat = true := by
    change (LineFreq.ofCode? v.toNat).isSome = true
    rw [LineFreq.ofCode?_eq_some.mpr h]
    rfl
  refine ⟨fun not50 not60 => ?_, fun known opened => ?_, fun q code closed => ?_⟩
  · refine State.refused_request (rule := answerSettingWrite 0x01 b v.toNat) takes rfl fun s => (rule s).trans (if_neg ?_)
    intro valid
    obtain ⟨q, e⟩ := Option.isSome_iff_exists.mp valid
    have code := LineFreq.ofCode?_eq_some.mp e
    cases q
    · exact not50 code
    · exact not60 code
  · have valid : SettingId.lineFreq.valueInSet v.toNat = true := known.elim (inSet .hz50) (inSet .hz60)
    have e : answerSettingWrite 0x01 b v.toNat s.openChoice = s.openChoice.refuseWith .notNow :=
      (rule _).trans ((if_pos valid).trans (if_pos opened))
    exact State.write_request takes rfl e rfl rfl
  · have named := LineFreq.ofCode?_eq_some.mpr code
    have closed' : ¬ s.openChoice.eventOpen = true := Bool.eq_false_iff.mp closed
    have e : answerSettingWrite 0x01 b v.toNat s.openChoice =
        (s.openChoice.writeLineFreq v.toNat, some (.ok ([0x01, 0xFF] ++ half v.toNat))) :=
      (rule _).trans ((if_pos (inSet q code)).trans (if_neg closed'))
    by_cases same : q = s.globals.lineFreq
    · rw [State.writeLineFreq_of_same (s := s.openChoice) (same ▸ named)] at e
      exact ⟨_, exec_of_answer takes rfl e, (s.openChoice_onlyAnswered _).1, fun _ => rfl, fun other => absurd same other⟩
    · have written := State.writeLineFreq_of_other (s := s.openChoice) named same
      refine ⟨_, exec_of_answer takes rfl e, State.answered_of_posted ?_ _, fun h => absurd h same, fun _ => ⟨?_, fun locked => ?_⟩⟩
      · rw [written]
        split
        · exact Link.Posted.refl _
        · exact Link.post_posted _ _
      · rw [State.queueReply_butLink, written]
        split <;> rfl
      · rw [if_neg (by exact locked)] at written
        refine State.carries_reply ?_ ?_ _
        · exact Grows.of_post (congrArg State.link written)
        · exact written ▸ Link.carries_post _ _

end Sys2Proof.Machine
end

section
/-! SUPPORT. Feeders brought up and taken out of service (R95, R111, R123, R127), with SETTING_WRITE_ENABLED and
COMPENSATION_ENABLE. -/

namespace Sys2Proof.Machine

open Sys2Proof
open State (Grows)

/-! ## A port that enters WAITING or goes DOWN -/

/-- R123: a port as it enters WAITING. -/
def waitingPort : Port := ⟨.waiting, 0, 0, none, some idleRecord, true, false⟩

/-- R94, R123: the generator of a port that enters WAITING. -/
def Generator.idled (g : Generator) : Generator := { g with refs := Tri.all 0, tag := .other, clamped := false }

/-- R127: a port as it goes DOWN. -/
def Port.down (p : Port) : Port :=
  { p with state := .quiet, run := 0, miss := 0, status := none, fresh := false, skipSlot := false }

theorem State.postPort_setPort (s : State) (f : Feeder) (p : Port) (c : PortCause) :
    (s.setPort f p).postPort f c = (s.setPort f p).post (.port f p.state c p.status) := by
  simp [State.postPort]

theorem State.enterWaiting_eq (s : State) (f : Feeder) : s.enterWaiting f =
    ((s.setPort f waitingPort).setGen f (s.gen.get f).idled).post (.port f .waiting .waiting none) := by
  simp only [State.enterWaiting, State.postPort, State.setGen_port, State.setPort_port, Six.get_set_self]
  rfl

/-- R95, R123: what entry to RUNNING makes of one enabled feeder. -/
def State.broughtUp (s : State) (f : Feeder) : State :=
  ((s.setSeq f ((s.seq.get f).readied (s.holds.get f))).setPort f waitingPort).setGen f (s.gen.get f).idled

/-- The link of a feeder brought up: its state and its port's state reported. -/
def State.upLink (s : State) (f : Feeder) : Link :=
  (s.link.post (readyReport f (s.seq.get f) (s.holds.get f))).post (.port f .waiting .waiting none)

theorem State.bringUp_of_enabled {s : State} {f : Feeder} (h : (s.feeders.get f).enabled = true) :
    s.bringUp f = { s.broughtUp f with link := s.upLink f } := by
  rw [State.bringUp, if_pos h, State.enterReady_eq, State.enterWaiting_eq]
  rfl

theorem State.bringUp_of_disabled {s : State} {f : Feeder} (h : (s.feeders.get f).enabled = false) :
    s.bringUp f = s := by
  rw [State.bringUp, if_neg (by simp [h])]

theorem State.bringUp_grows (s : State) (f : Feeder) : Grows s (s.bringUp f) := by
  cases h : (s.feeders.get f).enabled with
  | false => exact Grows.of_eq (congrArg State.link (State.bringUp_of_disabled h))
  | true =>
    rw [State.bringUp_of_enabled h]
    exact (s.link.post_grows _).trans (Link.post_grows _ _)

theorem State.bringUp_posted (s : State) (f : Feeder) : Link.Posted s.link (s.bringUp f).link := by
  cases h : (s.feeders.get f).enabled with
  | false =>
    rw [State.bringUp_of_disabled h]
    exact Link.Posted.refl _
  | true =>
    rw [State.bringUp_of_enabled h]
    exact (s.link.post_posted _).trans (Link.post_posted _ _)

theorem State.bringUp_carries {s : State} {f : Feeder} (h : (s.feeders.get f).enabled = true) :
    s.link.carries (s.bringUp f).link (.port f .waiting .waiting none) := by
  rw [State.bringUp_of_enabled h]
  exact (s.link.post_grows _).carries_after (Link.carries_post _ _)

/-! ## ENABLED (R111) -/

/-- The state once ENABLED has been stored, before what follows of it. -/
def State.enabledSet (s : State) (f : Feeder) (yes : Bool) : State :=
  { s with feeders := s.feeders.set f { s.feeders.get f with enabled := yes }, written := some s.stored }

theorem State.storeSetting_enabled (s : State) (f : Feeder) (yes : Bool) :
    s.storeSetting .enabled f (if yes then 1 else 0) = s.enabledSet f yes := by
  rw [State.storeSetting_of_feeder rfl rfl]
  cases yes <;> rfl

theorem State.writeEnabled_yes (s : State) (f : Feeder) : s.writeEnabled f true =
    if (s.seq.get f).state = .offline ∧ s.loader.op = .running then (s.enabledSet f true).bringUp f
    else s.enabledSet f true := by
  have stored := s.storeSetting_enabled f true
  simp only [if_true] at stored
  simp only [State.writeEnabled, if_true, stored]

theorem State.writeEnabled_up {s : State} {f : Feeder} (h : (s.seq.get f).state = .offline ∧ s.loader.op = .running) :
    s.writeEnabled f true = (s.enabledSet f true).bringUp f := (s.writeEnabled_yes f).trans (if_pos h)

theorem State.writeEnabled_set {s : State} {f : Feeder} (h : ¬ ((s.seq.get f).state = .offline ∧ s.loader.op = .running)) :
    s.writeEnabled f true = s.enabledSet f true := (s.writeEnabled_yes f).trans (if_neg h)

theorem State.writeEnabled_no (s : State) (f : Feeder) :
    s.writeEnabled f false = (s.enabledSet f false).disable f := by
  have stored := s.storeSetting_enabled f false
  simp only [Bool.false_eq_true, if_false] at stored
  simp [State.writeEnabled, stored]

/-- R111: a feeder as it goes OFFLINE. -/
def Sequencer.disabled (q : Sequencer) : Sequencer :=
  { q with state := .offline, phase := none, timer := none, faultCause := none, followOn := none }

theorem State.disable_of_offline {s : State} {f : Feeder} (h : (s.seq.get f).state = .offline) : s.disable f = s := if_pos h

/-- R111, R113: a feeder gone OFFLINE and its report posted, its port not yet DOWN. -/
def State.gone (s : State) (f : Feeder) : State :=
  (s.setSeq f (s.seq.get f).disabled).post (.feederState f .offline none (s.seq.get f).mode none)

theorem State.disable_of_running {s : State} {f : Feeder} (h : (s.seq.get f).state ≠ .offline) :
    s.disable f = (s.gone f).takeDown f := by
  unfold State.disable
  rw [if_neg h, State.postFeederState_setSeq]
  rfl

theorem State.takeDown_of_quiet {s : State} {f : Feeder} (h : (s.port.get f).state = .quiet) : s.takeDown f = s := if_pos h

theorem State.takeDown_of_sending {s : State} {f : Feeder} (h : (s.port.get f).state ≠ .quiet) : s.takeDown f =
    if (s.port.get f).derate then
      ((s.setPort f (s.port.get f).down).post (.port f .quiet .down none)).post (.port f .quiet .derateClear none)
    else (s.setPort f (s.port.get f).down).post (.port f .quiet .down none) := by
  have again (u : State) (p : Port) (r : Report) (c : PortCause) : ((u.setPort f p).post r).postPort f c =
      ((u.setPort f p).post r).post (.port f p.state c p.status) := by simp [State.postPort]
  unfold State.takeDown
  simp only [if_neg h, State.postPort_setPort, again]
  rfl

/-- What R127 leaves, whatever the port was: the blocks but ports and link, and a QUIET port. -/
theorem State.takeDown_keeps (s : State) (f : Feeder) : (s.takeDown f).feeders = s.feeders ∧
    (s.takeDown f).holds = s.holds ∧ (s.takeDown f).seq = s.seq ∧
    (∀ h, h ≠ f → (s.takeDown f).port.get h = s.port.get h) ∧ ((s.takeDown f).port.get f).state = .quiet := by
  by_cases quiet : (s.port.get f).state = .quiet
  · rw [State.takeDown_of_quiet quiet]
    exact ⟨rfl, rfl, rfl, fun _ _ => rfl, quiet⟩
  · rw [State.takeDown_of_sending quiet]
    split <;> exact ⟨rfl, rfl, rfl, fun h other => by simp [other], by simp [Port.down]⟩

theorem State.takeDown_grows (s : State) (f : Feeder) : Grows s (s.takeDown f) := by
  by_cases quiet : (s.port.get f).state = .quiet
  · rw [State.takeDown_of_quiet quiet]
    exact Grows.refl s
  · rw [State.takeDown_of_sending quiet]
    exact Grows.ite ((s.link.post_grows _).trans (Link.post_grows _ _)) (s.link.post_grows _)

theorem State.takeDown_posted (s : State) (f : Feeder) : Link.Posted s.link (s.takeDown f).link := by
  by_cases quiet : (s.port.get f).state = .quiet
  · rw [State.takeDown_of_quiet quiet]
    exact Link.Posted.refl _
  · rw [State.takeDown_of_sending quiet]
    split
    · exact (s.link.post_posted _).trans (Link.post_posted _ _)
    · exact s.link.post_posted _

theorem State.takeDown_carries {s : State} {f : Feeder} (sending : (s.port.get f).state ≠ .quiet) :
    s.link.carries (s.takeDown f).link (.port f .quiet .down none) ∧
      ((s.port.get f).derate = true → s.link.carries (s.takeDown f).link (.port f .quiet .derateClear none)) := by
  rw [State.takeDown_of_sending sending]
  refine ⟨?_, fun derate => ?_⟩
  · split
    · exact (Link.post_grows _ _).carries_before (s.link.carries_post _) (s.link.post_grows _)
    · exact s.link.carries_post _
  · rw [if_pos derate]
    exact (s.link.post_grows _).carries_after (Link.carries_post _ _)

theorem State.enabledRefused_iff (s : State) (f : Feeder) : s.enabledRefused f = true ↔
    (s.seq.get f).state = .arming ∨ (s.seq.get f).state = .injecting ∨ (s.seq.get f).state = .releasing := by
  simp [State.enabledRefused, or_assoc]

/-- R111, R172: the rule of SETTING_WRITE_ENABLED for a feeder and a truth value. -/
theorem answerSettingWrite_enabled {b : Byte} {f : Feeder} (named : Feeder.ofNumber? b.toNat = some f) (yes : Bool)
    (s : State) : answerSettingWrite 0x20 b (if yes then 1 else 0) s =
      if s.eventOpen ∨ s.enabledRefused f then s.refuseWith .notNow
      else (s.writeEnabled f yes, some (.ok ([0x20, b] ++ half (if yes then 1 else 0)))) := by
  rw [answerSettingWrite_of_setting (id := .enabled) rfl, settingFeeder_of_perFeeder rfl, named]
  cases yes <;> simp only [State.applySetting] <;> cases s.eventOpen <;> cases s.enabledRefused f <;> rfl

/-- Settles O49. -/
theorem enabledWriteBringsUpOrTakesDown : Obligations.EnabledWriteBringsUpOrTakesDown := by
  intro s tag b f takes named q answer set
  have value (yes : Bool) : (if yes then (1 : Half) else 0).toNat = if yes then 1 else 0 := by cases yes <;> rfl
  have row (yes : Bool) : exec (.settingWriteEnabled tag b (if yes then 1 else 0)) s =
      .next (s.serve 0x07 tag (answerSettingWrite 0x20 b (if yes then 1 else 0))) := by
    rw [← value yes]
    rfl
  have rule (yes : Bool) := answerSettingWrite_enabled named yes s.openChoice
  refine ⟨fun yes active => ?_, fun closed => ?_⟩
  · have e : answerSettingWrite 0x20 b (if yes then 1 else 0) s.openChoice = s.openChoice.refuseWith .notNow := by
      refine (rule yes).trans (if_pos ?_)
      rw [State.enabledRefused_iff]
      tauto
    exact State.write_request takes (row yes) e rfl rfl
  have served (yes : Bool) (free : ¬ (q.state = .arming ∨ q.state = .injecting ∨ q.state = .releasing)) :
      answerSettingWrite 0x20 b (if yes then 1 else 0) s.openChoice =
        (s.openChoice.writeEnabled f yes, some (.ok ([0x20, b] ++ half (if yes then 1 else 0)))) := by
    refine (rule yes).trans (if_neg ?_)
    rw [State.enabledRefused_iff, not_or]
    exact ⟨Bool.eq_false_iff.mp closed, free⟩
  refine ⟨fun offline running => ?_, fun kept => ?_, fun idle => ?_, fun offline => ?_⟩
  · have e := served true (by simp [offline])
    rw [State.writeEnabled_up (by exact ⟨offline, running⟩)] at e
    have enabled : ((s.openChoice.enabledSet f true).feeders.get f).enabled = true := by simp [State.enabledSet]
    have up := State.bringUp_of_enabled enabled
    refine ⟨_, exec_of_answer takes (row true) e, State.answered_of_posted ?_ _, ?_⟩
    · exact State.bringUp_posted (s.openChoice.enabledSet f true) f
    · refine ⟨?_, ?_, ?_, fun h other => ?_, ?_, ?_, ?_, ?_, State.carries_reply ?_ ?_ _⟩
      · rw [up]; rfl
      · rw [up]; rfl
      · rw [up]; rfl
      · rw [up]
        exact Six.get_set_ne _ _ other
      · rw [up]
        exact congrArg Port.state (Six.get_set_self _ _ _)
      · rw [up]
        exact congrArg Port.run (Six.get_set_self _ _ _)
      · rw [up]
        exact congrArg Port.miss (Six.get_set_self _ _ _)
      · rw [up]
        exact congrArg Port.status (Six.get_set_self _ _ _)
      · exact State.bringUp_grows (s.openChoice.enabledSet f true) f
      · exact State.bringUp_carries enabled
  · have e := served true (by rintro (h | h | h) <;> simp [q, h] at kept)
    rw [State.writeEnabled_set] at e
    · exact State.write_request (v := set true) takes (row true) e rfl rfl
    · rintro ⟨offline, running⟩
      change q.state = .offline at offline
      change s.loader.op = .running at running
      simp [offline, running] at kept
  · have e := served false (by rintro (h | h | h) <;> simp [q, h] at idle)
    have running : ((s.openChoice.enabledSet f false).seq.get f).state ≠ .offline := by
      intro h
      change q.state = .offline at h
      simp [h] at idle
    rw [State.writeEnabled_no, State.disable_of_running running] at e
    obtain ⟨feeders, holds, seq, others, quiet⟩ := ((s.openChoice.enabledSet f false).gone f).takeDown_keeps f
    have first : Grows s.openChoice ((s.openChoice.enabledSet f false).gone f) := Grows.of_post rfl
    have all := first.trans (State.takeDown_grows _ f)
    refine ⟨_, exec_of_answer takes (row false) e, State.answered_of_posted ?_ _, feeders, holds, seq, others, quiet,
      State.carries_reply all ?_ _, fun sending => ?_⟩
    · exact Link.Posted.trans (m := ((s.openChoice.enabledSet f false).gone f).link) (Link.post_posted _ _)
        (State.takeDown_posted _ f)
    · exact Link.Grows.carries_before (State.takeDown_grows _ f) (Link.carries_post _ _) first
    · obtain ⟨down, derate⟩ := State.takeDown_carries
        (s := (s.openChoice.enabledSet f false).gone f) sending
      exact ⟨State.carries_reply all (first.carries_after down) _, fun h =>
        State.carries_reply all (first.carries_after (derate h)) _⟩
  · have e := served false (by simp [offline])
    rw [State.writeEnabled_no, State.disable_of_offline (by exact offline)] at e
    exact State.write_request (v := set false) takes (row false) e rfl rfl

/-! ## COMPENSATION_ENABLE (R95, R185) -/

/-- What entry to RUNNING reads and changes of one feeder. -/
def State.upView (s : State) (f : Feeder) : Sequencer × Port × Generator × Bool × Nat :=
  (s.seq.get f, s.port.get f, s.gen.get f, (s.feeders.get f).enabled, s.holds.get f)

/-- R95, R123: one feeder at entry to RUNNING. -/
def upFeeder : Sequencer × Port × Generator × Bool × Nat → Sequencer × Port × Generator × Bool × Nat
  | (q, p, g, enabled, holds) =>
    if enabled then (q.readied holds, waitingPort, g.idled, enabled, holds) else (q, p, g, enabled, holds)

theorem State.bringUp_view_self (s : State) (f : Feeder) : (s.bringUp f).upView f = upFeeder (s.upView f) := by
  cases h : (s.feeders.get f).enabled with
  | false => simp [State.bringUp_of_disabled h, State.upView, upFeeder, h]
  | true => simp [State.bringUp_of_enabled h, State.broughtUp, State.upView, upFeeder, h]

theorem State.bringUp_view_other (s : State) {f h : Feeder} (other : h ≠ f) : (s.bringUp h).upView f = s.upView f := by
  cases e : (s.feeders.get h).enabled with
  | false => rw [State.bringUp_of_disabled e]
  | true => simp [State.bringUp_of_enabled e, State.broughtUp, State.upView, other.symm]

/-- A state with what entry to RUNNING changes set aside. -/
def State.butUp (s : State) : State :=
  State.butLink { s with seq := Six.all Sequencer.reset, port := Six.all waitingPort, gen := State.reset.gen }

theorem State.bringUp_butUp (s : State) (f : Feeder) : (s.bringUp f).butUp = s.butUp := by
  cases h : (s.feeders.get f).enabled with
  | false => rw [State.bringUp_of_disabled h]
  | true =>
    rw [State.bringUp_of_enabled h]
    rfl

theorem State.enterRunning_butUp (s : State) :
    s.enterRunning.butUp = State.butUp { s with loader := { s.loader with op := .running } } := by
  unfold State.enterRunning forFeeders
  generalize ({ s with loader := { s.loader with op := .running } } : State) = t
  exact foldl_keeps (P := fun u => u.butUp = t.butUp) (fun f u h => (u.bringUp_butUp f).trans h) Feeder.list t rfl

theorem State.enterRunning_view (s : State) (f : Feeder) : s.enterRunning.upView f = upFeeder (s.upView f) :=
  forFeeders_view (view := fun s => s.upView f) upFeeder (fun _ s other => s.bringUp_view_other other)
    (fun s => s.bringUp_view_self f) { s with loader := { s.loader with op := .running } }

theorem State.enterRunning_posted (s : State) : Link.Posted s.link s.enterRunning.link :=
  foldl_rel (R := fun s t => Link.Posted s.link t.link) (step := fun s f => s.bringUp f) (fun _ => Link.Posted.refl _)
    Link.Posted.trans (fun f s => s.bringUp_posted f) Feeder.list { s with loader := { s.loader with op := .running } }

theorem State.enterRunning_grows (s : State) : Grows s s.enterRunning :=
  foldl_rel (step := fun s f => s.bringUp f) Grows.refl Grows.trans (fun f s => s.bringUp_grows f) Feeder.list
    { s with loader := { s.loader with op := .running } }

theorem State.bringUp_feeders (s : State) (f : Feeder) : (s.bringUp f).feeders = s.feeders :=
  (congrArg State.feeders (s.bringUp_butUp f) :)

theorem State.enterRunning_carries {s : State} {f : Feeder} (h : (s.feeders.get f).enabled = true) :
    s.link.carries s.enterRunning.link (.port f .waiting .waiting none) :=
  forFeeders_carries (P := fun t => (t.feeders.get f).enabled = true) (fun h s => s.bringUp_grows h)
    (fun h s _ enabled => by rwa [State.bringUp_feeders]) (fun _ enabled => State.bringUp_carries enabled)
    { s with loader := { s.loader with op := .running } } h

/-- Settles O56. -/
theorem compensationEnableEntersRunning : Obligations.CompensationEnableEntersRunning := by
  refine fun s tag takes => ⟨fun running => ?_, fun configuring => ?_⟩
  · have e : answerCompensationEnable s.openChoice = (s.openChoice, some (.ok [2])) := by
      simp only [answerCompensationEnable, State.openChoice_loader, running]
      rfl
    exact State.write_request takes rfl e rfl rfl
  · have e : answerCompensationEnable s.openChoice = (s.openChoice.enterRunning, some (.ok [2])) :=
      if_pos (by exact configuring)
    have rest := s.openChoice.enterRunning_butUp
    refine ⟨_, exec_of_answer takes rfl e, (congrArg State.loader rest :), State.answered_of_posted ?_ _, ?_, fun f => ?_⟩
    · exact s.openChoice.enterRunning_posted
    · exact (congrArg (fun t : State => State.butLink { t with
        loader := s.loader, seq := s.seq, port := s.port, gen := s.gen }) rest :)
    · have view := s.openChoice.enterRunning_view f
      refine ⟨fun disabled => ?_, fun enabled => ?_⟩
      · have idle : upFeeder (s.upView f) = s.upView f := by simp [upFeeder, State.upView, disabled]
        have same := view.trans idle
        exact ⟨congrArg (·.1) same, congrArg (·.2.1) same, congrArg (·.2.2.1) same⟩
      · have up : upFeeder (s.upView f) =
            ((s.seq.get f).readied (s.holds.get f), waitingPort, (s.gen.get f).idled, true, s.holds.get f) := by
          simp [upFeeder, State.upView, enabled]
        have same := view.trans up
        exact ⟨congrArg (·.1) same, congrArg (·.2.1) same,
          State.carries_reply s.openChoice.enterRunning_grows (State.enterRunning_carries enabled) _⟩

end Sys2Proof.Machine
end

section
/-! SUPPORT. A release and an entry into FAULTED, said whole (R101, R102, R105, R107 to R109), and what the group table and
the GROUP_ABANDON requests that follow a departure leave of the sequencers (R138 to R141). -/

namespace Sys2Proof.Machine

open Sys2Proof
open State (SeqOnly Course Grows)

/-! ## The open record -/

/-- One listed feeder's entry in the open record changed. -/
def Detector.mapEntry (d : Detector) (f : Feeder) (change : Entry → Entry) : Detector :=
  { d with record := d.record.map fun r =>
      { r with entries := r.entries.map fun e => if e.feeder = f then change e else e } }

theorem State.updateEntry_eq (s : State) (f : Feeder) (c : Entry → Entry) :
    s.updateEntry f c = { s with detector := s.detector.mapEntry f c } := by
  unfold State.updateEntry Detector.mapEntry
  split
  · next e => simp [e]
  · next e =>
    rw [e, Option.map_none, ← e]

/-- The change of an entry that a departure with a cause makes. -/
theorem Entry.withRelease_eq (e : Entry) (c : Cause) :
    e.withRelease c = if e.release = none then { e with release := some c } else e := by
  unfold Entry.withRelease
  split <;> simp [*]

/-- R42: the open record once a feeder's cause of leaving engagement has reached it. -/
theorem Detector.mapEntry_release {d : Detector} {f : Feeder} {c : Cause} {r : Record} (h : d.record = some r) :
    (d.mapEntry f fun e => e.withRelease c).record = some { r with
      entries := r.entries.map fun e =>
        if e.feeder = f ∧ e.release = none then { e with release := some c } else e } := by
  unfold Detector.mapEntry
  simp only [h, Option.map_some, Entry.withRelease_eq, ite_and]

theorem Detector.mapEntry_number (d : Detector) (f : Feeder) (c : Entry → Entry) :
    (d.mapEntry f c).record.map (·.number) = d.record.map (·.number) := by
  simp [Detector.mapEntry, Option.map_map, Function.comp_def]

/-! ## Releases and faults of one feeder -/

/-- R101, R102: a sequencer released with a cause. -/
def Sequencer.released (q : Sequencer) (g : Globals) (c : Cause) (opened : Bool) : Sequencer :=
  { q with
    state := .releasing, phase := some .closing, releaseCause := some c,
    timer := g.startTimer .bypass, barred := q.barred || opened }

/-- R107 to R109, R102: a sequencer that enters FAULTED with a cause, in a phase. -/
def Sequencer.faulted (q : Sequencer) (g : Globals) (c : Cause) (ph : SeqPhase) (timer : Option TimerKind) (opened : Bool) :
    Sequencer :=
  { q with
    state := .faulted, phase := some ph, faultCause := some c,
    timer := timer.bind g.startTimer, barred := q.barred || (q.state.engaged && opened) }

theorem State.releaseAlone_of_idle {s : State} {f : Feeder} (h : s.participant f = false) (c : Cause) :
    s.releaseAlone f c = s := if_neg (by rw [← State.participant, h]; decide)

theorem State.releaseAlone_eq {s : State} {f : Feeder} (h : s.participant f = true) (c : Cause) :
    s.releaseAlone f c = { s with
      seq := s.seq.set f ((s.seq.get f).released s.globals c s.eventOpen)
      detector := s.detector.mapEntry f fun e => e.withRelease c
      link := s.link.post (.feederState f .releasing (some .closing) (s.seq.get f).mode (some c)) } := by
  refine (if_pos h).trans ?_
  simp only [State.noteRelease, State.updateEntry_eq, State.postFeederState, State.setSeq, Six.get_set_self]
  rfl

/-- R113, R114: the two reports of an entry into FAULTED, in the model's order (notes/assumptions/13.md). -/
def State.faultReports (s : State) (f : Feeder) (c : Cause) (ph : SeqPhase) : List Report :=
  [.feederState f .faulted (some ph) (s.seq.get f).mode (some c),
    .feederFault f c false (some (s.seq.get f).state) (s.port.get f).status s.openNumber]

theorem State.faultAlone_eq (s : State) (f : Feeder) (c : Cause) (ph : SeqPhase) (k : Option TimerKind) :
    s.faultAlone f c ph k = { s with
      seq := s.seq.set f ((s.seq.get f).faulted s.globals c ph k s.eventOpen)
      detector := if s.participant f then s.detector.mapEntry f fun e => e.withRelease c else s.detector
      link := s.link.posted (s.faultReports f c ph) } := by
  have number : (s.detector.mapEntry f fun e => e.withRelease c).record.map (·.number) = s.openNumber :=
    s.detector.mapEntry_number f _
  unfold State.faultAlone State.participant
  by_cases engaged : (s.seq.get f).state.engaged = true
  · simp only [engaged, if_true, State.noteRelease, State.updateEntry_eq, State.postFeederState, State.postFeederFault,
      State.setSeq, State.post, Six.get_set_self, State.openNumber, number]
    simp only [Sequencer.faulted, engaged]
    rfl
  · rw [Bool.not_eq_true] at engaged
    simp only [engaged, Bool.false_eq_true, if_false, State.postFeederState, State.postFeederFault, State.setSeq, State.post,
      Six.get_set_self]
    simp only [Sequencer.faulted, engaged]
    rfl

/-! ## The group table (R138 to R141) -/

/-- A state with the groups' course and what waits for them set aside. -/
def State.butGroups (s : State) : State :=
  { s with groups := Four.all Group.default, groupRequests := FeederSet.empty, refusals := [] }

theorem State.takeRefusal_butGroups (s : State) (f : Feeder) (a : AbandonCause) :
    (s.takeRefusal f a).butGroups = s.butGroups := by
  unfold State.takeRefusal State.refuse
  dsimp only
  repeat' split
  all_goals rfl

theorem State.takeRefusals_butGroups (s : State) : s.takeRefusals.butGroups = s.butGroups := by
  unfold State.takeRefusals
  exact foldl_keeps (P := fun t => t.butGroups = s.butGroups)
    (fun (r : Feeder × AbandonCause) t h => (t.takeRefusal_butGroups r.1 r.2).trans h) _ _ rfl

theorem State.takeRefusals_seq (s : State) : s.takeRefusals.seq = s.seq :=
  (congrArg State.seq s.takeRefusals_butGroups :)

/-! ## GROUP_ABANDON requests -/

/-- What a waiting request reads and changes of one feeder. -/
def State.abandonView (s : State) (f : Feeder) : Sequencer × Globals × Bool := (s.seq.get f, s.globals, s.eventOpen)

/-- One feeder at the taking of the waiting requests. -/
def abandonOne (asked : Bool) : Sequencer × Globals × Bool → Sequencer × Globals × Bool
  | (q, g, opened) => (if asked && q.state.engaged then q.released g .groupAbandon opened else q, g, opened)

theorem State.releaseAlone_view_other (s : State) {f h : Feeder} (c : Cause) (other : h ≠ f) :
    (s.releaseAlone h c).abandonView f = s.abandonView f := by
  cases e : s.participant h with
  | false => rw [State.releaseAlone_of_idle e]
  | true =>
    rw [State.releaseAlone_eq e]
    simp only [State.abandonView, Six.get_set_ne _ _ other.symm]
    rfl

/-- R140: what the waiting requests make of each feeder. -/
theorem State.takeGroupRequests_view (s : State) (f : Feeder) :
    s.takeGroupRequests.abandonView f = abandonOne (s.groupRequests.get f) (s.abandonView f) := by
  refine forFeeders_view (f := f) (view := fun t => t.abandonView f) _ (fun h t other => ?_) (fun t => ?_)
    { s with groupRequests := FeederSet.empty }
  · split
    · exact t.releaseAlone_view_other _ other
    · rfl
  · cases asked : s.groupRequests.get f with
    | false => rfl
    | true =>
      rw [if_pos rfl]
      cases e : t.participant f with
      | false =>
        have idle : (t.seq.get f).state.engaged = false := e
        rw [State.releaseAlone_of_idle e]
        simp [State.abandonView, abandonOne, idle]
      | true =>
        have engaged : (t.seq.get f).state.engaged = true := e
        rw [State.releaseAlone_eq e]
        simp only [State.abandonView, abandonOne, engaged, Six.get_set_self]
        rfl

theorem State.takeGroupRequests_seq (s : State) (f : Feeder) : s.takeGroupRequests.seq.get f =
    if s.groupRequests.get f && s.participant f then (s.seq.get f).released s.globals .groupAbandon s.eventOpen
    else s.seq.get f :=
  congrArg Prod.fst (s.takeGroupRequests_view f)

/-! ## What follows a departure -/

/-- What follows a departure of this feeder touches no sequencer: it is left for later events, or no group is concerned. -/
def State.spared (s : State) (lv : Leave) (f : Feeder) : Prop :=
  lv.refusal = true ∨ lv.requests = true ∨ s.groupOf f = none ∧ s.refusals = [] ∧ s.groupRequests = FeederSet.empty

theorem State.takeRefusal_of_no_group {s : State} {f : Feeder} (h : s.groupOf f = none) (a : AbandonCause) :
    s.takeRefusal f a = s := by simp [State.takeRefusal, h]

/-- A feeder out of engagement keeps its sequencer in all that follows a departure. -/
theorem State.settleGroups_seq_out (s : State) (lv : Leave) {f : Feeder} (out : s.participant f = false) :
    (s.settleGroups lv).seq.get f = s.seq.get f := by
  unfold State.settleGroups
  split
  · rfl
  · split
    · rw [State.takeRefusals_seq]
    · rw [State.takeGroupRequests_seq, State.participant, State.takeRefusals_seq, ← State.participant, out]
      simp

theorem State.depart_seq_out (s : State) (lv : Leave) (c : Cause) {h f : Feeder} (out : s.participant h = false) :
    (s.depart lv f c).seq.get h = s.seq.get h := by
  unfold State.depart
  split
  · exact State.settleGroups_seq_out { s with refusals := _ } lv out
  · rfl

/-- What follows a departure that is spared moves the group table at most. -/
theorem State.depart_of_spared {s : State} {lv : Leave} {f : Feeder} (h : s.spared lv f) (c : Cause) :
    (s.depart lv f c).butGroups = s.butGroups := by
  unfold State.depart
  split
  · next a _ =>
    unfold State.settleGroups
    split
    · rfl
    · next now =>
      split
      · exact State.takeRefusals_butGroups _
      · next soon =>
        obtain ⟨alone, none, empty⟩ := (h.resolve_left now).resolve_left soon
        have taken : State.takeRefusals { s with refusals := s.refusals ++ [(f, a)] } = { s with refusals := [] } := by
          simp only [State.takeRefusals, none, List.nil_append, List.foldl_cons, List.foldl_nil]
          exact State.takeRefusal_of_no_group (s := { s with refusals := [] }) alone a
        rw [taken, State.takeGroupRequests_of_none (s := { s with refusals := [] }) empty]
        rfl
  · rfl

/-- A departure leaves groups, requests and refusals alone where it is of no member's own account. -/
theorem State.depart_of_group_wide {c : Cause} (h : c.refusal = none) (s : State) (lv : Leave) (f : Feeder) :
    s.depart lv f c = s := by simp [State.depart, h]

/-! ## A release with what follows it (R101, R105) -/

section

variable {s : State} {lv : Leave} {f : Feeder} {c : Cause}

theorem State.release_of_idle (h : s.participant f = false) : s.release lv f c = s := if_neg (by simp [h])

theorem State.release_eq (h : s.participant f = true) : s.release lv f c = (s.releaseAlone f c).depart lv f c := if_pos h

/-- Released, a feeder is out of engagement. -/
theorem State.releaseAlone_out (s : State) (f : Feeder) (c : Cause) : (s.releaseAlone f c).participant f = false := by
  cases h : s.participant f with
  | false => rwa [State.releaseAlone_of_idle h]
  | true =>
    rw [State.releaseAlone_eq h]
    simp only [State.participant, Six.get_set_self]
    rfl

theorem State.release_seq_self (h : s.participant f = true) :
    (s.release lv f c).seq.get f = (s.seq.get f).released s.globals c s.eventOpen := by
  rw [State.release_eq h, State.depart_seq_out _ lv c (s.releaseAlone_out f c), State.releaseAlone_eq h]
  exact Six.get_set_self _ _ _

theorem State.releaseAlone_spared (h : s.participant f = true) (spared : s.spared lv f) :
    (s.releaseAlone f c).spared lv f := by
  rw [State.releaseAlone_eq h]
  exact spared

/-- A release that is spared its consequences: the feeder's sequencer, its entry and its report. -/
theorem State.release_of_spared (h : s.participant f = true) (spared : s.spared lv f) :
    (s.release lv f c).butGroups = (s.releaseAlone f c).butGroups := by
  rw [State.release_eq h]
  exact State.depart_of_spared (State.releaseAlone_spared h spared) c

theorem State.release_carries (h : s.participant f = true) : s.link.carries (s.release lv f c).link
    (.feederState f .releasing (some .closing) (s.seq.get f).mode (some c)) := by
  rw [State.release_eq h]
  have posted : (s.releaseAlone f c).link = s.link.post
      (.feederState f .releasing (some .closing) (s.seq.get f).mode (some c)) := by rw [State.releaseAlone_eq h]
  refine Link.Grows.carries_before (State.depart_course _ lv f c).grows ?_ (Grows.of_post posted)
  exact posted ▸ Link.carries_post _ _

/-! ## An entry into FAULTED with what follows it -/

theorem State.fault_of_idle (h : s.participant f = false) (ph : SeqPhase) (k : Option TimerKind) :
    s.fault lv f c ph k = s.faultAlone f c ph k := if_neg (by simp [h])

theorem State.fault_eq (h : s.participant f = true) (ph : SeqPhase) (k : Option TimerKind) :
    s.fault lv f c ph k = (s.faultAlone f c ph k).depart lv f c := if_pos h

theorem State.faultAlone_out (s : State) (f : Feeder) (c : Cause) (ph : SeqPhase) (k : Option TimerKind) :
    (s.faultAlone f c ph k).participant f = false := by
  rw [State.faultAlone_eq]
  simp only [State.participant, Six.get_set_self]
  rfl

theorem State.fault_seq_self (s : State) (lv : Leave) (f : Feeder) (c : Cause) (ph : SeqPhase) (k : Option TimerKind) :
    (s.fault lv f c ph k).seq.get f = (s.seq.get f).faulted s.globals c ph k s.eventOpen := by
  have alone : (s.faultAlone f c ph k).seq.get f = (s.seq.get f).faulted s.globals c ph k s.eventOpen := by
    rw [State.faultAlone_eq]
    exact Six.get_set_self _ _ _
  cases h : s.participant f with
  | false => rw [State.fault_of_idle h, alone]
  | true => rw [State.fault_eq h, State.depart_seq_out _ lv c (s.faultAlone_out f c ph k), alone]

theorem State.fault_of_spared (spared : s.spared lv f) (ph : SeqPhase) (k : Option TimerKind) :
    (s.fault lv f c ph k).butGroups = (s.faultAlone f c ph k).butGroups := by
  cases h : s.participant f with
  | false => rw [State.fault_of_idle h]
  | true =>
    rw [State.fault_eq h]
    refine State.depart_of_spared ?_ c
    rw [State.faultAlone_eq]
    exact spared

end

/-! ## Events of the sequencers leave the other blocks alone -/

theorem State.SeqOnly.butCourse {s t : State} (h : SeqOnly s t) : t.butCourse = s.butCourse := by
  have groups : (Four.of fun g => { Group.default with
      members := (t.groups.get g).members, level := (t.groups.get g).level, requireAll := (t.groups.get g).requireAll }) =
      Four.of fun g => { Group.default with
        members := (s.groups.get g).members, level := (s.groups.get g).level, requireAll := (s.groups.get g).requireAll } :=
    congrArg Four.of (funext fun g => by
      obtain ⟨members, level, all⟩ := h.groups g
      rw [members, level, all])
  have detector := congrArg (fun d : Detector => { d with record := none }) h.detector
  have rest := congrArg (fun u : State => { u with
    seq := Six.all Sequencer.reset, groupRequests := FeederSet.empty, refusals := [], link := Link.reset,
    groups := s.butCourse.groups, detector := s.butCourse.detector }) h.rest
  refine Eq.trans ?_ rest
  unfold State.butCourse
  simp only [groups]
  exact congrArg (fun d : Detector => { t with
    seq := Six.all Sequencer.reset, groupRequests := FeederSet.empty, refusals := [], link := Link.reset,
    groups := s.butCourse.groups, detector := d }) detector

end Sys2Proof.Machine
end

section
/-! SUPPORT. What a hold operation makes of its feeder's sequencer and of the others (R106, R149, R150). -/

namespace Sys2Proof.Machine

open Sys2Proof
open State (SeqOnly Course Grows)

/-! ## A hold taken (R106) -/

/-- R106: a sequencer whose hold count has become nonzero. -/
def Sequencer.heldBy (q : Sequencer) (g : Globals) (opened : Bool) : Sequencer :=
  match q.state with
  | .standby => { q with state := .held, phase := none, timer := none }
  | .arming | .injecting => q.released g .held opened
  | .offline | .held | .releasing | .faulted => q

/-- R106, R113: what a hold taken reports of its feeder, from STANDBY, ARMING and INJECTING. -/
def heldReport (f : Feeder) (q : Sequencer) : Report :=
  if q.state = .standby then .feederState f .held none q.mode (some .held)
  else .feederState f .releasing (some .closing) q.mode (some .held)

section

variable {s : State} {lv : Leave} {f : Feeder}

theorem State.enterReady_of_held (held : s.holds.get f ≠ 0) : s.enterReady f =
    (s.setSeq f { s.seq.get f with state := .held, phase := none, timer := none }).post
      (.feederState f .held none (s.seq.get f).mode (some .held)) := by
  simp [State.enterReady_eq, Sequencer.readied, readyReport, held]

theorem State.enterReady_of_free (free : s.holds.get f = 0) : s.enterReady f =
    (s.setSeq f { s.seq.get f with state := .standby, phase := none, timer := none }).post
      (.feederState f .standby none (s.seq.get f).mode none) := by
  simp [State.enterReady_eq, Sequencer.readied, readyReport, free]

theorem State.holdTaken_of_standby (standby : (s.seq.get f).state = .standby) : s.holdTaken lv f = s.enterReady f := by
  simp [State.holdTaken, standby]

theorem State.holdTaken_of_engaged (engaged : s.participant f = true) : s.holdTaken lv f = s.release lv f .held := by
  unfold State.participant at engaged
  unfold State.holdTaken
  split <;> simp_all [FeederState.engaged]

theorem State.holdTaken_of_other (standby : (s.seq.get f).state ≠ .standby) (engaged : s.participant f = false) :
    s.holdTaken lv f = s := by
  unfold State.participant at engaged
  unfold State.holdTaken
  split <;> simp_all [FeederState.engaged]

theorem Sequencer.heldBy_of_engaged {q : Sequencer} (h : q.state.engaged = true) (g : Globals) (opened : Bool) :
    q.heldBy g opened = q.released g .held opened := by
  unfold Sequencer.heldBy
  split <;> simp_all [FeederState.engaged]

theorem Sequencer.heldBy_of_other {q : Sequencer} (standby : q.state ≠ .standby) (h : q.state.engaged = false) (g : Globals)
    (opened : Bool) : q.heldBy g opened = q := by
  unfold Sequencer.heldBy
  split <;> simp_all [FeederState.engaged]

theorem State.holdTaken_seq_self (held : s.holds.get f ≠ 0) :
    (s.holdTaken lv f).seq.get f = (s.seq.get f).heldBy s.globals s.eventOpen := by
  by_cases standby : (s.seq.get f).state = .standby
  · rw [State.holdTaken_of_standby standby, State.enterReady_of_held held]
    simp [Sequencer.heldBy, standby]
  · cases engaged : s.participant f with
    | true =>
      rw [State.holdTaken_of_engaged engaged, State.release_seq_self engaged, Sequencer.heldBy_of_engaged engaged]
    | false => rw [State.holdTaken_of_other standby engaged, Sequencer.heldBy_of_other standby engaged]

theorem State.release_seq_other {h : Feeder} {c : Cause} (spared : s.spared lv f) (other : h ≠ f) :
    (s.release lv f c).seq.get h = s.seq.get h := by
  cases engaged : s.participant f with
  | false => rw [State.release_of_idle engaged]
  | true =>
    have groups := State.release_of_spared (c := c) engaged spared
    have seq : (s.release lv f c).seq = (s.releaseAlone f c).seq := (congrArg State.seq groups :)
    rw [seq, State.releaseAlone_eq engaged]
    exact Six.get_set_ne _ _ other

theorem State.holdTaken_seq_other {h : Feeder} (spared : s.participant f = false ∨ s.spared lv f) (other : h ≠ f) :
    (s.holdTaken lv f).seq.get h = s.seq.get h := by
  by_cases standby : (s.seq.get f).state = .standby
  · rw [State.holdTaken_of_standby standby, State.enterReady_eq]
    exact Six.get_set_ne _ _ other
  · cases engaged : s.participant f with
    | true =>
      rw [State.holdTaken_of_engaged engaged]
      exact State.release_seq_other (spared.resolve_left (by simp [engaged])) other
    | false => rw [State.holdTaken_of_other standby engaged]

theorem State.holdTaken_carries (held : s.holds.get f ≠ 0)
    (reports : (s.seq.get f).state = .standby ∨ s.participant f = true) :
    s.link.carries (s.holdTaken lv f).link (heldReport f (s.seq.get f)) := by
  by_cases standby : (s.seq.get f).state = .standby
  · rw [State.holdTaken_of_standby standby, State.enterReady_of_held held, heldReport, if_pos standby]
    exact Link.carries_post _ _
  · have engaged := reports.resolve_left standby
    rw [State.holdTaken_of_engaged engaged, heldReport, if_neg standby]
    exact State.release_carries engaged

/-! ## A hold freed (R106) -/

/-- R106: a sequencer whose hold count has become 0. -/
def Sequencer.freed (q : Sequencer) : Sequencer :=
  if q.state = .held then { q with state := .standby, phase := none, timer := none } else q

/-- A hold freed changes its feeder's sequencer, and reports it if that was HELD. -/
theorem State.holdFreed_eq (free : s.holds.get f = 0) : s.holdFreed f =
    if (s.seq.get f).state = .held then (s.setSeq f (s.seq.get f).freed).post
      (.feederState f .standby none (s.seq.get f).mode none) else s := by
  unfold State.holdFreed
  split
  · next held => rw [State.enterReady_of_free free, Sequencer.freed, if_pos held]
  · rfl

theorem State.holdFreed_seq (free : s.holds.get f = 0) : (s.holdFreed f).seq = s.seq.set f (s.seq.get f).freed := by
  rw [State.holdFreed_eq free]
  split
  · rfl
  · next other =>
    rw [Sequencer.freed, if_neg other]
    exact (Six.set_get _ _).symm

/-! ## One operation on a count (R149, R150) -/

variable {op : HoldOp}

/-- A state with one feeder's hold count replaced by an operation's result. -/
def State.counted (s : State) (f : Feeder) (op : HoldOp) : State :=
  { s with holds := s.holds.set f (op.apply (s.holds.get f)) }

theorem State.counted_get (s : State) (f : Feeder) (op : HoldOp) :
    (s.counted f op).holds.get f = op.apply (s.holds.get f) := Six.get_set_self _ _ _

theorem State.hold_of_taken (free : s.holds.get f = 0) (takes : op.apply (s.holds.get f) ≠ 0) :
    s.hold lv f op = (s.counted f op).holdTaken lv f := if_pos ⟨free, takes⟩

theorem State.hold_of_freed (held : s.holds.get f ≠ 0) (frees : op.apply (s.holds.get f) = 0) :
    s.hold lv f op = (s.counted f op).holdFreed f :=
  (if_neg fun h => held h.1).trans (if_pos ⟨held, frees⟩)

theorem State.hold_of_still (still : s.holds.get f = 0 ↔ op.apply (s.holds.get f) = 0) :
    s.hold lv f op = s.counted f op :=
  (if_neg fun h => h.2 (still.mp h.1)).trans (if_neg fun h => h.1 (still.mpr h.2))

theorem State.hold_holds (s : State) (lv : Leave) (f : Feeder) (op : HoldOp) :
    (s.hold lv f op).holds = s.holds.set f (op.apply (s.holds.get f)) :=
  (congrArg State.holds (s.hold_seqOnly lv f op).rest :)

theorem State.hold_butCourse (s : State) (lv : Leave) (f : Feeder) (op : HoldOp) :
    (s.hold lv f op).butCourse = (s.counted f op).butCourse := (s.hold_seqOnly lv f op).butCourse

theorem State.hold_grows (s : State) (lv : Leave) (f : Feeder) (op : HoldOp) : Grows s (s.hold lv f op) :=
  (s.hold_course lv f op).grows

/-- An operation that takes no first hold, or takes it of a feeder that is not engaged or whose departure is spared its
consequences, leaves every other sequencer alone. -/
theorem State.hold_seq_other {h : Feeder} (spared : s.holds.get f ≠ 0 ∨ s.participant f = false ∨ s.spared lv f)
    (other : h ≠ f) : (s.hold lv f op).seq.get h = s.seq.get h := by
  by_cases before : s.holds.get f = 0 <;> by_cases after : op.apply (s.holds.get f) = 0
  · rw [State.hold_of_still (by tauto)]
    rfl
  · rw [State.hold_of_taken before after]
    exact State.holdTaken_seq_other (s := s.counted f op) (spared.resolve_left (not_not.mpr before)) other
  · rw [State.hold_of_freed before after, State.holdFreed_seq ((s.counted_get f op).trans after)]
    exact Six.get_set_ne _ _ other
  · rw [State.hold_of_still (by tauto)]
    rfl

/-- An operation that leaves the count as it was does nothing. -/
theorem State.hold_of_same (same : op.apply (s.holds.get f) = s.holds.get f) : s.hold lv f op = s := by
  rw [State.hold_of_still (by rw [same])]
  unfold State.counted
  rw [same, Six.set_get]

end

/-! ## HOLD requests (R149, R151) -/

theorem answerHold_of_feeder {b : Byte} {f : Feeder} (named : Feeder.ofNumber? b.toNat = some f) (op : HoldOp) (lv : Leave)
    (s : State) : answerHold b op lv s =
      (s.hold lv f op, some (.ok [b, byteOf (s.holds.get f), byteOf (op.apply (s.holds.get f))])) := by
  simp only [answerHold, named, State.hold_holds, Six.get_set_self]

/-- What a departure that an operation may cause leaves; only those that can take a first hold have it (section 11.3). -/
def HoldOp.leave (op : HoldOp) (lv : Leave) : Leave :=
  match op with
  | .take | .takeIfFree | .forceFull => lv
  | .drop | .takeIfHeld | .forceClear | .peek => .nothing

theorem exec_holdRow (op : HoldOp) (tag b : Byte) (lv : Leave) (s : State) :
    exec (Instr.holdRow op tag b lv) s = .next (s.serve 0x06 tag (answerHold b op (op.leave lv))) := by
  cases op <;> rfl

/-- Settles O45. -/
theorem holdRequestsApplyTheirOperation : Obligations.HoldRequestsApplyTheirOperation := by
  refine fun s op tag b lv takes => ⟨fun none => ?_, fun f named => ?_⟩
  · refine State.refused_request takes (exec_holdRow op tag b lv s) fun s => ?_
    simp only [answerHold, none]
  · intro c after
    have result : op.apply c = after := by cases op <;> rfl
    have e := answerHold_of_feeder named op (op.leave lv) s.openChoice
    have count : op.apply (s.openChoice.holds.get f) = after := result
    rw [count] at e
    have holds := s.openChoice.hold_holds (op.leave lv) f op
    have course := s.openChoice.hold_butCourse (op.leave lv) f op
    rw [State.counted, count] at course
    rw [count] at holds
    refine ⟨_, exec_of_answer takes (exec_holdRow op tag b lv s) e, holds, course, State.answered_of_posted ?_ _,
      fun still => ?_⟩
    · exact (s.openChoice.hold_seqOnly (op.leave lv) f op).link
    · rw [State.queueReply_butLink, State.hold_of_still (by rw [count]; exact still), State.counted, count]
      rfl

end Sys2Proof.Machine
end

section
/-! SUPPORT. The commands that turn a hold count from 0 to nonzero or back (R106, R156, R157), and LINE_MAP_WRITE (R155). -/

namespace Sys2Proof.Machine

open Sys2Proof
open State (SeqOnly Course Grows)

/-! ## What the turn of a count leaves -/

/-- R106, R113: the sequencer of a feeder whose hold count has turned nonzero (true) or 0 (false), with its report. -/
def State.Turned (s u : State) (f : Feeder) : Bool → Prop
  | true => u.seq.get f = (s.seq.get f).heldBy s.globals s.eventOpen ∧
      ((s.seq.get f).state = .standby ∨ s.participant f = true → s.link.carries u.link (heldReport f (s.seq.get f)))
  | false => u.seq.get f = (s.seq.get f).freed ∧
      ((s.seq.get f).state = .held → s.link.carries u.link (.feederState f .standby none (s.seq.get f).mode none))

/-- What a command that turns the hold count of one feeder leaves: the count, the feeder's sequencer and its report, and
the other sequencers whose counts stand, unless its departure reaches them through its group. -/
structure State.TurnsTo (s u : State) (f : Feeder) (lv : Leave) (taken : Bool) : Prop where
  count : u.holds.get f ≠ 0 ↔ taken = true
  turned : s.Turned u f taken
  others : taken = false ∨ s.participant f = false ∨ s.spared lv f → ∀ h, h ≠ f →
    u.holds.get h = s.holds.get h → u.seq.get h = s.seq.get h
  grows : Grows s u

/-- States that differ in the link and the signal lines alone. -/
def State.sameBlocks (s w : State) : Prop := { w with link := s.link, lines := s.lines } = s

theorem State.sameBlocks.of_eq {s w : State} (h : { w with link := s.link, lines := s.lines } = s) : s.sameBlocks w := h

section

variable {s w u v : State} {f : Feeder} {lv : Leave} {taken : Bool}

/-- A link and lines moved before and after the turn of a count change nothing of what it leaves. -/
theorem State.TurnsTo.around (h : w.TurnsTo u f lv taken) (before : s.sameBlocks w) (first : Grows s w)
    (after : u.sameBlocks v) (last : Grows u v) : s.TurnsTo v f lv taken := by
  have seq : w.seq = s.seq := (congrArg State.seq before :)
  have holds : w.holds = s.holds := (congrArg State.holds before :)
  have opened : w.eventOpen = s.eventOpen := (congrArg State.eventOpen before :)
  have globals : w.globals = s.globals := (congrArg State.globals before :)
  have spared : w.spared lv f = s.spared lv f := (congrArg (fun t : State => t.spared lv f) before :)
  have seq' : u.seq = v.seq := (congrArg State.seq after.symm :)
  have holds' : u.holds = v.holds := (congrArg State.holds after.symm :)
  obtain ⟨count, turned, others, grows⟩ := h
  have carries {r : Report} (c : w.link.carries u.link r) : s.link.carries v.link r :=
    first.carries_after (last.carries_before c grows)
  rw [State.participant, seq, ← State.participant, spared, holds, seq', holds'] at others
  rw [holds'] at count
  refine ⟨count, ?_, others, (first.trans grows).trans last⟩
  cases taken <;> simp only [State.Turned, State.participant, seq, seq', opened, globals] at turned ⊢
  · exact ⟨turned.1, fun h => carries (turned.2 h)⟩
  · exact ⟨turned.1, fun h => carries (turned.2 h)⟩

/-- A count turned in the service of a request, whose reply follows. -/
theorem State.TurnsTo.replied (h : w.TurnsTo u f lv taken) (before : s.sameBlocks w) (first : Grows s w) (r : Reply) :
    s.TurnsTo (u.queueReply r) f lv taken := h.around before first rfl (u.queueReply_grows r)

/-- A count turned in an event, whose choice of the transmitter is settled after it. -/
theorem State.TurnsTo.settled (h : w.TurnsTo u f lv taken) (before : s.sameBlocks w) (first : Grows s w) (left : Bool) :
    s.TurnsTo (u.settleChoice left) f lv taken := by
  cases left with
  | false => exact h.around (v := u.settleChoice false) before first rfl u.link.closeChoice_grows
  | true => exact h.around (v := u.settleChoice true) before first rfl (Link.Grows.refl u.link)

/-- R106: an operation that takes a feeder's first hold. -/
theorem State.hold_takes {op : HoldOp} (free : s.holds.get f = 0) (takes : op.apply (s.holds.get f) ≠ 0) :
    s.TurnsTo (s.hold lv f op) f lv true := by
  have held : (s.counted f op).holds.get f ≠ 0 := by rwa [State.counted_get]
  refine ⟨?_, ?_, fun spared h other _ => ?_, s.hold_grows lv f op⟩
  · rw [State.hold_holds, Six.get_set_self]
    simp [takes]
  · rw [State.hold_of_taken free takes]
    exact ⟨State.holdTaken_seq_self held, fun reports => State.holdTaken_carries held reports⟩
  · exact State.hold_seq_other (.inr (spared.resolve_left nofun)) other

/-- R106: an operation that frees a feeder of its last hold. -/
theorem State.hold_frees {op : HoldOp} (held : s.holds.get f ≠ 0) (frees : op.apply (s.holds.get f) = 0) (lv' : Leave) :
    s.TurnsTo (s.hold lv' f op) f lv false := by
  have free : (s.counted f op).holds.get f = 0 := by rwa [State.counted_get]
  refine ⟨?_, ?_, fun spared h other _ => ?_, s.hold_grows lv' f op⟩
  · rw [State.hold_holds, Six.get_set_self]
    simp [frees]
  · rw [State.hold_of_freed held frees]
    refine ⟨?_, fun was => ?_⟩
    · rw [State.holdFreed_seq free]
      exact Six.get_set_self _ _ _
    · rw [State.holdFreed_eq free, if_pos (by exact was)]
      exact Link.carries_post _ _
  · exact State.hold_seq_other (.inl held) other

/-- A count turned, then an operation on another feeder that spares this one. -/
theorem State.TurnsTo.then_hold (h : s.TurnsTo u f lv taken) {k : Feeder} (op : HoldOp) (lv' : Leave) (other : k ≠ f)
    (spared : u.holds.get k ≠ 0 ∨ u.participant k = false ∨ u.spared lv' k) (same : u.holds.get k = s.holds.get k) :
    s.TurnsTo (u.hold lv' k op) f lv taken := by
  obtain ⟨count, turned, others, grows⟩ := h
  have self : (u.hold lv' k op).seq.get f = u.seq.get f := State.hold_seq_other spared other.symm
  have more := u.hold_grows lv' k op
  refine ⟨?_, ?_, fun cond h ne kept => ?_, grows.trans more⟩
  · rwa [State.hold_holds, Six.get_set_ne _ _ other.symm]
  · cases taken <;> simp only [State.Turned] at turned ⊢
    · exact ⟨self.trans turned.1, fun c => more.carries_before (turned.2 c) grows⟩
    · exact ⟨self.trans turned.1, fun c => more.carries_before (turned.2 c) grows⟩
  · rw [State.hold_holds] at kept
    by_cases own : h = k
    · subst own
      rw [Six.get_set_self, ← same] at kept
      rw [State.hold_of_same kept]
      exact others cond h ne same
    · rw [Six.get_set_ne _ _ own] at kept
      rw [State.hold_seq_other spared own]
      exact others cond h ne kept

/-- A DROP on another feeder, then a count turned. -/
theorem State.TurnsTo.after_drop {k : Feeder} (other : k ≠ f) (h : (s.hold lv k .drop).TurnsTo u f lv taken)
    (kept : u.holds.get k = (s.hold lv k .drop).holds.get k) : s.TurnsTo u f lv taken := by
  have drop : s.hold lv k .drop = s ∨ s.holds.get k ≠ 0 ∧
      { s.hold lv k .drop with seq := s.seq, holds := s.holds, link := s.link } = s := by
    by_cases zero : s.holds.get k = 0
    · exact .inl (State.hold_of_same (by rw [zero]; rfl))
    · refine .inr ⟨zero, ?_⟩
      by_cases one : HoldOp.drop.apply (s.holds.get k) = 0
      · rw [State.hold_of_freed zero one, State.holdFreed_eq ((s.counted_get k .drop).trans one)]
        split <;> rfl
      · rw [State.hold_of_still (by simp [zero, one])]
        rfl
  rcases drop with e | ⟨held, e⟩
  · rwa [e] at h
  · obtain ⟨count, turned, others, grows⟩ := h
    have before := s.hold_grows lv k .drop
    have seq (h : Feeder) (ne : h ≠ k) : (s.hold lv k .drop).seq.get h = s.seq.get h :=
      State.hold_seq_other (.inl held) ne
    have holds : (s.hold lv k .drop).holds = s.holds.set k (s.holds.get k - 1) := s.hold_holds lv k .drop
    have opened : (s.hold lv k .drop).eventOpen = s.eventOpen := (congrArg State.eventOpen e :)
    have globals : (s.hold lv k .drop).globals = s.globals := (congrArg State.globals e :)
    have spared : (s.hold lv k .drop).spared lv f = s.spared lv f := (congrArg (fun t : State => t.spared lv f) e :)
    rw [State.participant, seq f other.symm, ← State.participant, spared] at others
    refine ⟨count, ?_, fun cond h ne same => ?_, before.trans grows⟩
    · cases taken <;> simp only [State.Turned, State.participant, seq f other.symm, opened, globals] at turned ⊢
      · exact ⟨turned.1, fun c => before.carries_after (turned.2 c)⟩
      · exact ⟨turned.1, fun c => before.carries_after (turned.2 c)⟩
    · by_cases own : h = k
      · subst own
        rw [kept, holds, Six.get_set_self] at same
        omega
      · rw [others cond h ne (by rw [same, holds, Six.get_set_ne _ _ own]), seq h own]

end

/-! ## LINE_MAP_WRITE (R155, R157) -/

theorem State.bindingHold_of_hold (s : State) (lv : Leave) (f : Feeder) (op : HoldOp) :
    s.bindingHold lv true (.hold f) op = s.hold lv f op := rfl

theorem State.bindingHold_of_other {c : EventCode} (h : ∀ f, c ≠ .hold f) (s : State) (lv : Leave) (low : Bool)
    (op : HoldOp) : s.bindingHold lv low c op = s := by
  unfold State.bindingHold
  split
  · next f => exact absurd rfl (h f)
  · rfl

theorem State.bindingHold_butCourse (s : State) (lv : Leave) (low : Bool) (c : EventCode) (op : HoldOp) :
    (s.bindingHold lv low c op).butCourse = State.butCourse { s with holds := (s.bindingHold lv low c op).holds } := by
  unfold State.bindingHold
  split
  · split
    · rw [State.hold_butCourse, State.hold_holds]
      rfl
    · rfl
  · rfl

theorem State.bindingHold_posted (s : State) (lv : Leave) (low : Bool) (c : EventCode) (op : HoldOp) :
    Link.Posted s.link (s.bindingHold lv low c op).link := by
  unfold State.bindingHold
  split
  · split
    · exact (s.hold_seqOnly lv _ op).link
    · exact Link.Posted.refl _
  · exact Link.Posted.refl _

theorem State.bindingHold_holds (s : State) (lv : Leave) (low : Bool) (c : EventCode) (op : HoldOp) (f : Feeder) :
    (s.bindingHold lv low c op).holds.get f =
      if low = true ∧ c = .hold f then op.apply (s.holds.get f) else s.holds.get f := by
  unfold State.bindingHold
  split
  · next h =>
    cases low with
    | false => simp
    | true =>
      rw [if_pos rfl, State.hold_holds]
      by_cases same : f = h
      · subst same
        simp
      · rw [Six.get_set_ne _ _ same, if_neg]
        rintro ⟨-, e⟩
        exact same (EventCode.hold.inj e).symm
  · next other =>
    rw [if_neg]
    rintro ⟨-, rfl⟩
    exact other f rfl

theorem State.bindingHold_lines (s : State) (lv : Leave) (low : Bool) (c : EventCode) (op : HoldOp) :
    (s.bindingHold lv low c op).lines = s.lines := (congrArg State.lines (s.bindingHold_butCourse lv low c op) :)

theorem State.rebindLine_of_other {s : State} {l : Line} {c : EventCode} (other : c ≠ (s.lines.get l).binding) (lv : Leave) :
    s.rebindLine lv l c = ((s.setLine l ((s.lines.get l).rebind c)).bindingHold lv
      ((s.lines.get l).debounced == some false) (s.lines.get l).binding .drop).bindingHold lv
      ((s.lines.get l).debounced == some false) c .take := if_neg other

theorem answerLineMapWrite_of_codes {b code : Byte} {l : Line} {c : EventCode} (line : Line.ofNumber? b.toNat = some l)
    (named : EventCode.ofCode? code.toNat = some c) (lv : Leave) (s : State) :
    answerLineMapWrite b code lv s =
      (s.rebindLine lv l c, some (.ok [b, byteOf (s.lines.get l).binding.code, code])) := by
  simp only [answerLineMapWrite, line, named]

theorem LineState.rebind_cases {x : LineState} {c : EventCode} (other : c ≠ x.binding) : (x.rebind c).binding = c ∧
    (c.isOutput = true → x.rebind c = ⟨c, none, none, none, some false⟩) ∧
    (c.isOutput = false → x.binding.isOutput = true → x.rebind c = ⟨c, none, none, none, none⟩) ∧
    (c.isOutput = false → x.binding.isOutput = false → x.rebind c = { x with binding := c }) := by
  unfold LineState.rebind
  rw [if_neg other]
  cases out : c.isOutput <;> cases was : x.binding.isOutput <;> simp

/-- R155, R157: what rebinding a line to another code leaves: the line, the hold counts that its low level moves, and every
block but the sequencers' course. -/
theorem State.rebindLine_keeps {s : State} {l : Line} {c : EventCode} (other : c ≠ (s.lines.get l).binding) (lv : Leave) :
    (s.rebindLine lv l c).butCourse = State.butCourse { s with
      lines := (s.rebindLine lv l c).lines, holds := (s.rebindLine lv l c).holds } ∧
    (s.rebindLine lv l c).lines = s.lines.set l ((s.lines.get l).rebind c) ∧
    Link.Posted s.link (s.rebindLine lv l c).link ∧
    ∀ f, (s.rebindLine lv l c).holds.get f =
      if (s.lines.get l).debounced = some false ∧ c = .hold f then
        HoldOp.take.apply (if (s.lines.get l).debounced = some false ∧ (s.lines.get l).binding = .hold f then
          HoldOp.drop.apply (s.holds.get f) else s.holds.get f)
      else if (s.lines.get l).debounced = some false ∧ (s.lines.get l).binding = .hold f then
        HoldOp.drop.apply (s.holds.get f) else s.holds.get f := by
  rw [State.rebindLine_of_other other]
  generalize (s.lines.get l).debounced = debounced
  generalize (s.lines.get l).binding = old
  generalize lined : s.setLine l ((s.lines.get l).rebind c) = w
  generalize dropped : w.bindingHold lv (debounced == some false) old .drop = v
  have first := w.bindingHold_butCourse lv (debounced == some false) old .drop
  have firstHolds := w.bindingHold_holds lv (debounced == some false) old .drop
  have firstPosted := w.bindingHold_posted lv (debounced == some false) old .drop
  rw [dropped] at first firstHolds firstPosted
  have lines : (v.bindingHold lv (debounced == some false) c .take).lines = s.lines.set l ((s.lines.get l).rebind c) := by
    rw [State.bindingHold_lines, ← dropped, State.bindingHold_lines, ← lined]
    rfl
  refine ⟨?_, lines, ?_, fun f => ?_⟩
  · rw [lines]
    refine (v.bindingHold_butCourse lv (debounced == some false) c .take).trans ?_
    refine (congrArg (fun t : State => { t with
      holds := (v.bindingHold lv (debounced == some false) c .take).holds }) first :).trans ?_
    rw [← lined]
    rfl
  · exact Link.Posted.trans (m := w.link) (lined ▸ Link.Posted.refl _)
      (firstPosted.trans (v.bindingHold_posted lv (debounced == some false) c .take))
  · have same : w.holds = s.holds := by rw [← lined]; rfl
    rw [State.bindingHold_holds, firstHolds, same]
    simp only [beq_iff_eq]

/-- Settles O53. -/
theorem lineMapWriteRebindsTheLine : Obligations.LineMapWriteRebindsTheLine := by
  refine fun s tag b code lv takes => ⟨fun unknown => ?_, fun l c line named => ?_⟩
  · refine State.refused_request (rule := answerLineMapWrite b code lv) takes rfl fun s => ?_
    unfold answerLineMapWrite
    split
    · next l c line named => simp [line, named] at unknown
    · rfl
  · intro x
    have e := answerLineMapWrite_of_codes line named lv s.openChoice
    by_cases same : c = x.binding
    · have stays : s.openChoice.rebindLine lv l c = s.openChoice := if_pos same
      rw [stays] at e
      exact ⟨_, exec_of_answer takes rfl e, (s.openChoice_onlyAnswered _).1, fun _ => rfl, fun other => absurd same other⟩
    · obtain ⟨course, lines, posted, holds⟩ := State.rebindLine_keeps (s := s.openChoice) same lv
      obtain ⟨binding, output, wasOutput, input⟩ := LineState.rebind_cases same
      have line_eq : (s.openChoice.rebindLine lv l c).lines.get l = x.rebind c := by
        rw [lines]
        exact Twelve.get_set_self _ _ _
      refine ⟨_, exec_of_answer takes rfl e, State.answered_of_posted posted _, fun e => absurd e same, fun _ =>
        ⟨course, fun k other => ?_, (congrArg LineState.binding line_eq).trans binding, fun out => line_eq.trans (output out),
          fun out was => line_eq.trans (wasOutput out was), fun out was => line_eq.trans (input out was), fun f => ?_⟩⟩
      · refine (congrArg (fun v : Twelve LineState => v.get k) lines).trans ?_
        exact Twelve.get_set_ne _ _ other
      · refine (holds f).trans ?_
        change (if x.debounced = some false ∧ c = .hold f then _ else _) = _
        by_cases old : x.binding = .hold f
        · have new : c ≠ .hold f := fun h => same (h.trans old.symm)
          simp [x, old, new, HoldOp.apply] 
        · have old' : ¬ (s.lines.get l).binding = .hold f := old
          simp [x, old', HoldOp.apply]

/-! ## The commands that turn a count (R106) -/

theorem State.Turned.shows {s u : State} {f : Feeder} {taken : Bool} (h : s.Turned u f taken) :
    let q := s.seq.get f
    (taken = true →
        (q.state = .standby → u.seq.get f = { q with state := .held, phase := none, timer := none } ∧
          s.link.carries u.link (.feederState f .held none q.mode (some .held))) ∧
        (q.state = .arming ∨ q.state = .injecting → u.seq.get f = { q with
          state := .releasing, phase := some .closing, releaseCause := some .held,
          timer := some ⟨.bypass, s.globals.bypassTimeout, true⟩, barred := q.barred || s.eventOpen } ∧
          s.link.carries u.link (.feederState f .releasing (some .closing) q.mode (some .held))) ∧
        (q.state = .offline ∨ q.state = .held ∨ q.state = .releasing ∨ q.state = .faulted → u.seq.get f = q)) ∧
      (taken = false →
        (q.state = .held → u.seq.get f = { q with state := .standby, phase := none, timer := none } ∧
          s.link.carries u.link (.feederState f .standby none q.mode none)) ∧
        (q.state ≠ .held → u.seq.get f = q)) := by
  intro q
  cases taken with
  | true =>
    obtain ⟨seq, carries⟩ := h
    refine ⟨fun _ => ⟨fun standby => ?_, fun engaged => ?_, fun idle => ?_⟩, nofun⟩
    · have report := carries (.inl standby)
      rw [heldReport, if_pos standby] at report
      exact ⟨by rw [seq, Sequencer.heldBy, standby], report⟩
    · have active : s.participant f = true := by
        unfold State.participant
        rcases engaged with e | e <;> rw [e] <;> rfl
      have other : ¬ (s.seq.get f).state = .standby := by rcases engaged with e | e <;> simp [q] at e <;> simp [e]
      have report := carries (.inr active)
      rw [heldReport, if_neg other] at report
      exact ⟨seq.trans (Sequencer.heldBy_of_engaged active _ _), report⟩
    · refine seq.trans (Sequencer.heldBy_of_other ?_ ?_ _ _)
      · rcases idle with e | e | e | e <;> simp [q] at e <;> simp [e]
      · rcases idle with e | e | e | e <;> simp [q] at e <;> simp [e, FeederState.engaged]
  | false =>
    obtain ⟨seq, carries⟩ := h
    refine ⟨nofun, fun _ => ⟨fun held => ⟨?_, carries held⟩, fun other => ?_⟩⟩
    · exact seq.trans (if_pos held)
    · exact seq.trans (if_neg other)

/-- What a served hold operation leaves, in the terms of the state before the request. -/
theorem exec_holdRow_turns {s : State} {op : HoldOp} {tag b : Byte} {f : Feeder} {lv : Leave} {taken : Bool}
    (takes : s.takesRequests) (named : Feeder.ofNumber? b.toNat = some f)
    (turns : s.openChoice.TurnsTo (s.openChoice.hold (op.leave lv) f op) f lv taken) :
    ∃ u, exec (Instr.holdRow op tag b lv) s = .next u ∧ s.TurnsTo u f lv taken ∧ ∀ h, h ≠ f →
      u.holds.get h = s.holds.get h := by
  refine ⟨_, exec_of_answer takes (exec_holdRow op tag b lv s) (answerHold_of_feeder named op (op.leave lv) s.openChoice),
    turns.replied (s := s) rfl (Link.Grows.refl s.link) _, fun h other => ?_⟩
  rw [State.queueReply_holds, State.hold_holds]
  exact Six.get_set_ne _ _ other

theorem exec_lineAccepted_of_due {s : State} {l : Line} (due : (s.lines.get l).acceptanceDue = true) (lv : Leave) :
    exec (.lineAccepted ⟨l, lv⟩) s = .next (s.asEvent lv.choice fun s => s.acceptLine false lv l) := by
  change execLineAccepted ⟨l, lv⟩ s = _
  simp [execLineAccepted, due]

/-- R156: the acceptance of a HOLD line's level. -/
theorem State.acceptLine_of_hold {s : State} {l : Line} {f : Feeder} {op : HoldOp} {level : Bool}
    (due : (s.lines.get l).acceptanceDue = true) (bound : (s.lines.get l).binding = .hold f)
    (sampled : (s.lines.get l).sampled = some level) (h : lineHoldOp (s.lines.get l).debounced level = some op) (lv : Leave) :
    s.acceptLine false lv l =
      (s.setLine l { s.lines.get l with debounced := some level }).hold lv f op := by
  unfold State.acceptLine
  simp only [due, if_true, bound, sampled, Option.getD_some, h]

/-- What an accepted HOLD level leaves, in the terms of the state before the acceptance. -/
theorem exec_lineAccepted_turns {s : State} {l : Line} {f : Feeder} {op : HoldOp} {level taken : Bool} {lv : Leave}
    (due : (s.lines.get l).acceptanceDue = true) (bound : (s.lines.get l).binding = .hold f)
    (sampled : (s.lines.get l).sampled = some level) (h : lineHoldOp (s.lines.get l).debounced level = some op)
    (turns : ∀ t : State, t.holds = s.holds → t.TurnsTo (t.hold lv f op) f lv taken) :
    ∃ u, exec (.lineAccepted ⟨l, lv⟩) s = .next u ∧ s.TurnsTo u f lv taken ∧ ∀ h, h ≠ f →
      u.holds.get h = s.holds.get h := by
  have run := exec_lineAccepted_of_due due lv
  have accepted (t : State) (blocks : s.sameBlocks t) (lines : t.lines = s.lines) (grows : Grows s t) (left : Bool) :
      s.TurnsTo ((t.acceptLine false lv l).settleChoice left) f lv taken ∧ ∀ h, h ≠ f →
        ((t.acceptLine false lv l).settleChoice left).holds.get h = s.holds.get h := by
    rw [State.acceptLine_of_hold (s := t) (by rwa [lines]) (by rwa [lines]) (by rwa [lines]) (by rwa [lines])]
    have holds : t.holds = s.holds := (congrArg State.holds blocks :)
    refine ⟨(turns (t.setLine l _) holds).settled (s := s) blocks grows left, fun h other => ?_⟩
    · rw [State.settleChoice_holds, State.hold_holds, Six.get_set_ne _ _ other]
      exact congrArg (fun v : Six Nat => v.get h) holds
  rw [run]
  unfold State.asEvent
  cases lv.choice with
  | false => exact ⟨_, rfl, accepted s rfl rfl (Grows.refl s) false⟩
  | true => exact ⟨_, rfl, accepted s.openChoice rfl rfl (Link.Grows.refl s.link) true⟩

/-- Settles O46. Each command is one hold operation on the feeder's count, between changes of the link and the lines; a
rebinding first drops, or then takes, one hold of another feeder. -/
theorem holdChangesReachTheSequencer : Obligations.HoldChangesReachTheSequencer := by
  intro s c f lv taken turns q
  suffices ∃ u, exec c s = .next u ∧ s.TurnsTo u f lv taken ∧
      ((∀ tag b k, c ≠ .lineMapWrite tag b k) → ∀ h, h ≠ f → u.holds.get h = s.holds.get h) by
    obtain ⟨u, run, ⟨count, turned, others, -⟩, counts⟩ := this
    obtain ⟨took, freed⟩ := turned.shows
    refine ⟨u, run, count, took, freed, counts, fun spared => others ?_⟩
    exact spared.imp_right (Or.imp_right id)
  have plain (h : ∃ u, exec c s = .next u ∧ s.TurnsTo u f lv taken ∧ ∀ h, h ≠ f → u.holds.get h = s.holds.get h) :
      ∃ u, exec c s = .next u ∧ s.TurnsTo u f lv taken ∧
        ((∀ tag b k, c ≠ .lineMapWrite tag b k) → ∀ h, h ≠ f → u.holds.get h = s.holds.get h) := by
    obtain ⟨u, run, done, counts⟩ := h
    exact ⟨u, run, done, fun _ => counts⟩
  cases turns with
  | requestTakes op tag b takes named ops free =>
    have result : op.apply (s.openChoice.holds.get f) ≠ 0 := by
      change op.apply (s.holds.get f) ≠ 0
      rw [free]
      rcases ops with rfl | rfl | rfl <;> decide
    have leave : op.leave lv = lv := by rcases ops with rfl | rfl | rfl <;> rfl
    refine plain (exec_holdRow_turns takes named ?_)
    rw [leave]
    exact State.hold_takes free result
  | requestFrees op tag b takes named ops =>
    have held : s.openChoice.holds.get f ≠ 0 := by
      change s.holds.get f ≠ 0
      rcases ops with ⟨-, one⟩ | ⟨-, held⟩ <;> omega
    have result : op.apply (s.openChoice.holds.get f) = 0 := by
      change op.apply (s.holds.get f) = 0
      rcases ops with ⟨rfl, one⟩ | ⟨rfl, -⟩
      · rw [one]
        rfl
      · rfl
    exact plain (exec_holdRow_turns takes named (State.hold_frees held result _))
  | lineTakes l due bound sampled free =>
    refine plain (exec_lineAccepted_turns (op := .take) due bound sampled ?_ fun t holds => ?_)
    · cases (s.lines.get l).debounced <;> rfl
    · have free' : t.holds.get f = 0 := by rw [holds, free]
      exact State.hold_takes free' (by rw [free']; decide)
  | lineFrees l due bound sampled before one =>
    refine plain (exec_lineAccepted_turns (op := .drop) due bound sampled ?_ fun t holds => ?_)
    · rw [before]
      rfl
    · have one' : t.holds.get f = 1 := by rw [holds, one]
      exact State.hold_frees (by rw [one']; decide) (by rw [one']; rfl) lv
  | bindingTakes tag b code l takes line named low other free =>
    have e := answerLineMapWrite_of_codes line named lv s.openChoice
    rw [State.rebindLine_of_other (s := s.openChoice) other.symm] at e
    refine ⟨_, exec_of_answer takes rfl e, ?_, fun h => absurd rfl (h tag b ⟨code, lv⟩)⟩
    have lowBit : ((s.openChoice.lines.get l).debounced == some false) = true := beq_iff_eq.mpr low
    rw [lowBit, State.bindingHold_of_hold]
    refine State.TurnsTo.replied (s := s) (w := s.openChoice.setLine l ((s.openChoice.lines.get l).rebind (.hold f))) ?_ rfl
      (Link.Grows.refl s.link) _
    generalize lined : s.openChoice.setLine l ((s.openChoice.lines.get l).rebind (.hold f)) = w
    have holds : w.holds = s.holds := by rw [← lined]; rfl
    have taken (v : State) (h : v.holds.get f = 0) : v.TurnsTo (v.hold lv f .take) f lv true :=
      State.hold_takes h (by rw [h]; decide)
    by_cases old : ∃ k, (s.openChoice.lines.get l).binding = .hold k
    · obtain ⟨k, old⟩ := old
      have ne : k ≠ f := fun h => other (old.trans (h ▸ rfl))
      have first : (w.hold lv k .drop).holds.get f = 0 := by
        rw [State.hold_holds, Six.get_set_ne _ _ ne.symm, holds, free]
      rw [old, State.bindingHold_of_hold]
      refine State.TurnsTo.after_drop ne (taken _ first) ?_
      rw [State.hold_holds (w.hold lv k .drop), Six.get_set_ne _ _ ne]
    · rw [State.bindingHold_of_other fun k h => old ⟨k, h⟩]
      exact taken w (by rw [holds, free])
  | bindingFrees tag b code l c' takes line named other low bound one spared =>
    have e := answerLineMapWrite_of_codes line named lv s.openChoice
    have changed : c' ≠ (s.openChoice.lines.get l).binding := fun h => other (h.trans bound)
    rw [State.rebindLine_of_other (s := s.openChoice) changed] at e
    refine ⟨_, exec_of_answer takes rfl e, ?_, fun h => absurd rfl (h tag b ⟨code, lv⟩)⟩
    have lowBit : ((s.openChoice.lines.get l).debounced == some false) = true := beq_iff_eq.mpr low
    have bound' : (s.openChoice.lines.get l).binding = .hold f := bound
    rw [lowBit, bound', State.bindingHold_of_hold]
    refine State.TurnsTo.replied (s := s) (w := s.openChoice.setLine l ((s.openChoice.lines.get l).rebind c')) ?_ rfl
      (Link.Grows.refl s.link) _
    generalize lined : s.openChoice.setLine l ((s.openChoice.lines.get l).rebind c') = w
    have holds : w.holds = s.holds := by rw [← lined]; rfl
    have seq : w.seq = s.seq := by rw [← lined]; rfl
    have one' : w.holds.get f = 1 := by rw [holds, one]
    have freed : w.TurnsTo (w.hold lv f .drop) f lv false :=
      State.hold_frees (by rw [one']; decide) (by rw [one']; rfl) lv
    by_cases new : ∃ k, c' = .hold k
    · obtain ⟨k, rfl⟩ := new
      have ne : k ≠ f := fun h => other (h ▸ rfl)
      have kept : (w.hold lv f .drop).holds.get k = w.holds.get k := by
        rw [State.hold_holds, Six.get_set_ne _ _ ne]
      have untouched : (w.hold lv f .drop).seq.get k = w.seq.get k :=
        State.hold_seq_other (.inl (by rw [one']; decide)) ne
      rw [State.bindingHold_of_hold]
      refine freed.then_hold .take lv ne ?_ kept
      rw [kept, holds, State.participant, untouched, seq]
      rcases spared k rfl with h | h | h | h
      · exact .inl h
      · exact .inr (.inl h)
      · exact .inr (.inr (.inl h))
      · exact .inr (.inr (.inr (.inl h)))
    · rw [State.bindingHold_of_other fun k h => new ⟨k, h⟩]
      exact freed

end Sys2Proof.Machine
end

section
/-! SUPPORT. An event as a command of its own (R177), and ARM_TIMEOUT (R98). -/

namespace Sys2Proof.Machine

open Sys2Proof
open State (SeqOnly Course Grows)

/-! ## The transmitter's choice around an event (R177) -/

theorem Link.closeChoice_of_closed {l : Link} (h : l.choiceOpen = false) : l.closeChoice = l := by
  simp [Link.closeChoice, h]

@[simp] theorem Link.offer_choiceOpen (l : Link) (r : Report) : (l.offer r).choiceOpen = l.choiceOpen := by
  unfold Link.offer
  split <;> rfl

@[simp] theorem Link.post_choiceOpen (l : Link) (r : Report) : (l.post r).choiceOpen = l.choiceOpen := by
  unfold Link.post
  split
  · split <;> simp
  · rfl

@[simp] theorem Link.posted_choiceOpen (l : Link) (rs : List Report) : (l.posted rs).choiceOpen = l.choiceOpen := by
  unfold Link.posted
  induction rs generalizing l with
  | nil => rfl
  | cons r rs ih => rw [List.foldl_cons, ih, Link.post_choiceOpen]

/-- With no choice left open, an event's reports are all that its choice settled shows. -/
theorem State.settleChoice_of_posted {s t : State} {rs : List Report} (posted : t.link = s.link.posted rs)
    (closed : s.link.choiceOpen = false) : (t.settleChoice false).link = s.link.posted rs := by
  change t.link.closeChoice = _
  rw [Link.closeChoice_of_closed (by rw [posted, Link.posted_choiceOpen, closed]), posted]

@[simp] theorem State.settleChoice_butCourse (s : State) (left : Bool) : (s.settleChoice left).butCourse = s.butCourse := by
  cases left <;> rfl

/-! ## ARM_TIMEOUT (R98) -/

theorem exec_armTimeout_of_due {s : State} {f : Feeder} (due : s.expiryDue f .arm = true) (lv : Leave) :
    exec (.armTimeout f lv) s = .next (s.asEvent lv.choice fun s => s.armExpiry lv f) := by
  change execArmTimeout f lv s = _
  simp [execArmTimeout, due]

theorem State.participant_of_arming {s : State} {f : Feeder} (h : (s.seq.get f).state = .arming) : s.participant f = true := by
  rw [State.participant, h]
  rfl

theorem State.participant_of_injecting {s : State} {f : Feeder} (h : (s.seq.get f).state = .injecting) :
    s.participant f = true := by
  rw [State.participant, h]
  rfl

theorem State.participant_iff (s : State) (f : Feeder) :
    s.participant f = true ↔ (s.seq.get f).state = .arming ∨ (s.seq.get f).state = .injecting := by
  unfold State.participant
  cases (s.seq.get f).state <;> simp [FeederState.engaged]

theorem State.armExpiry_of_arming {s : State} {f : Feeder} (h : (s.seq.get f).state = .arming) (lv : Leave) :
    s.armExpiry lv f = s.fault lv f .armTimeout .stopping (some .stop) := if_pos h

/-- An entry into FAULTED out of engagement that is spared its consequences: the feeder, its entry and its two reports. -/
theorem State.fault_of_engaged {s : State} {lv : Leave} {f : Feeder} (engaged : s.participant f = true)
    (spared : s.spared lv f) (c : Cause) (ph : SeqPhase) (k : Option TimerKind) :
    (s.fault lv f c ph k).seq = s.seq.set f ((s.seq.get f).faulted s.globals c ph k s.eventOpen) ∧
      (s.fault lv f c ph k).detector = s.detector.mapEntry f (fun e => e.withRelease c) ∧
      (s.fault lv f c ph k).link = s.link.posted (s.faultReports f c ph) := by
  have alone := State.fault_of_spared (c := c) spared ph k
  have eq := s.faultAlone_eq f c ph k
  rw [if_pos engaged] at eq
  exact ⟨(congrArg State.seq alone :).trans (congrArg State.seq eq :),
    (congrArg State.detector alone :).trans (congrArg State.detector eq :),
    (congrArg State.link alone :).trans (congrArg State.link eq :)⟩

/-- Settles O29. -/
theorem armTimeoutFaultsTheFeeder : Obligations.ArmTimeoutFaultsTheFeeder := by
  refine fun s f lv => ⟨fun idle => ?_, fun due arming => ⟨_, exec_armTimeout_of_due due lv, ?_⟩⟩
  · change execArmTimeout f lv s = _
    simp [execArmTimeout, idle]
  · have event (w : State) (arming : (w.seq.get f).state = .arming) (left : Bool) :
        ((w.armExpiry lv f).settleChoice left).butCourse = w.butCourse ∧
        ((w.armExpiry lv f).settleChoice left).seq.get f =
          (w.seq.get f).faulted w.globals .armTimeout .stopping (some .stop) w.eventOpen ∧
        (w.spared lv f → (∀ h, h ≠ f → ((w.armExpiry lv f).settleChoice left).seq.get h = w.seq.get h) ∧
          (left = false → w.link.choiceOpen = false → ((w.armExpiry lv f).settleChoice left).link =
            w.link.posted (w.faultReports f .armTimeout .stopping)) ∧
          ((w.armExpiry lv f).settleChoice left).detector = w.detector.mapEntry f fun e => e.withRelease .armTimeout) := by
      have engaged := State.participant_of_arming arming
      rw [State.armExpiry_of_arming arming, State.settleChoice_butCourse, State.settleChoice_seq, State.settleChoice_detector]
      refine ⟨(w.fault_seqOnly _ _ _ _ _ (by simp [arming])).butCourse, w.fault_seq_self _ _ _ _ _, fun spared => ?_⟩
      obtain ⟨seq, detector, link⟩ := State.fault_of_engaged engaged spared .armTimeout .stopping (some .stop)
      refine ⟨fun h other => ?_, ?_, detector⟩
      · rw [seq, Six.get_set_ne _ _ other]
      · rintro rfl closed
        exact State.settleChoice_of_posted link closed
    have self : (s.seq.get f).faulted s.globals .armTimeout .stopping (some .stop) s.eventOpen = { s.seq.get f with
        state := .faulted, phase := some .stopping, faultCause := some .armTimeout,
        timer := some ⟨.stop, s.globals.stopTimeout, true⟩, barred := (s.seq.get f).barred || s.eventOpen } := by
      simp [Sequencer.faulted, arming, FeederState.engaged, Globals.startTimer, Globals.timeout]
    have reports : s.faultReports f .armTimeout .stopping = [
        .feederState f .faulted (some .stopping) (s.seq.get f).mode (some .armTimeout),
        .feederFault f .armTimeout false (some .arming) (s.port.get f).status s.openNumber] := by
      rw [State.faultReports, arming]
    unfold State.asEvent
    rw [← self, ← reports]
    cases choice : lv.choice with
    | false =>
      obtain ⟨course, own, spared⟩ := event s arming false
      refine ⟨course, own, fun h => ?_⟩
      obtain ⟨others, link, detector⟩ := spared h
      exact ⟨others, fun _ => link rfl, fun r open' => by
        rw [if_neg (by decide), detector, Detector.mapEntry_release open']⟩
    | true =>
      obtain ⟨course, own, spared⟩ := event s.openChoice arming true
      refine ⟨course, own, fun h => ?_⟩
      obtain ⟨others, -, detector⟩ := spared h
      exact ⟨others, nofun, fun r open' => by
        rw [if_pos rfl, detector]
        exact Detector.mapEntry_release open'⟩

end Sys2Proof.Machine
end

section
/-! SUPPORT. The examination of a slot (R117 to R129): what a good status record and a missing one leave of the port, the
sequencer and the reports. -/

namespace Sys2Proof.Machine

open Sys2Proof
open State (SeqOnly Course Grows)

/-! ## The port after an examination -/

/-- A port once a good record has been stored and counted (R121, R124 to R126). -/
def Port.good (p : Port) (st : ModuleStatus) : Port := Port.countGood { p with status := some st }

/-- R129: the report of a change of state of a port, given its state before. -/
def changeReports (f : Feeder) (before : PortState) (p : Port) : List Report :=
  match portChange before p.state with
  | some c => [.port f p.state c p.status]
  | none => []

/-- R122, R129: the report of a change of derate. -/
def derateReports (f : Feeder) (p : Port) (st : ModuleStatus) (now : PortState) : List Report :=
  if p.derate = st.derate then [] else [.port f now (if st.derate then .derateSet else .derateClear) (some st)]

theorem Port.good_status (p : Port) (st : ModuleStatus) : (p.good st).status = some st := by
  unfold Port.good Port.countGood
  dsimp only
  split
  · rfl
  · split <;> rfl
  · split <;> rfl
  · rfl

theorem Port.good_derate (p : Port) (st : ModuleStatus) : (p.good st).derate = st.derate := by
  simp [Port.derate, Port.good_status]

theorem Port.good_of_up {p : Port} (h : p.state = .up) (st : ModuleStatus) :
    p.good st = { p with status := some st, run := min (p.run + 1) 8, miss := 0 } := by
  simp [Port.good, Port.countGood, h]

theorem Port.good_of_eighth {p : Port} (h : p.state = .waiting ∨ p.state = .lost) (run : 7 ≤ p.run) (st : ModuleStatus) :
    p.good st = { p with state := .up, run := 8, miss := 0, status := some st } := by
  rcases h with h | h <;> simp [Port.good, Port.countGood, h, run]

theorem Port.good_of_early {p : Port} (h : p.state = .waiting ∨ p.state = .lost) (run : p.run < 7) (st : ModuleStatus) :
    p.good st = { p with run := p.run + 1, status := some st } := by
  rcases h with h | h <;> simp [Port.good, Port.countGood, h, not_le.mpr run]

theorem Port.countMiss_of_down {p : Port} (h : p.state = .waiting ∨ p.state = .lost) : p.countMiss = { p with run := 0 } := by
  rcases h with h | h <;> simp [Port.countMiss, h]

theorem Port.countMiss_of_lost {p : Port} (h : p.state = .up) (miss : 2 ≤ p.miss) :
    p.countMiss = { p with state := .lost, run := 0, miss := 3 } := by
  simp [Port.countMiss, h, miss]

theorem Port.countMiss_of_early {p : Port} (h : p.state = .up) (miss : p.miss < 2) :
    p.countMiss = { p with run := 0, miss := p.miss + 1 } := by
  simp [Port.countMiss, h, not_le.mpr miss]

theorem Port.countMiss_state {p : Port} (h : p.state ≠ .up ∨ p.miss < 2) : p.countMiss.state = p.state := by
  unfold Port.countMiss
  split
  · rfl
  · rfl
  · next up => rw [if_neg (not_le.mpr (h.resolve_left (not_not.mpr up)))]
  · rfl

/-! ## A good record -/

theorem State.reportChange_eq (s : State) (f : Feeder) (before : PortState) :
    s.reportChange f before = { s with link := s.link.posted (changeReports f before (s.port.get f)) } := by
  unfold State.reportChange changeReports
  cases portChange before (s.port.get f).state <;> rfl

theorem State.reportDerate_eq (s : State) (f : Feeder) (before : Bool) : s.reportDerate f before =
    { s with link := s.link.posted (if before = (s.port.get f).derate then [] else
      [.port f (s.port.get f).state (if (s.port.get f).derate then .derateSet else .derateClear) (s.port.get f).status]) } := by
  unfold State.reportDerate State.postPort
  dsimp only
  split <;> rfl

/-- The state in which a sequencer takes a good record: the port holds it. -/
def State.recorded (s : State) (f : Feeder) (st : ModuleStatus) : State :=
  s.setPort f { s.port.get f with status := some st }

theorem State.takeStatus_port (s : State) (lv : Leave) (f : Feeder) (st : ModuleStatus) (b : Option ModuleStatus) :
    (s.takeStatus lv f st b).port = s.port := (congrArg State.port (s.takeStatus_seqOnly lv f st b).rest :)

theorem Link.posted_append (l : Link) (a b : List Report) : l.posted (a ++ b) = (l.posted a).posted b := List.foldl_append

/-- A port that holds a good record counted, with its reports. -/
theorem State.counted_eq {u : State} {f : Feeder} {p : Port} {st : ModuleStatus}
    (port : u.port.get f = { p with status := some st }) :
    ((u.setPort f (u.port.get f).countGood).reportChange f p.state).reportDerate f p.derate =
      { u with
        port := u.port.set f (p.good st)
        link := u.link.posted (changeReports f p.state (p.good st) ++ derateReports f p st (p.good st).state) } := by
  have counted : (u.port.get f).countGood = p.good st := by rw [port]; rfl
  rw [counted, State.reportChange_eq, State.reportDerate_eq, Link.posted_append]
  simp only [State.setPort, Six.get_set_self, Port.good_derate, Port.good_status]
  rfl

/-- R121: a good record, in one: what the sequencer makes of it, the port counted, and the port's reports. -/
theorem State.goodSlot_eq (s : State) (lv : Leave) (f : Feeder) (st : ModuleStatus) : s.goodSlot lv f st =
    { (s.recorded f st).takeStatus lv f st (s.port.get f).status with
      port := s.port.set f ((s.port.get f).good st)
      link := ((s.recorded f st).takeStatus lv f st (s.port.get f).status).link.posted
        (changeReports f (s.port.get f).state ((s.port.get f).good st) ++
          derateReports f (s.port.get f) st ((s.port.get f).good st).state) } := by
  have port : ((s.recorded f st).takeStatus lv f st (s.port.get f).status).port =
      s.port.set f { s.port.get f with status := some st } := State.takeStatus_port _ lv f st _
  have eq := State.counted_eq (u := (s.recorded f st).takeStatus lv f st (s.port.get f).status) (f := f)
    (p := s.port.get f) (st := st) (by rw [port, Six.get_set_self])
  rw [port, Six.set_set] at eq
  exact (congrArg (fun p : Six Port =>
    ((State.setPort _ f (p.get f).countGood).reportChange f _).reportDerate f _) port).trans eq

/-- R124 to R126: a slot without a good record. -/
def State.missed (s : State) (f : Feeder) : State :=
  { s with
    port := s.port.set f (s.port.get f).countMiss
    link := s.link.posted (changeReports f (s.port.get f).state (s.port.get f).countMiss) }

theorem State.emptySlot_eq (s : State) (lv : Leave) (f : Feeder) : s.emptySlot lv f =
    if (s.port.get f).state = .up ∧ (s.port.get f).countMiss.state = .lost then (s.missed f).takePortLost lv f
    else s.missed f := by
  have missed : (s.setPort f (s.port.get f).countMiss).reportChange f (s.port.get f).state = s.missed f := by
    rw [State.reportChange_eq]
    simp only [State.setPort, Six.get_set_self]
    rfl
  unfold State.emptySlot
  simp only [missed]

theorem State.examine_of_good {slot : Slot} {st : ModuleStatus} (h : goodRecord slot.records = some st) (s : State)
    (lv : Leave) (f : Feeder) : s.examine lv f slot = s.goodSlot lv f st := by simp [State.examine, h]

theorem State.examine_of_none {slot : Slot} (h : goodRecord slot.records = none) (s : State) (lv : Leave) (f : Feeder) :
    s.examine lv f slot = s.emptySlot lv f := by simp [State.examine, h]

theorem exec_slotExamination_of_examines {s : State} {f : Feeder} {slot : Slot} (h : s.examines f slot.entry = true)
    (lv : Leave) : exec (.slotExamination f slot lv) s = .next (s.asEvent lv.choice fun s => s.examine lv f slot) := by
  change execSlotExamination f slot lv s = _
  simp [execSlotExamination, h]

theorem exec_portUp_of_comesUp {s : State} {f : Feeder} {slot : Slot} (h : s.comesUp f slot = true) (lv : Leave) :
    exec (.portUp f slot lv) s = .next (s.asEvent lv.choice fun s => s.examine lv f slot) := by
  change execPortUp f slot lv s = _
  simp [execPortUp, h]

theorem exec_portRecovered_of_comesBack {s : State} {f : Feeder} {slot : Slot} (h : s.comesBack f slot = true) (lv : Leave) :
    exec (.portRecovered f slot lv) s = .next (s.asEvent lv.choice fun s => s.examine lv f slot) := by
  change execPortRecovered f slot lv s = _
  simp [execPortRecovered, h]

theorem exec_portLost_of_goesLost {s : State} {f : Feeder} {slot : Slot} (h : s.goesLost f slot = true) (lv : Leave) :
    exec (.portLost f slot lv) s = .next (s.asEvent lv.choice fun s => s.examine lv f slot) := by
  change execPortLost f slot lv s = _
  simp [execPortLost, h]

/-- An event of its own: it is taken at a state that differs in its link alone, and not even there where the choice is not
left open. -/
theorem State.asEvent_eq (s : State) (left : Bool) (event : State → State) :
    ∃ l, s.asEvent left event = (event { s with link := l }).settleChoice left ∧ s.link.Grows l ∧ (left = false → l = s.link) := by
  cases left with
  | false => exact ⟨s.link, rfl, Link.Grows.refl _, fun _ => rfl⟩
  | true => exact ⟨{ s.link with choiceOpen := true }, rfl, Link.Grows.refl s.link, nofun⟩

/-- What an examination that found a good record leaves, by what the sequencer made of the record. -/
structure State.AfterGood (s t : State) (lv : Leave) (f : Feeder) (st : ModuleStatus) (u : State) : Prop where
  seq : t.seq = (u.takeStatus lv f st (s.port.get f).status).seq
  groups : t.groups = (u.takeStatus lv f st (s.port.get f).status).groups
  detector : t.detector = (u.takeStatus lv f st (s.port.get f).status).detector
  port : t.port = s.port.set f ((s.port.get f).good st)
  rest : State.butCourse { t with port := s.port } = s.butCourse
  link : lv.choice = false → s.link.choiceOpen = false → ∀ rs : List Report,
    (u.takeStatus lv f st (s.port.get f).status).link = u.link.posted rs → t.link = s.link.posted (rs ++
      (changeReports f (s.port.get f).state ((s.port.get f).good st) ++
        derateReports f (s.port.get f) st ((s.port.get f).good st).state))

theorem exec_slotExamination_of_good {s : State} {f : Feeder} {slot : Slot} {st : ModuleStatus}
    (examines : s.examines f slot.entry = true) (good : goodRecord slot.records = some st) (lv : Leave) :
    ∃ l t, exec (.slotExamination f slot lv) s = .next t ∧ s.AfterGood t lv f st (State.recorded { s with link := l } f st) := by
  obtain ⟨l, eq, -, same⟩ := s.asEvent_eq lv.choice fun s => s.examine lv f slot
  refine ⟨l, _, exec_slotExamination_of_examines examines lv, ?_⟩
  rw [eq, State.examine_of_good good, State.goodSlot_eq]
  constructor
  case seq => exact State.settleChoice_seq _ _
  case groups => exact State.settleChoice_groups _ _
  case detector => exact State.settleChoice_detector _ _
  case port => exact State.settleChoice_port _ _
  case rest =>
    have course := ((State.recorded { s with link := l } f st).takeStatus_seqOnly lv f st (s.port.get f).status).butCourse
    cases lv.choice
    · exact congrArg (fun x : State => { x with port := s.port }) course
    · exact congrArg (fun x : State => { x with port := s.port }) course
  case link =>
    intro left closed rs posted
    cases same left
    rw [left]
    refine State.settleChoice_of_posted (s := s) ?_ closed
    exact (congrArg (fun x : Link => x.posted _) posted).trans (Link.posted_append _ _ _).symm

end Sys2Proof.Machine
end

section
/-! SUPPORT. What a good status record makes of a sequencer, and O33 to O35 (R117 to R129, R98, R99, R103, R104, R107 to
R109). -/

namespace Sys2Proof.Machine

open Sys2Proof
open State (SeqOnly Course Grows)

/-! ## A good record at the sequencer -/

section
variable {s : State} {lv : Leave} {f : Feeder} {st : ModuleStatus} {b : Option ModuleStatus}

theorem State.takeStatus_of_offline (h : (s.seq.get f).state = .offline) : s.takeStatus lv f st b = s := by
  simp [State.takeStatus, h]

theorem State.takeStatus_of_ready (h : (s.seq.get f).state = .standby ∨ (s.seq.get f).state = .held)
    (sound : st.module ≠ .fault) : s.takeStatus lv f st b = s := by
  rcases h with h | h <;> simp [State.takeStatus, h, sound]

theorem State.takeStatus_of_arming_running (h : (s.seq.get f).state = .arming) (running : st.module = .running) :
    s.takeStatus lv f st b = s.enterInjecting f := by simp [State.takeStatus, h, running]

theorem State.takeStatus_of_arming_waits (h : (s.seq.get f).state = .arming) (running : st.module ≠ .running)
    (sound : st.module ≠ .fault) : s.takeStatus lv f st b = s := by
  unfold State.takeStatus
  rw [h]
  cases module : st.module <;> simp_all

theorem State.takeStatus_of_injecting_running (h : (s.seq.get f).state = .injecting) (running : st.module = .running) :
    s.takeStatus lv f st b = s.watchBypass f st.bypass := by simp [State.takeStatus, h, running]

theorem State.takeStatus_of_injecting_stopped (h : (s.seq.get f).state = .injecting) (stopped : st.module ≠ .running) :
    s.takeStatus lv f st b = s.fault lv f .bridgeFault .settled none := by
  unfold State.takeStatus
  rw [h]
  cases module : st.module <;> simp_all

/-- R107: a module in FAULT faults every feeder that is neither OFFLINE nor FAULTED. -/
theorem State.takeStatus_of_fault (fault : st.module = .fault) (offline : (s.seq.get f).state ≠ .offline)
    (faulted : (s.seq.get f).state ≠ .faulted) : s.takeStatus lv f st b = s.fault lv f .bridgeFault .settled none := by
  unfold State.takeStatus
  cases state : (s.seq.get f).state <;> simp_all

theorem State.takeStatus_of_faulted (h : (s.seq.get f).state = .faulted) :
    s.takeStatus lv f st b = s.faultedStatus f st b := by simp [State.takeStatus, h]

theorem State.faultedStatus_of_fault (fault : st.module = .fault) (sound : ∀ old, b = some old → old.module ≠ .fault) :
    s.faultedStatus f st b = (s.toPhase f .settled none).followOn f .bridgeFault := by
  refine if_pos ⟨fault, fun h => ?_⟩
  obtain ⟨old, held, module⟩ := Option.map_eq_some_iff.mp h
  exact sound old held module

/-- R103, R109: the bypass awaited in CLOSING. -/
theorem State.takeStatus_of_closing (h : (s.seq.get f).state = .releasing ∨ (s.seq.get f).state = .faulted)
    (phase : (s.seq.get f).phase = some .closing) (sound : st.module ≠ .fault) : s.takeStatus lv f st b =
      if st.bypass = .closed then s.toPhase f .handingOver (some .handover) else s := by
  rcases h with h | h <;> simp [State.takeStatus, State.faultedStatus, h, phase, sound]

theorem State.takeStatus_of_phase_waits (h : (s.seq.get f).state = .releasing ∨ (s.seq.get f).state = .faulted)
    (phase : (s.seq.get f).phase = some .handingOver ∨ (s.seq.get f).phase = some .settled) (sound : st.module ≠ .fault) :
    s.takeStatus lv f st b = s := by
  rcases h with h | h <;> rcases phase with phase | phase <;>
    simp [State.takeStatus, State.faultedStatus, h, phase, sound]

theorem State.takeStatus_of_stopping (h : (s.seq.get f).state = .releasing) (phase : (s.seq.get f).phase = some .stopping)
    (sound : st.module ≠ .fault) : s.takeStatus lv f st b =
      if st.module = .idle ∧ st.bypass = .closed then s.enterReady f else s := by
  simp [State.takeStatus, h, phase, sound]

theorem State.takeStatus_of_faulted_stopping (h : (s.seq.get f).state = .faulted)
    (phase : (s.seq.get f).phase = some .stopping) (sound : st.module ≠ .fault) : s.takeStatus lv f st b =
      if st.module = .idle ∧ st.bypass = .closed then s.toPhase f .settled none else s := by
  simp [State.takeStatus, State.faultedStatus, h, phase, sound]

end

theorem State.acknowledge_of_engaged {s : State} {f : Feeder} {g : GroupNo} (group : s.groupOf f = some g)
    (engaged : (s.groups.get g).engaged.get f = true) : s.acknowledge f = s.setGroup g (Group.settle
      { s.groups.get g with acknowledged := (s.groups.get g).acknowledged.insert f }) := by
  simp [State.acknowledge, group, engaged]

theorem State.acknowledge_butGroups (s : State) (f : Feeder) : { s.acknowledge f with groups := s.groups } = s := by
  unfold State.acknowledge
  dsimp only
  split
  · split <;> rfl
  · rfl

theorem Group.settle_acknowledged (r : Group) : r.settle.acknowledged = r.acknowledged := by
  unfold Group.settle
  split <;> rfl

theorem Group.settle_active_iff {r : Group} (engaging : r.state = .engaging) :
    r.settle.state = .active ↔ r.acknowledged = r.engaged := by
  unfold Group.settle
  split
  · next h => exact ⟨fun _ => h.2, fun _ => rfl⟩
  · next h => simp_all

/-- R98, R99: entry into INJECTING, but for the group table. -/
theorem State.enterInjecting_butGroups (s : State) (f : Feeder) : { s.enterInjecting f with groups := s.groups } =
    { s with
      seq := s.seq.set f { s.seq.get f with
        state := .injecting, timer := s.globals.startTimer .bypass, injected := true }
      link := s.link.post (.feederState f .injecting (s.seq.get f).phase (s.seq.get f).mode none) } := by
  unfold State.enterInjecting
  refine (State.acknowledge_butGroups _ f).trans ?_
  rw [State.postFeederState_setSeq]
  rfl

/-- R99: the BYPASS timer under a good record in INJECTING. -/
theorem State.watchBypass_seq (s : State) (f : Feeder) (b : BypassPosition) : (s.watchBypass f b).seq =
    if b = .open then s.seq.set f { s.seq.get f with timer := none }
    else if (s.seq.get f).timer = none then s.seq.set f { s.seq.get f with timer := s.globals.startTimer .bypass }
    else s.seq := by
  unfold State.watchBypass
  cases timer : (s.seq.get f).timer with
  | none =>
    have still : s.seq.set f { s.seq.get f with timer := none } = s.seq := by
      rw [← timer]
      exact Six.set_get _ _
    cases b
    case closed => simp only [timer]; rfl
    case moving => simp only [timer]; rfl
    · simp only [timer]
      exact still.symm
  | some k => cases b <;> simp only [timer] <;> rfl

theorem changeReports_of_same (f : Feeder) {before : PortState} {p : Port} (h : p.state = before) :
    changeReports f before p = [] := by
  unfold changeReports
  rw [h]
  cases before <;> rfl

theorem Port.good_state_of_up {p : Port} (h : p.state = .up) (st : ModuleStatus) : (p.good st).state = .up := by
  rw [Port.good_of_up h, h]

/-- An examination of a sending port. -/
theorem State.examines_of_sending {s : State} {f : Feeder} (out : s.inReset = false) (sends : (s.port.get f).state ≠ .quiet)
    {entry : Bool} (after : entry = true → (s.port.get f).fresh = false ∧ (s.port.get f).skipSlot = false) :
    s.examines f entry = true := by
  have sending : (s.port.get f).state.sends = true := by
    cases h : (s.port.get f).state with
    | quiet => exact absurd h sends
    | waiting | up | lost => rfl
  cases entry with
  | false => simp [State.examines, out, sending]
  | true =>
    obtain ⟨fresh, skip⟩ := after rfl
    simp [State.examines, out, sending, fresh, skip]

/-- Settles O33. -/
theorem runningStatusBeginsInjection : Obligations.RunningStatusBeginsInjection := by
  intro s f slot lv
  refine ⟨fun none => ?_, fun out sends => ⟨State.examines_of_sending out sends nofun, fun fresh skip =>
    State.examines_of_sending out sends fun _ => ⟨fresh, skip⟩⟩, ?_, ?_⟩
  · change execSlotExamination f slot lv s = _
    simp [execSlotExamination, none]
  · intro st good examines up arming running
    obtain ⟨l, t, run, after⟩ := exec_slotExamination_of_good examines good lv
    obtain ⟨u, same⟩ : ∃ u, State.recorded { s with link := l } f st = u := ⟨_, rfl⟩
    rw [same] at after
    have useq : u.seq = s.seq := by rw [← same]; rfl
    have uglobals : u.globals = s.globals := by rw [← same]; rfl
    have ugroups : u.groups = s.groups := by rw [← same]; rfl
    have udetector : u.detector = s.detector := by rw [← same]; rfl
    have uof : u.groupOf f = s.groupOf f := by rw [← same]; rfl
    have taken : u.takeStatus lv f st (s.port.get f).status = u.enterInjecting f :=
      State.takeStatus_of_arming_running (useq ▸ arming) running
    have eq := u.enterInjecting_butGroups f
    refine ⟨t, run, ?_, ?_, ?_, ?_, ?_, after.rest⟩
    · rw [after.seq, taken]
      refine (congrArg State.seq eq :).trans ?_
      rw [useq, uglobals]
      rfl
    · rw [after.port, Port.good_of_up up]
    · intro g group engaged
      have groups : t.groups = s.groups.set g (Group.settle
          { s.groups.get g with acknowledged := (s.groups.get g).acknowledged.insert f }) := by
        rw [after.groups, taken, ← ugroups]
        rw [← ugroups] at engaged
        unfold State.enterInjecting
        generalize entered : (State.postFeederState (State.setSeq u f _) f none) = w
        have wgroups : w.groups = u.groups := by rw [← entered]; rfl
        have wof : w.groupOf f = u.groupOf f := by rw [← entered]; rfl
        rw [State.acknowledge_of_engaged (wof.trans (uof.trans group)) (wgroups ▸ engaged), wgroups]
        exact congrArg (fun x : Four Group => x.set g _) wgroups
      rw [groups, Four.get_set_self, Group.settle_acknowledged]
      exact ⟨rfl, fun engaging => Group.settle_active_iff engaging⟩
    · intro left closed derate
      have link := after.link left closed [.feederState f .injecting (s.seq.get f).phase (s.seq.get f).mode none] (by
        rw [taken, ← useq]
        exact (congrArg State.link eq :))
      rw [link, changeReports_of_same f ((Port.good_state_of_up up st).trans up.symm), derateReports, if_pos derate]
      rfl
    · rw [after.detector, taken, ← udetector]
      exact (congrArg State.detector eq :)
  · intro st good examines sound q timer rests
    obtain ⟨l, t, run, after⟩ := exec_slotExamination_of_good examines good lv
    have seq := after.seq
    generalize same : State.recorded { s with link := l } f st = u at seq
    have useq : u.seq = s.seq := by rw [← same]; rfl
    have uglobals : u.globals = s.globals := by rw [← same]; rfl
    have uholds : u.holds = s.holds := by rw [← same]; rfl
    have uopen : u.eventOpen = s.eventOpen := by rw [← same]; rfl
    have self : u.seq.get f = q := by rw [useq]
    refine ⟨t, run, ?_, ?_, ?_, ?_, ?_, ?_, ?_, ?_, ?_, ?_⟩
    · rw [after.port, Six.get_set_self, Port.good_status]
    · intro h other
      rw [after.port, Six.get_set_ne _ _ other]
    · rintro (state | state | state)
      · rw [seq, State.takeStatus_of_offline (self ▸ state), useq]
      · rw [seq, State.takeStatus_of_ready (.inl (self ▸ state)) sound, useq]
      · rw [seq, State.takeStatus_of_ready (.inr (self ▸ state)) sound, useq]
    · intro state waits
      rw [seq, State.takeStatus_of_arming_waits (self ▸ state) waits sound, useq]
    · intro state running
      rw [seq, State.takeStatus_of_injecting_running (self ▸ state) running, State.watchBypass_seq, self, uglobals]
      refine ⟨fun opened => ?_, fun closed ticking => ?_, fun closed stopped => ?_⟩
      · rw [if_pos opened, useq]
      · rw [if_neg closed, if_neg ticking, useq]
      · rw [if_neg closed, if_pos stopped, useq]
        rfl
    · intro state stopped
      rw [seq, State.takeStatus_of_injecting_stopped (self ▸ state) stopped, State.fault_seq_self, self, uglobals, uopen]
      simp [Sequencer.faulted, state, FeederState.engaged]
    · intro state phase
      rw [seq, State.takeStatus_of_closing (self ▸ state) (self ▸ phase) sound]
      split
      · change u.seq.set f { u.seq.get f with phase := _, timer := u.globals.startTimer .handover } = _
        rw [self, useq, uglobals]
        rfl
      · exact useq
    · intro state phase
      rw [seq, State.takeStatus_of_phase_waits (self ▸ state) (self ▸ phase) sound, useq]
    · intro state phase
      rw [seq, State.takeStatus_of_stopping (self ▸ state) (self ▸ phase) sound]
      refine ⟨fun h => ?_, fun h => ?_⟩
      · rw [if_pos h, State.enterReady_eq, self]
        change u.seq.set f (q.readied (u.holds.get f)) = _
        rw [useq, uholds]
        rfl
      · rw [if_neg h, useq]
    · intro state phase
      rw [seq, State.takeStatus_of_faulted_stopping (self ▸ state) (self ▸ phase) sound]
      refine ⟨fun h => ?_, fun h => ?_⟩
      · rw [if_pos h]
        change u.seq.set f { u.seq.get f with phase := _, timer := _ } = _
        rw [self, useq]
        rfl
      · rw [if_neg h, useq]

/-! ## A module in FAULT, and a port that goes LOST (O34) -/

/-- R114: the primary report of an entry into FAULTED is posted, whatever follows the departure. -/
theorem State.fault_carries (s : State) (lv : Leave) (f : Feeder) (c : Cause) (ph : SeqPhase) (k : Option TimerKind) :
    s.link.carries (s.fault lv f c ph k).link
      (.feederFault f c false (some (s.seq.get f).state) (s.port.get f).status s.openNumber) := by
  have posted : (s.faultAlone f c ph k).link = (s.link.post _).post _ := (congrArg State.link (s.faultAlone_eq f c ph k) :)
  have own : s.link.carries (s.faultAlone f c ph k).link
      (.feederFault f c false (some (s.seq.get f).state) (s.port.get f).status s.openNumber) :=
    posted ▸ (s.link.post_grows _).carries_after (Link.carries_post _ _)
  by_cases engaged : s.participant f = true
  · rw [State.fault_eq engaged]
    exact Link.Grows.carries_before (State.depart_course _ lv f c).grows own
      (s.faultAlone_course f c ph k (k := .any) (.inl rfl)).grows
  · rw [State.fault_of_idle (by simpa using engaged)]
    exact own

/-- What an examination without a good record leaves: that of a state that differs in its link alone. -/
theorem exec_slotExamination_of_none {s : State} {f : Feeder} {slot : Slot} (examines : s.examines f slot.entry = true)
    (none' : goodRecord slot.records = none) (lv : Leave) :
    ∃ l, exec (.slotExamination f slot lv) s =
        .next ((State.emptySlot { s with link := l } lv f).settleChoice lv.choice) ∧
      s.link.Grows l ∧ (lv.choice = false → l = s.link) := by
  obtain ⟨l, eq, grows, same⟩ := s.asEvent_eq lv.choice fun s => s.examine lv f slot
  rw [State.examine_of_none none'] at eq
  exact ⟨l, (exec_slotExamination_of_examines examines lv).trans (congrArg _ eq), grows, same⟩

theorem State.settleChoice_grows (s : State) (left : Bool) : Grows s (s.settleChoice left) := by
  cases left with
  | false => exact Link.closeChoice_grows _
  | true => exact Link.Grows.refl s.link

/-- Settles O34. -/
theorem moduleFaultAndLostPortFaultTheFeeder : Obligations.ModuleFaultAndLostPortFaultTheFeeder := by
  intro s f slot lv examines q p bar
  refine ⟨fun st good fault => ?_, fun up none' miss => ?_⟩
  · obtain ⟨l, t, run, after⟩ := exec_slotExamination_of_good examines good lv
    obtain ⟨u, same⟩ : ∃ u, State.recorded { s with link := l } f st = u := ⟨_, rfl⟩
    rw [same] at after
    have useq : u.seq = s.seq := by rw [← same]; rfl
    have uglobals : u.globals = s.globals := by rw [← same]; rfl
    have uopen : u.eventOpen = s.eventOpen := by rw [← same]; rfl
    have unumber : u.openNumber = s.openNumber := by rw [← same]; rfl
    have ustatus : (u.port.get f).status = some st := by rw [← same, State.recorded, State.setPort, Six.get_set_self]
    have self : u.seq.get f = q := by rw [useq]
    refine ⟨t, run, ?_, ?_, ?_, ?_, ?_⟩
    · rw [after.port, Six.get_set_self, Port.good_status]
    · intro offline faulted
      rw [after.seq, State.takeStatus_of_fault fault (self ▸ offline) (self ▸ faulted), State.fault_seq_self, self, uglobals,
        uopen]
      rfl
    · intro state up derate left closed
      have offline : q.state ≠ .offline := by rcases state with h | h | h <;> rw [h] <;> decide
      have faulted : q.state ≠ .faulted := by rcases state with h | h | h <;> rw [h] <;> decide
      have out : u.participant f = false := by
        rw [State.participant, self]
        rcases state with h | h | h <;> rw [h] <;> rfl
      have link := after.link left closed (u.faultReports f .bridgeFault .settled) (by
        rw [State.takeStatus_of_fault fault (self ▸ offline) (self ▸ faulted), State.fault_of_idle out, State.faultAlone_eq])
      rw [link, changeReports_of_same f ((Port.good_state_of_up up st).trans up.symm), derateReports, if_pos derate,
        List.append_nil, List.append_nil, State.faultReports, self, ustatus, unumber]
    · intro faulted sound
      rw [after.seq, State.takeStatus_of_faulted (self ▸ faulted), State.faultedStatus_of_fault fault sound]
      change (u.seq.set f _).set f { Six.get (u.seq.set f { u.seq.get f with phase := _, timer := none }) f with
        followOn := _ } = _
      rw [Six.set_set, Six.get_set_self, self, useq]
    · intro offline
      rw [after.seq, State.takeStatus_of_offline (self ▸ offline), useq]
  · obtain ⟨l, run, grows, -⟩ := exec_slotExamination_of_none examines none' lv
    have goes : s.goesLost f slot = true := by
      simp only [State.goesLost, examines, none', Option.isNone_none, Bool.and_true, Bool.true_and, Bool.and_eq_true,
        beq_iff_eq, decide_eq_true_eq]
      exact ⟨up, miss⟩
    have sameRun : exec (.portLost f slot lv) s = exec (.slotExamination f slot lv) s :=
      (exec_portLost_of_goesLost goes lv).trans (exec_slotExamination_of_examines examines lv).symm
    have lost : p.countMiss = { p with state := .lost, run := 0, miss := 3 } := Port.countMiss_of_lost up miss
    obtain ⟨u, same⟩ : ∃ u, State.missed { s with link := l } f = u := ⟨_, rfl⟩
    have useq : u.seq = s.seq := by rw [← same]; rfl
    have uglobals : u.globals = s.globals := by rw [← same]; rfl
    have uopen : u.eventOpen = s.eventOpen := by rw [← same]; rfl
    have unumber : u.openNumber = s.openNumber := by rw [← same]; rfl
    have uport : u.port = s.port.set f { p with state := .lost, run := 0, miss := 3 } := by
      rw [← lost, ← same]; rfl
    have ulink : u.link = l.post (.port f .lost .lost p.status) := by
      have reports : changeReports f p.state p.countMiss = [.port f .lost .lost p.status] := by rw [up, lost]; rfl
      rw [← same]
      exact congrArg l.posted reports
    have self : u.seq.get f = q := by rw [useq]
    have status : (u.port.get f).status = p.status := by rw [uport, Six.get_set_self]
    have before : Link.Grows s.link u.link := grows.trans (ulink ▸ l.post_grows _)
    have empty : State.emptySlot { s with link := l } lv f = u.takePortLost lv f := by
      rw [State.emptySlot_eq, same]
      exact if_pos ⟨up, by rw [show Port.countMiss _ = _ from lost]⟩
    rw [empty] at run
    obtain ⟨t, after⟩ : ∃ t, (u.takePortLost lv f).settleChoice lv.choice = t := ⟨_, rfl⟩
    rw [after] at run
    have tseq : t.seq = (u.takePortLost lv f).seq := by rw [← after, State.settleChoice_seq]
    have last : Grows (u.takePortLost lv f) t := after ▸ State.settleChoice_grows _ _
    have shown {r : Report} (posted : u.link.carries (u.takePortLost lv f).link r) : s.link.carries t.link r :=
      before.carries_after (last.carries_before posted (u.takePortLost_course lv f).grows)
    refine ⟨t, sameRun.trans run, run, ?_, ?_, ?_, ?_, ?_⟩
    · rw [← after, State.settleChoice_port, ← uport]
      exact (congrArg State.port (u.takePortLost_seqOnly lv f).rest :)
    · exact last.carries_before ((u.takePortLost_course lv f).grows.carries_before
        (grows.carries_after (ulink ▸ l.carries_post _)) before) (before.trans (u.takePortLost_course lv f).grows)
    · intro offline faulted
      have taken : u.takePortLost lv f = u.fault lv f .bridgeLost .stopping (some .stop) := by
        unfold State.takePortLost
        rw [self]
        cases state : q.state <;> simp_all
      constructor
      · rw [tseq, taken, State.fault_seq_self, self, uglobals, uopen]
        rfl
      · have posted := u.fault_carries lv f .bridgeLost .stopping (some .stop)
        rw [self, status, unumber] at posted
        exact shown (taken ▸ posted)
    · intro faulted
      have taken : u.takePortLost lv f = u.followOn f .bridgeLost := by
        unfold State.takePortLost
        rw [self, faulted]
      constructor
      · rw [tseq, taken, ← self]
        exact Six.get_set_self _ _ _
      · have posted : u.link.carries (u.followOn f .bridgeLost).link
            (.feederFault f .bridgeLost true none (u.port.get f).status u.openNumber) := Link.carries_post _ _
        rw [status, unumber] at posted
        exact shown (taken ▸ posted)
    · intro offline
      have taken : u.takePortLost lv f = u := by
        unfold State.takePortLost
        rw [self, offline]
      rw [tseq, taken, self]

/-! ## The counts of every examination (O35) -/

/-- R124 to R126, R129: the reports of a good record's change of state and of derate. -/
theorem Port.good_reports (p : Port) (f : Feeder) (st : ModuleStatus) :
    changeReports f p.state (p.good st) ++ derateReports f p st (p.good st).state =
      if p.state = .waiting ∧ 7 ≤ p.run then .port f .up .up (some st) :: derateReports f p st .up
      else if p.state = .lost ∧ 7 ≤ p.run then .port f .up .recovered (some st) :: derateReports f p st .up
      else derateReports f p st p.state := by
  cases state : p.state with
  | quiet => simp [Port.good, Port.countGood, state, changeReports, portChange]
  | up => simp [Port.good_of_up state, state, changeReports, portChange]
  | waiting =>
    by_cases run : 7 ≤ p.run
    · simp [Port.good_of_eighth (.inl state) run, run, changeReports, portChange]
    · simp [Port.good_of_early (.inl state) (not_le.mp run), run, state, changeReports, portChange]
  | lost =>
    by_cases run : 7 ≤ p.run
    · simp [Port.good_of_eighth (.inr state) run, run, changeReports, portChange]
    · simp [Port.good_of_early (.inr state) (not_le.mp run), run, state, changeReports, portChange]

/-- Settles O35. -/
theorem eighthGoodRecordBringsThePortUp : Obligations.EighthGoodRecordBringsThePortUp := by
  intro s f slot lv examines p
  refine ⟨fun st good => ?_, fun none' => ?_⟩
  · obtain ⟨l, t, run, after⟩ := exec_slotExamination_of_good examines good lv
    intro up derateReport
    refine ⟨fun waiting eighth => ⟨t, ?_, run, ?_⟩, fun lost eighth => ⟨t, ?_, run, ?_⟩, t, run, ?_, ?_, ?_⟩
    · have comes : s.comesUp f slot = true := by
        simp only [State.comesUp, examines, good, Option.isSome_some, Bool.and_true, Bool.true_and, Bool.and_eq_true,
          beq_iff_eq, decide_eq_true_eq]
        exact ⟨waiting, eighth⟩
      exact (exec_portUp_of_comesUp comes lv).trans ((exec_slotExamination_of_examines examines lv).symm.trans run)
    · rw [after.port, Port.good_of_eighth (.inl waiting) eighth]
    · have comes : s.comesBack f slot = true := by
        simp only [State.comesBack, examines, good, Option.isSome_some, Bool.and_true, Bool.true_and, Bool.and_eq_true,
          beq_iff_eq, decide_eq_true_eq]
        exact ⟨lost, eighth⟩
      exact (exec_portRecovered_of_comesBack comes lv).trans
        ((exec_slotExamination_of_examines examines lv).symm.trans run)
    · rw [after.port, Port.good_of_eighth (.inr lost) eighth]
    · intro down early
      rw [after.port, Port.good_of_early down early]
    · intro isUp
      rw [after.port, Port.good_of_up isUp]
    · intro ready sound left closed
      have link := after.link left closed [] (congrArg State.link (State.takeStatus_of_ready ready sound))
      rw [link, List.nil_append, Port.good_reports]
      rfl
  · obtain ⟨l, run, -, same⟩ := exec_slotExamination_of_none examines none' lv
    rw [State.emptySlot_eq] at run
    refine ⟨_, run, fun down => ?_, fun isUp early => ?_, fun still => ?_⟩
    · rw [if_neg (fun h => by rcases down with d | d <;> rw [d] at h <;> exact absurd h.1 (by decide)),
        State.settleChoice_port]
      exact congrArg (s.port.set f) (Port.countMiss_of_down down)
    · have state : p.countMiss.state = .up := (Port.countMiss_state (.inr early)).trans isUp
      rw [if_neg (fun h => absurd (state.symm.trans h.2) (by decide)), State.settleChoice_port]
      exact congrArg (s.port.set f) (Port.countMiss_of_early isUp early)
    · have state : p.countMiss.state = p.state := Port.countMiss_state still
      rw [if_neg (fun h => absurd (h.1.symm.trans (state.symm.trans h.2)) (by decide)), State.settleChoice_seq]
      refine ⟨rfl, fun left closed => ?_⟩
      cases same left
      rw [left]
      exact State.settleChoice_of_posted (s := s) (rs := [])
        (congrArg s.link.posted (changeReports_of_same f state)) closed

end Sys2Proof.Machine
end

section
/-! SUPPORT. Refusals: a member that leaves engagement on its own account abandons its group (R138 to R142). -/

namespace Sys2Proof.Machine

open Sys2Proof
open State (SeqOnly Course Grows)

/-- The blocks that a departure reads and changes. -/
def State.courseOf (s : State) : Six Sequencer × Four Group × FeederSet × List (Feeder × AbandonCause) × Globals × Bool :=
  (s.seq, s.groups, s.groupRequests, s.refusals, s.globals, s.eventOpen)

/-- The feeder is an engaged member of an ENGAGING or ACTIVE group, and no refusal is on its way. -/
structure State.Engages (s : State) (f : Feeder) (g : GroupNo) : Prop where
  group : s.groupOf f = some g
  member : (s.groups.get g).engaged.get f = true
  course : (s.groups.get g).state = .engaging ∨ (s.groups.get g).state = .active
  none : s.refusals = []

/-- R141: the group once the refusal of a member has been taken. -/
def Group.abandonedBy (r : Group) (f : Feeder) (a : AbandonCause) : Group :=
  { r with state := .abandoned, abandonCause := some a, refused := r.refused.set f true }

/-- What the departure of an engaged member leaves, and what of it waits. -/
structure State.DepartsTo (s t : State) (f : Feeder) (g : GroupNo) (lv : Leave) (a : AbandonCause) : Prop where
  refused : a = .memberRefused → (t.seq.get f).state = .faulted
  released : a = .memberReleased → (t.seq.get f).state = .releasing
  cause : a ≠ .starved
  left : lv.refusal = true → t.refusals = [(f, a)] ∧ t.groups = s.groups ∧ t.groupRequests = s.groupRequests ∧
    ∀ h, h ≠ f → t.seq.get h = s.seq.get h
  taken : lv.refusal = false → t.refusals = [] ∧ t.groups = s.groups.set g ((s.groups.get g).abandonedBy f a)
  asked : lv.refusal = false → lv.requests = true →
    (∀ h, t.groupRequests.get h = (s.groupRequests.get h || (s.groups.get g).engaged.get h && h != f)) ∧
      ∀ h, h ≠ f → t.seq.get h = s.seq.get h
  answered : lv.refusal = false → lv.requests = false → t.groupRequests = FeederSet.empty ∧
    (∀ h, h ≠ f → (s.groups.get g).engaged.get h = true → s.participant h = true →
      t.seq.get h = (s.seq.get h).released s.globals .groupAbandon s.eventOpen) ∧
    ∀ h, h ≠ f → (s.groups.get g).engaged.get h = false → s.groupRequests.get h = false → t.seq.get h = s.seq.get h

section
variable {s t u w : State} {f : Feeder} {g : GroupNo} {lv : Leave} {a : AbandonCause} {c : Cause}

/-- Blocks other than those of the course may change before and after a departure. -/
theorem State.DepartsTo.around (h : w.DepartsTo u f g lv a) (before : w.courseOf = s.courseOf)
    (after : t.courseOf = u.courseOf) : s.DepartsTo t f g lv a := by
  simp only [State.courseOf, Prod.mk.injEq] at before after
  obtain ⟨seq, groups, requests, -, globals, opened⟩ := before
  obtain ⟨seq', groups', requests', refusals', -, -⟩ := after
  obtain ⟨refused, released, cause, left, taken, asked, answered⟩ := h
  simp only [State.participant, seq, groups, requests, globals, opened] at left taken asked answered
  rw [← seq'] at refused released left asked answered
  rw [← refusals'] at left taken
  rw [← groups'] at left taken
  rw [← requests'] at left asked answered
  exact ⟨refused, released, cause, left, taken, asked, answered⟩

/-- R140: the waiting requests move only sequencers, their reports and the open record. -/
theorem State.takeGroupRequests_rest (s : State) : s.takeGroupRequests.groups = s.groups ∧
    s.takeGroupRequests.refusals = s.refusals ∧ s.takeGroupRequests.groupRequests = FeederSet.empty := by
  unfold State.takeGroupRequests forFeeders
  refine foldl_keeps (P := fun t : State => t.groups = s.groups ∧ t.refusals = s.refusals ∧
    t.groupRequests = FeederSet.empty) (fun h t kept => ?_) _ _ ⟨rfl, rfl, rfl⟩
  dsimp only
  split
  · cases e : t.participant h with
    | false => rwa [State.releaseAlone_of_idle e]
    | true => rwa [State.releaseAlone_eq e]
  · exact kept

/-- R141: the refusal of an engaged member of an engaged group, taken by the group table. -/
theorem State.takeRefusals_of_engaged (group : w.groupOf f = some g) (member : (w.groups.get g).engaged.get f = true)
    (course : (w.groups.get g).state = .engaging ∨ (w.groups.get g).state = .active) :
    State.takeRefusals { w with refusals := [(f, a)] } = { w with
      refusals := []
      groups := w.groups.set g ((w.groups.get g).abandonedBy f a)
      groupRequests := Six.of fun h => w.groupRequests.get h || ((w.groups.get g).engaged.get h && h != f) } := by
  have group' : State.groupOf { w with refusals := [] } f = some g := group
  change State.takeRefusal { w with refusals := [] } f a = _
  unfold State.takeRefusal
  rw [group']
  simp only [Group.takesRefusal, member, Bool.true_or, if_true, State.refuse]
  rcases course with h | h <;> simp only [h] <;> rfl

/-- R138, R141: what follows a departure on the feeder's own account, from the state `u` in which it has left engagement. -/
theorem State.depart_departsTo (engages : s.Engages f g) (refusal : c.refusal = some a)
    (groups : u.groups = s.groups) (requests : u.groupRequests = s.groupRequests) (refusals : u.refusals = s.refusals)
    (globals : u.globals = s.globals) (opened : u.eventOpen = s.eventOpen)
    (others : ∀ h, h ≠ f → u.seq.get h = s.seq.get h) (out : u.participant f = false)
    (refused : a = .memberRefused → (u.seq.get f).state = .faulted)
    (released : a = .memberReleased → (u.seq.get f).state = .releasing) (cause : a ≠ .starved) :
    s.DepartsTo (u.depart lv f c) f g lv a := by
  obtain ⟨group, member, course, none'⟩ := engages
  have self : (u.depart lv f c).seq.get f = u.seq.get f := State.depart_seq_out u lv c out
  have group' : u.groupOf f = some g := by
    rw [← group]
    unfold State.groupOf
    rw [groups]
  have departs : u.depart lv f c = State.settleGroups { u with refusals := [(f, a)] } lv := by
    unfold State.depart
    rw [refusal]
    simp only [refusals, none', List.nil_append]
  have took := State.takeRefusals_of_engaged (a := a) group' (groups ▸ member) (groups ▸ course)
  rw [← self] at refused released
  refine ⟨refused, released, cause, fun left => ?_, fun left => ?_, fun left asked => ?_, fun left answered => ?_⟩
  · rw [departs, State.settleGroups, if_pos left]
    exact ⟨rfl, groups, requests, others⟩
  · rw [departs, State.settleGroups, if_neg (by simp [left]), took, groups]
    split
    · exact ⟨rfl, rfl⟩
    · obtain ⟨kept, none'', -⟩ := State.takeGroupRequests_rest _
      rw [kept, none'']
      exact ⟨rfl, rfl⟩
  · rw [departs, State.settleGroups, if_neg (by simp [left]), if_pos asked, took, groups, requests]
    exact ⟨fun h => Six.get_of _ _, others⟩
  · rw [departs, State.settleGroups, if_neg (by simp [left]), if_neg (by simp [answered]), took]
    obtain ⟨-, -, requests'⟩ := State.takeGroupRequests_rest _
    refine ⟨requests', fun h other engaged part => ?_, fun h other engaged quiet => ?_⟩
    · have part' : u.participant h = true := by rw [State.participant, others h other]; exact part
      have asked : (u.groupRequests.get h || (u.groups.get g).engaged.get h && h != f) = true := by
        simp [groups, engaged, other]
      rw [State.takeGroupRequests_seq, Six.get_of, asked, Bool.true_and]
      refine (if_pos part').trans ?_
      change (u.seq.get h).released u.globals .groupAbandon u.eventOpen = _
      rw [others h other, globals, opened]
    · have asked : (u.groupRequests.get h || (u.groups.get g).engaged.get h && h != f) = false := by
        simp [groups, requests, engaged, quiet]
      rw [State.takeGroupRequests_seq, Six.get_of, asked]
      exact others h other

/-- R138, R140: an engaged member released on its own account. -/
theorem State.release_departsTo (engages : s.Engages f g) (part : s.participant f = true)
    (refusal : c.refusal = some .memberReleased) : s.DepartsTo (s.release lv f c) f g lv .memberReleased := by
  rw [State.release_eq part]
  have out := s.releaseAlone_out f c
  rw [State.releaseAlone_eq part] at out ⊢
  exact State.depart_departsTo engages refusal rfl rfl rfl rfl rfl (fun h other => Six.get_set_ne _ _ other) out nofun
    (fun _ => by rw [Six.get_set_self]; rfl) nofun

/-- R138, R139: an engaged member that enters FAULTED. -/
theorem State.fault_departsTo (engages : s.Engages f g) (part : s.participant f = true)
    (refusal : c.refusal = some .memberRefused) (ph : SeqPhase) (k : Option TimerKind) :
    s.DepartsTo (s.fault lv f c ph k) f g lv .memberRefused := by
  rw [State.fault_eq part]
  have out := s.faultAlone_out f c ph k
  rw [State.faultAlone_eq, if_pos part] at out ⊢
  exact State.depart_departsTo engages refusal rfl rfl rfl rfl rfl (fun h other => Six.get_set_ne _ _ other) out
    (fun _ => by rw [Six.get_set_self]; rfl) nofun nofun

/-- R138, R150: an engaged member whose hold count becomes nonzero. -/
theorem State.hold_departsTo {op : HoldOp} (engages : s.Engages f g) (part : s.participant f = true)
    (free : s.holds.get f = 0) (takes : op.apply (s.holds.get f) ≠ 0) :
    s.DepartsTo (s.hold lv f op) f g lv .memberReleased := by
  rw [State.hold_of_taken free takes, State.holdTaken_of_engaged (s := s.counted f op) part]
  have engages' : (s.counted f op).Engages f g := ⟨engages.group, engages.member, engages.course, engages.none⟩
  exact (State.release_departsTo engages' part rfl).around rfl rfl

/-- An event of its own around a departure. -/
theorem State.asEvent_departsTo {event : State → State}
    (h : ∀ l, State.DepartsTo { s with link := l } (event { s with link := l }) f g lv a) (left : Bool) :
    s.DepartsTo (s.asEvent left event) f g lv a := by
  obtain ⟨l, eq, -, -⟩ := s.asEvent_eq left event
  rw [eq]
  exact (h l).around rfl (by cases left <;> rfl)

end

theorem exec_bypassTimerExpiry_of_due {s : State} {f : Feeder} (due : s.expiryDue f .bypass = true) (lv : Leave) :
    exec (.bypassTimerExpiry f lv) s = .next (s.asEvent lv.choice fun s => s.bypassExpiry lv f) := by
  change execBypassTimerExpiry f lv s = _
  simp [execBypassTimerExpiry, due]

theorem State.bypassExpiry_of_injecting {s : State} {f : Feeder} (h : (s.seq.get f).state = .injecting) (lv : Leave) :
    s.bypassExpiry lv f = s.release lv f .bypassStuck := by simp [State.bypassExpiry, h]

theorem State.takePortLost_of_engaged {s : State} {f : Feeder} (h : s.participant f = true) (lv : Leave) :
    s.takePortLost lv f = s.fault lv f .bridgeLost .stopping (some .stop) := by
  rcases (s.participant_iff f).mp h with h | h <;> simp [State.takePortLost, h]

/-- Settles O31. -/
theorem refusalAbandonsTheGroup : Obligations.RefusalAbandonsTheGroup := by
  refine ⟨fun s c a f g lv departs group member course none' => ?_, fun s f g a group course member => ?_⟩
  · intro abandoned
    suffices ∃ t, exec c s = .next t ∧ s.DepartsTo t f g lv a by
      obtain ⟨t, run, refused, released, cause, left, taken, asked, answered⟩ := this
      exact ⟨t, run, refused, released, cause, left, taken, asked, answered⟩
    have engages (l : Link) : State.Engages { s with link := l } f g := ⟨group, member, course, none'⟩
    cases departs with
    | armTimeout due arming =>
      refine ⟨_, exec_armTimeout_of_due due lv, State.asEvent_departsTo (fun l => ?_) _⟩
      rw [State.armExpiry_of_arming (s := { s with link := l }) arming]
      exact State.fault_departsTo (engages l) (State.participant_of_arming arming) rfl _ _
    | bypassStuck due injecting =>
      refine ⟨_, exec_bypassTimerExpiry_of_due due lv, State.asEvent_departsTo (fun l => ?_) _⟩
      rw [State.bypassExpiry_of_injecting (s := { s with link := l }) injecting]
      exact State.release_departsTo (engages l) (State.participant_of_injecting injecting) rfl
    | moduleStops slot st examines good part stops =>
      refine ⟨_, exec_slotExamination_of_examines examines lv, State.asEvent_departsTo (fun l => ?_) _⟩
      obtain ⟨u, same⟩ : ∃ u, State.recorded { s with link := l } f st = u := ⟨_, rfl⟩
      have useq : u.seq = s.seq := by rw [← same]; rfl
      have engages' : u.Engages f g := by rw [← same]; exact ⟨group, member, course, none'⟩
      have part' : u.participant f = true := by rw [State.participant, useq]; exact part
      have before : u.courseOf = s.courseOf := by rw [← same]; rfl
      have stopped : u.takeStatus lv f st (s.port.get f).status = u.fault lv f .bridgeFault .settled none := by
        rcases (u.participant_iff f).mp part' with state | state
        · refine State.takeStatus_of_fault (stops.resolve_right fun h => ?_) (by simp [state]) (by simp [state])
          rw [← useq, state] at h
          exact absurd h.1 (by decide)
        · rcases stops with fault | ⟨-, stopped⟩
          · exact State.takeStatus_of_fault fault (by simp [state]) (by simp [state])
          · exact State.takeStatus_of_injecting_stopped state stopped
      rw [State.examine_of_good good, State.goodSlot_eq, same]
      have departs := State.fault_departsTo (lv := lv) (c := .bridgeFault) engages' part' rfl .settled none
      rw [← stopped] at departs
      exact departs.around before rfl
    | portLost slot examines none'' up miss part =>
      have goes : s.goesLost f slot = true := by
        simp only [State.goesLost, examines, none'', Option.isNone_none, Bool.and_true, Bool.true_and, Bool.and_eq_true,
          beq_iff_eq, decide_eq_true_eq]
        exact ⟨up, miss⟩
      refine ⟨_, exec_portLost_of_goesLost goes lv, State.asEvent_departsTo (fun l => ?_) _⟩
      obtain ⟨u, same⟩ : ∃ u, State.missed { s with link := l } f = u := ⟨_, rfl⟩
      have useq : u.seq = s.seq := by rw [← same]; rfl
      have engages' : u.Engages f g := by rw [← same]; exact ⟨group, member, course, none'⟩
      have part' : u.participant f = true := by rw [State.participant, useq]; exact part
      have before : u.courseOf = s.courseOf := by rw [← same]; rfl
      have lost : (s.port.get f).countMiss.state = .lost := by rw [Port.countMiss_of_lost up miss]
      have empty : State.emptySlot { s with link := l } lv f = u.takePortLost lv f := by
        rw [State.emptySlot_eq, same]
        exact if_pos ⟨up, lost⟩
      rw [State.examine_of_none none'', empty, State.takePortLost_of_engaged part']
      exact (State.fault_departsTo engages' part' rfl _ _).around before rfl
    | holdRequest op tag b takes named ops free part =>
      have result : op.apply (s.holds.get f) ≠ 0 := by
        rw [free]
        rcases ops with rfl | rfl | rfl <;> decide
      have leave : op.leave lv = lv := by rcases ops with rfl | rfl | rfl <;> rfl
      have row := exec_holdRow op tag b lv s
      rw [leave] at row
      refine ⟨_, exec_of_answer takes row (answerHold_of_feeder named op lv s.openChoice), ?_⟩
      exact (State.hold_departsTo (s := s.openChoice) ⟨group, member, course, none'⟩ part free result).around rfl rfl
    | holdLine l due sampled bound free part =>
      refine ⟨_, exec_lineAccepted_of_due due lv, State.asEvent_departsTo (fun k => ?_) _⟩
      have op : lineHoldOp (s.lines.get l).debounced false = some .take := by
        cases (s.lines.get l).debounced <;> rfl
      rw [State.acceptLine_of_hold (s := { s with link := k }) due bound sampled op]
      refine (State.hold_departsTo (s := State.setLine { s with link := k } l _)
        ⟨group, member, course, none'⟩ part free ?_).around rfl rfl
      change HoldOp.take.apply (s.holds.get f) ≠ 0
      rw [free]
      decide
    | holdBinding tag b code l takes line named low other old free part =>
      have e := answerLineMapWrite_of_codes line named lv s.openChoice
      rw [State.rebindLine_of_other (s := s.openChoice) other.symm] at e
      refine ⟨_, exec_of_answer takes rfl e, ?_⟩
      have lowBit : ((s.openChoice.lines.get l).debounced == some false) = true := beq_iff_eq.mpr low
      rw [lowBit, State.bindingHold_of_hold]
      obtain ⟨w, same⟩ : ∃ w, s.openChoice.setLine l ((s.openChoice.lines.get l).rebind (.hold f)) = w := ⟨_, rfl⟩
      rw [same]
      have holds : w.holds = s.holds := by rw [← same]; rfl
      have before : w.courseOf = s.courseOf := by rw [← same]; rfl
      have engages' : w.Engages f g := by rw [← same]; exact ⟨group, member, course, none'⟩
      have part' : w.participant f = true := by rw [← same]; exact part
      obtain ⟨v, dropped⟩ : ∃ v, w.bindingHold lv true (s.openChoice.lines.get l).binding .drop = v := ⟨_, rfl⟩
      have still : v = { w with holds := v.holds } := by
        rw [← dropped]
        by_cases held : ∃ k, (s.openChoice.lines.get l).binding = .hold k
        · obtain ⟨k, held⟩ := held
          have more : w.holds.get k ≠ 1 := holds ▸ old k held
          have counted : w.hold lv k .drop = w.counted k .drop := State.hold_of_still (by
            change _ ↔ w.holds.get k - 1 = 0
            omega)
          rw [held, State.bindingHold_of_hold, counted]
          rfl
        · rw [State.bindingHold_of_other fun k h => held ⟨k, h⟩]
      have free' : v.holds.get f = 0 := by
        rw [← dropped, State.bindingHold_holds, if_neg (fun h => other h.2), holds, free]
      have engages'' : v.Engages f g := by
        rw [still]
        exact ⟨engages'.group, engages'.member, engages'.course, engages'.none⟩
      have part'' : v.participant f = true := by rw [still]; exact part'
      rw [dropped]
      refine (State.hold_departsTo (op := .take) engages'' part'' free' (by rw [free']; decide)).around ?_ rfl
      rw [← before, still]
      rfl
  · unfold State.takeRefusal
    rw [group]
    simp only [Group.takesRefusal, member, Bool.true_or, if_true, State.refuse]
    rcases course with h | h <;> simp only [h] <;> rfl

end Sys2Proof.Machine
end

section
/-! SUPPORT. Grants at the sequencers and the groups (R86, R87, R96, R97, R136, R142), and O28. -/

namespace Sys2Proof.Machine

open Sys2Proof
open State (SeqOnly Course Grows)

/-! ## One feeder at a grant -/

/-- R96: a sequencer given a candidate grant. -/
def Sequencer.armed (q : Sequencer) (g : Globals) (m : Mode) : Sequencer :=
  if q.state = .standby then { q with state := .arming, mode := some m, releaseCause := none, timer := g.startTimer .arm }
  else q

/-- R97: a sequencer given a participant grant. -/
def Sequencer.moded (q : Sequencer) (m : Mode) : Sequencer := if q.state.engaged then { q with mode := some m } else q

/-- R101, R102: a sequencer sent a release request. -/
def Sequencer.asked (q : Sequencer) (g : Globals) (c : Cause) (opened : Bool) : Sequencer :=
  if q.state.engaged then q.released g c opened else q

theorem Sequencer.armed_armed (q : Sequencer) (g : Globals) (m : Mode) : (q.armed g m).armed g m = q.armed g m := by
  by_cases h : q.state = .standby <;> simp [Sequencer.armed, h]

theorem Sequencer.moded_moded (q : Sequencer) (m : Mode) : (q.moded m).moded m = q.moded m := by
  by_cases h : q.state.engaged = true <;> simp [Sequencer.moded, h]

theorem Sequencer.asked_asked (q : Sequencer) (g : Globals) (c : Cause) (opened : Bool) :
    (q.asked g c opened).asked g c opened = q.asked g c opened := by
  by_cases h : q.state.engaged = true
  · simp only [Sequencer.asked, h, if_true]
    rfl
  · simp [Sequencer.asked, h]

/-- What one unit's grant makes of the sequencer of a member. -/
def UnitGrant.atMember (u : UnitGrant) (g : Globals) (opened : Bool) (q : Sequencer) : Sequencer :=
  match u.candidate, u.grant.mode with
  | true, some m => q.armed g m
  | true, none => q
  | false, some m => q.moded m
  | false, none => q.asked g .starved opened

section
variable {s : State} {f : Feeder}

theorem State.candidateGrant_of_standby (h : (s.seq.get f).state = .standby) (m : Mode) : s.candidateGrant f m =
    { s with
      seq := s.seq.set f ((s.seq.get f).armed s.globals m)
      link := s.link.post (.feederState f .arming (s.seq.get f).phase (some m) none) } := by
  rw [Sequencer.armed, if_pos h]
  refine (if_pos h).trans ?_
  rw [State.postFeederState_setSeq]
  rfl

theorem State.candidateGrant_of_other (h : (s.seq.get f).state ≠ .standby) (m : Mode) : s.candidateGrant f m = s := if_neg h

theorem State.participantGrant_of_engaged (h : s.participant f = true) (m : Mode) : s.participantGrant f m =
    { s with
      seq := s.seq.set f ((s.seq.get f).moded m)
      detector := if (s.seq.get f).mode = some m then s.detector
        else s.detector.mapEntry f fun e => { e with lastMode := some m } } := by
  rw [Sequencer.moded, if_pos (show (s.seq.get f).state.engaged = true from h)]
  refine (if_pos h).trans ?_
  split
  · rfl
  · exact State.updateEntry_eq _ f _

theorem State.participantGrant_of_idle (h : s.participant f = false) (m : Mode) : s.participantGrant f m = s :=
  if_neg (by rw [← State.participant, h]; decide)

/-- A group-wide release goes no further than its feeder. -/
theorem State.release_of_group_wide {c : Cause} (h : c.refusal = none) (lv : Leave) : s.release lv f c = s.releaseAlone f c := by
  cases part : s.participant f with
  | false => rw [State.release_of_idle part, State.releaseAlone_of_idle part]
  | true => rw [State.release_eq part, State.depart_of_group_wide h]

theorem State.releaseAlone_view_self (c : Cause) : (s.releaseAlone f c).abandonView f =
    ((s.seq.get f).asked s.globals c s.eventOpen, s.globals, s.eventOpen) := by
  unfold Sequencer.asked
  cases part : s.participant f with
  | false =>
    rw [State.releaseAlone_of_idle part, if_neg (by rw [← State.participant, part]; decide)]
    rfl
  | true =>
    rw [State.releaseAlone_eq part, if_pos (by rw [← State.participant, part])]
    simp only [State.abandonView, Six.get_set_self]
    rfl

theorem State.candidateGrant_view_self (m : Mode) : (s.candidateGrant f m).abandonView f =
    ((s.seq.get f).armed s.globals m, s.globals, s.eventOpen) := by
  by_cases standby : (s.seq.get f).state = .standby
  · rw [State.candidateGrant_of_standby standby]
    simp only [State.abandonView, Six.get_set_self]
    rfl
  · rw [State.candidateGrant_of_other standby, Sequencer.armed, if_neg standby]
    rfl

theorem State.candidateGrant_view_other {h : Feeder} (other : h ≠ f) (m : Mode) :
    (s.candidateGrant h m).abandonView f = s.abandonView f := by
  by_cases standby : (s.seq.get h).state = .standby
  · rw [State.candidateGrant_of_standby standby]
    simp only [State.abandonView, Six.get_set_ne _ _ other.symm]
    rfl
  · rw [State.candidateGrant_of_other standby]

theorem State.participantGrant_view_self (m : Mode) : (s.participantGrant f m).abandonView f =
    ((s.seq.get f).moded m, s.globals, s.eventOpen) := by
  cases part : s.participant f with
  | false =>
    rw [State.participantGrant_of_idle part, Sequencer.moded, if_neg (by rw [← State.participant, part]; decide)]
    rfl
  | true =>
    rw [State.participantGrant_of_engaged part]
    by_cases same : (s.seq.get f).mode = some m
    · simp only [if_pos same, State.abandonView, Six.get_set_self]
      rfl
    · simp only [if_neg same, State.abandonView, Six.get_set_self]
      rfl

theorem State.participantGrant_view_other {h : Feeder} (other : h ≠ f) (m : Mode) :
    (s.participantGrant h m).abandonView f = s.abandonView f := by
  cases part : s.participant h with
  | false => rw [State.participantGrant_of_idle part]
  | true =>
    rw [State.participantGrant_of_engaged part]
    by_cases same : (s.seq.get h).mode = some m
    · simp only [if_pos same, State.abandonView, Six.get_set_ne _ _ other.symm]
      rfl
    · simp only [if_neg same, State.abandonView, Six.get_set_ne _ _ other.symm]
      rfl

theorem State.updateEntry_view (s : State) (h f : Feeder) (c : Entry → Entry) :
    (s.updateEntry h c).abandonView f = s.abandonView f := by
  rw [State.updateEntry_eq]
  rfl

end

/-! ## A unit's members -/

/-- Over any list of feeders, what shows of one feeder is its own step's work, if it is listed: a step that does nothing
the second time may come more than once. -/
theorem foldl_view_idem {α : Type} {step : State → Feeder → State} {f : Feeder} {view : State → α} {own : α → α}
    (apart : ∀ h s, h ≠ f → view (step s h) = view s) (mine : ∀ s, view (step s f) = own (view s))
    (idem : ∀ x, own (own x) = own x) (l : List Feeder) (s : State) :
    view (l.foldl step s) = if f ∈ l then own (view s) else view s := by
  induction l generalizing s with
  | nil => rfl
  | cons h l ih =>
    rw [List.foldl_cons, ih]
    by_cases same : h = f
    · subst same
      simp [mine, idem]
    · simp [Ne.symm same, apart h s same]

theorem State.starveGroup_view (s : State) (g : GroupNo) (f : Feeder) :
    (s.starveGroup g).abandonView f = s.abandonView f := by
  unfold State.starveGroup
  dsimp only
  split <;> rfl

/-- What a unit's grant makes of every feeder. -/
theorem State.deliverUnit_view (s : State) (u : UnitGrant) (f : Feeder) : (s.deliverUnit u).abandonView f =
    if f ∈ u.feeders then (u.atMember s.globals s.eventOpen (s.seq.get f), s.globals, s.eventOpen) else s.abandonView f := by
  unfold State.deliverUnit UnitGrant.atMember
  cases candidate : u.candidate <;> cases mode : u.grant.mode
  case true.none =>
    change s.abandonView f = if f ∈ u.feeders then s.abandonView f else s.abandonView f
    rw [ite_self]
  case true.some m =>
    have group (t : State) : (match u.group with | some g => t.engageGroup g u.feederSet | none => t).abandonView f =
        t.abandonView f := by cases u.group <;> rfl
    refine (group _).trans ((foldl_view_idem (view := fun t => t.abandonView f)
      (own := fun x => (x.1.armed x.2.1 m, x.2.1, x.2.2)) (fun h t other => ?_) (fun t => ?_) (fun x => ?_) u.feeders s))
    · exact (State.updateEntry_view _ h f _).trans (State.candidateGrant_view_other other m)
    · exact (State.updateEntry_view _ f f _).trans (State.candidateGrant_view_self m)
    · simp only [Sequencer.armed_armed]
  case false.some m =>
    refine foldl_view_idem (view := fun t => t.abandonView f) (own := fun x => (x.1.moded m, x.2.1, x.2.2))
      (fun h t other => State.participantGrant_view_other other m) (fun t => State.participantGrant_view_self m)
      (fun x => ?_) u.feeders s
    simp only [Sequencer.moded_moded]
  case false.none =>
    have members (t : State) : (u.feeders.foldl (fun s f => s.release .nothing f .starved) t).abandonView f =
        if f ∈ u.feeders then ((t.seq.get f).asked t.globals .starved t.eventOpen, t.globals, t.eventOpen)
        else t.abandonView f := by
      refine foldl_view_idem (view := fun t => t.abandonView f)
        (own := fun x => (x.1.asked x.2.1 .starved x.2.2, x.2.1, x.2.2)) (fun h t other => ?_) (fun t => ?_) (fun x => ?_)
        u.feeders t
      · rw [State.release_of_group_wide rfl]
        exact t.releaseAlone_view_other _ other
      · rw [State.release_of_group_wide rfl]
        exact State.releaseAlone_view_self _
      · simp only [Sequencer.asked_asked]
    change (State.deliverStarved s u).abandonView f = _
    unfold State.deliverStarved
    cases u.group with
    | none => exact members s
    | some g =>
      have told : (s.starveGroup g).abandonView f = s.abandonView f := s.starveGroup_view g f
      simp only [State.abandonView, Prod.mk.injEq] at told
      obtain ⟨seq, globals, opened⟩ := told
      refine (members _).trans ?_
      rw [seq, globals, opened, s.starveGroup_view g f]

theorem State.deliverUnit_seq (s : State) (u : UnitGrant) (f : Feeder) : (s.deliverUnit u).seq.get f =
    if f ∈ u.feeders then u.atMember s.globals s.eventOpen (s.seq.get f) else s.seq.get f := by
  refine (congrArg Prod.fst (s.deliverUnit_view u f)).trans ?_
  split <;> rfl

/-! ## The group of a unit -/

theorem State.releaseAlone_groupRequests (s : State) (f : Feeder) (c : Cause) :
    (s.releaseAlone f c).groupRequests = s.groupRequests := by
  cases part : s.participant f with
  | false => rw [State.releaseAlone_of_idle part]
  | true => rw [State.releaseAlone_eq part]

theorem Six.ext_get {α : Type} {v w : Six α} (h : ∀ f, v.get f = w.get f) : v = w := by
  obtain ⟨a1, a2, a3, a4, a5, a6⟩ := v
  obtain ⟨b1, b2, b3, b4, b5, b6⟩ := w
  rw [show a1 = b1 from h .f1, show a2 = b2 from h .f2, show a3 = b3 from h .f3, show a4 = b4 from h .f4,
    show a5 = b5 from h .f5, show a6 = b6 from h .f6]

theorem State.starveGroup_groups (s : State) (g : GroupNo) :
    ((s.groups.get g).state = .engaging ∨ (s.groups.get g).state = .active → (s.starveGroup g).groups =
      s.groups.set g { s.groups.get g with state := .abandoned, abandonCause := some .starved }) ∧
    ((s.groups.get g).state = .abandoned ∨ (s.groups.get g).state = .idle → (s.starveGroup g).groups = s.groups) ∧
    (s.starveGroup g).groupRequests = s.groupRequests := by
  unfold State.starveGroup
  cases h : (s.groups.get g).state <;> simp [h, State.setGroup]

/-- R142: a participant unit of a group granted NONE. -/
theorem State.deliverStarved_groups {u : UnitGrant} {g : GroupNo} (group : u.group = some g) (s : State) :
    (s.deliverStarved u).groups = (s.starveGroup g).groups ∧ (s.deliverStarved u).groupRequests = s.groupRequests := by
  unfold State.deliverStarved
  rw [group]
  refine foldl_keeps (P := fun t : State => t.groups = (s.starveGroup g).groups ∧ t.groupRequests = s.groupRequests)
    (fun f t kept => ?_) u.feeders _ ⟨rfl, (s.starveGroup_groups g).2.2⟩
  obtain ⟨groups, requests⟩ := kept
  rw [State.release_of_group_wide rfl]
  exact ⟨(t.releaseAlone_groups f _).trans groups, (t.releaseAlone_groupRequests f _).trans requests⟩

/-- R136: a group engaged with members none of which is INJECTING. -/
theorem State.engageGroup_groups {s : State} {g : GroupNo} {e : FeederSet} {f : Feeder} (member : e.get f = true)
    (none' : ∀ h, e.get h = true → (s.seq.get h).state ≠ .injecting) : (s.engageGroup g e).groups =
      s.groups.set g { s.groups.get g with
        state := .engaging, engaged := e, acknowledged := .empty, refused := .empty, abandonCause := none } := by
  have acknowledged : (Six.of fun h => e.get h && (s.seq.get h).state == .injecting : FeederSet) = FeederSet.empty := by
    refine Six.ext_get fun h => ?_
    rw [Six.get_of, FeederSet.empty, Six.get_all]
    cases inside : e.get h with
    | false => rfl
    | true => rw [Bool.true_and]; exact beq_eq_false_iff_ne.mpr (none' h inside)
  have others : FeederSet.empty ≠ e := fun h => by
    rw [← h, FeederSet.empty, Six.get_all] at member
    exact absurd member (by decide)
  change s.groups.set g (Group.settle _) = _
  rw [acknowledged, Group.settle, if_neg (fun h => others h.2)]

theorem UnitGrant.feederSet_eq (u : UnitGrant) :
    u.feederSet = Six.of fun f => decide (f ∈ u.members.map (·.feeder)) := by
  unfold UnitGrant.feederSet UnitGrant.feeders
  exact congrArg Six.of (funext fun f => List.contains_eq_mem f _)

theorem State.deliverUnit_seqOnly (s : State) (u : UnitGrant) : SeqOnly s (s.deliverUnit u) := by
  unfold State.deliverUnit
  split
  · next m _ _ =>
    unfold State.deliverCandidate
    have members := foldl_rel (R := SeqOnly) SeqOnly.refl SeqOnly.trans
      (step := fun s f => (s.candidateGrant f m).updateEntry f fun e => e.engage m)
      (fun f t => (t.candidateGrant_seqOnly f m).trans (State.updateEntry_seqOnly _ f _)) u.feeders s
    cases u.group with
    | none => exact members
    | some g => exact members.trans (State.engageGroup_seqOnly _ g _)
  · exact SeqOnly.refl s
  · next m _ _ => exact foldl_rel SeqOnly.refl SeqOnly.trans (fun f t => t.participantGrant_seqOnly f m) u.feeders s
  · unfold State.deliverStarved
    have members := foldl_rel (R := SeqOnly) SeqOnly.refl SeqOnly.trans
      (step := fun s f => s.release .nothing f .starved) (fun f t => t.release_seqOnly _ f _) u.feeders
    cases u.group with
    | none => exact members s
    | some g => exact (s.starveGroup_seqOnly g).trans (members _)

/-! ## A unit delivered, by its kind -/

section
variable {s : State} {u : UnitGrant} {f : Feeder} {m : Mode}

theorem State.deliverUnit_of_candidate (candidate : u.candidate = true) (mode : u.grant.mode = some m) :
    s.deliverUnit u = s.deliverCandidate u m := by simp [State.deliverUnit, candidate, mode]

theorem State.deliverUnit_of_refused (candidate : u.candidate = true) (mode : u.grant.mode = none) :
    s.deliverUnit u = s := by simp [State.deliverUnit, candidate, mode]

theorem State.deliverUnit_of_participant (candidate : u.candidate = false) (mode : u.grant.mode = some m) :
    s.deliverUnit u = u.feeders.foldl (fun s f => s.participantGrant f m) s := by
  simp [State.deliverUnit, candidate, mode]

theorem State.deliverUnit_of_starved (candidate : u.candidate = false) (mode : u.grant.mode = none) :
    s.deliverUnit u = s.deliverStarved u := by simp [State.deliverUnit, candidate, mode]

end

/-- R136: a candidate unit of a group whose members stand by, granted a mode. -/
theorem State.deliverCandidate_groups {s : State} {u : UnitGrant} {g : GroupNo} (group : u.group = some g)
    (nonempty : u.members ≠ []) (standby : ∀ d ∈ u.members, (s.seq.get d.feeder).state = .standby) (m : Mode) :
    (s.deliverCandidate u m).groups = s.groups.set g { s.groups.get g with
      state := .engaging, engaged := u.feederSet, acknowledged := .empty, refused := .empty, abandonCause := none } := by
  obtain ⟨d, inside⟩ := List.exists_mem_of_ne_nil _ nonempty
  have listed (h : Feeder) : u.feederSet.get h = true ↔ h ∈ u.feeders := by simp [UnitGrant.feederSet]
  obtain ⟨w, granted⟩ : ∃ w, u.feeders.foldl (fun s f => (s.candidateGrant f m).updateEntry f fun e => e.engage m) s = w :=
    ⟨_, rfl⟩
  have groups : w.groups = s.groups := by
    rw [← granted]
    exact foldl_keeps (P := fun t => t.groups = s.groups) (fun f t kept => by simpa using kept) u.feeders s rfl
  have armed (h : Feeder) (inside : h ∈ u.feeders) : (w.seq.get h).state = .arming := by
    obtain ⟨d, member, rfl⟩ := List.mem_map.mp inside
    have view := foldl_view_idem (view := fun t => t.abandonView d.feeder)
      (step := fun s f => (s.candidateGrant f m).updateEntry f fun e => e.engage m)
      (own := fun x => (x.1.armed x.2.1 m, x.2.1, x.2.2))
      (fun h t other => (State.updateEntry_view _ h _ _).trans (State.candidateGrant_view_other other m))
      (fun t => (State.updateEntry_view _ _ _ _).trans (State.candidateGrant_view_self m))
      (fun x => by simp only [Sequencer.armed_armed]) u.feeders s
    rw [granted, if_pos inside] at view
    have seq : w.seq.get d.feeder = (s.seq.get d.feeder).armed s.globals m := congrArg Prod.fst view
    rw [seq, Sequencer.armed, if_pos (standby d member)]
  unfold State.deliverCandidate
  simp only [group, granted]
  rw [State.engageGroup_groups ((listed d.feeder).mpr (List.mem_map_of_mem inside)) (fun h member => by
    rw [armed h ((listed h).mp member)]
    decide), groups]

/-- Settles O28. -/
theorem grantsReachTheSequencer : Obligations.GrantsReachTheSequencer := by
  refine ⟨fun s u f ungrouped members group => ?_, fun s u g grouped nonempty => ?_⟩
  · intro q t
    have feeders : u.feeders = [f] := members
    have own : t.seq.get f = u.atMember s.globals s.eventOpen q := by rw [State.deliverUnit_seq, feeders, if_pos (by simp)]
    have part (engaged : q.state = .arming ∨ q.state = .injecting) : s.participant f = true :=
      (s.participant_iff f).mpr engaged
    refine ⟨fun h other => ?_, (s.deliverUnit_seqOnly u).butCourse, fun m candidate mode standby => ⟨?_, ?_⟩,
      fun m candidate mode engaged => ⟨?_, ?_⟩, fun candidate grant engaged => ⟨?_, ?_⟩, fun candidate grant =>
        State.deliverUnit_of_refused candidate (by rw [grant]; rfl)⟩
    · rw [State.deliverUnit_seq, feeders, if_neg (by simpa using other)]
    · rw [own, UnitGrant.atMember, candidate, mode]
      exact if_pos standby
    · change (s.deliverUnit u).link = _
      rw [State.deliverUnit_of_candidate candidate mode]
      unfold State.deliverCandidate
      simp only [ungrouped, feeders, List.foldl_cons, List.foldl_nil]
      rw [State.updateEntry_link, State.candidateGrant_of_standby standby]
    · rw [own, UnitGrant.atMember, candidate, mode]
      exact if_pos (part engaged)
    · change (s.deliverUnit u).link = _
      rw [State.deliverUnit_of_participant candidate mode, feeders, List.foldl_cons, List.foldl_nil,
        State.participantGrant_of_engaged (part engaged)]
    · rw [own, UnitGrant.atMember, candidate, grant]
      exact if_pos (part engaged)
    · change (s.deliverUnit u).link = _
      rw [State.deliverUnit_of_starved candidate (by rw [grant]; rfl)]
      unfold State.deliverStarved
      simp only [ungrouped, feeders, List.foldl_cons, List.foldl_nil]
      rw [State.release_of_group_wide rfl, State.releaseAlone_eq (part engaged)]
  · intro t r inUnit
    have own (d : Forecast) (inside : d ∈ u.members) :
        t.seq.get d.feeder = u.atMember s.globals s.eventOpen (s.seq.get d.feeder) := by
      have listed : d.feeder ∈ u.feeders := List.mem_map_of_mem inside
      rw [State.deliverUnit_seq, if_pos listed]
    refine ⟨fun m candidate mode standby => ⟨?_, fun d inside => ?_⟩, fun candidate grant => ?_⟩
    · change (s.deliverUnit u).groups = _
      rw [State.deliverUnit_of_candidate candidate mode, State.deliverCandidate_groups grouped nonempty standby,
        UnitGrant.feederSet_eq]
    · rw [own d inside, UnitGrant.atMember, candidate, mode]
      simp [Sequencer.armed, standby d inside]
    · have starved : t = s.deliverStarved u := State.deliverUnit_of_starved candidate (by rw [grant]; rfl)
      obtain ⟨groups, requests⟩ := State.deliverStarved_groups grouped s
      obtain ⟨engaged, still, -⟩ := s.starveGroup_groups g
      rw [starved, groups]
      refine ⟨engaged, still, requests, fun d inside part => ?_⟩
      rw [← starved, own d inside, UnitGrant.atMember, candidate, grant]
      have asked : (s.seq.get d.feeder).asked s.globals .starved s.eventOpen = _ := if_pos part
      simp only [Grant.mode, asked]
      exact ⟨rfl, rfl⟩

end Sys2Proof.Machine
end

section
/-! SUPPORT. Loading an image (R181 to R183, R133): the items of a good image and the values they give. -/

namespace Sys2Proof.Machine

open Sys2Proof

/-! ## The ranges of the loaded settings (R29, R67, R182) -/

/-- What loading a global setting from an item, or from none, makes of it: a number the nearest of its range, an
enumeration in its set as it is, and what is absent its default, but for the settings that clamps on others may move. -/
structure SettingId.Loads (id : SettingId) (g : Globals) (item : Option Nat) (value dflt : Nat) : Prop where
  number : ∀ low high, id.range g = some (low, high) →
    low ≤ value ∧ value ≤ high ∧ ∀ n, item = some n → value = max low (min high n)
  name : ∀ n, item = some n → id.range g = none → value = if id.valueInSet n then n else dflt
  absent : item = none → id ≠ .onsetLevel → id ≠ .storeRated → id ≠ .storeMax → value = dflt

section
variable {id : SettingId} {g : Globals} {item : Option Nat} {value dflt low high : Nat}

theorem SettingId.Loads.of_range (range : id.range g = some (low, high)) (bounds : low ≤ value ∧ value ≤ high)
    (given : ∀ n, item = some n → value = max low (min high n))
    (absent : item = none → id ≠ .onsetLevel → id ≠ .storeRated → id ≠ .storeMax → value = dflt) :
    id.Loads g item value dflt := by
  refine ⟨fun low' high' same => ?_, fun n _ none' => absurd (range.symm.trans none') nofun, absent⟩
  cases range.symm.trans same
  exact ⟨bounds.1, bounds.2, given⟩

theorem loadNumber_eq (clamp : ∀ n, Globals.default.clampSetting id n = clampNat low high n) :
    loadNumber id item dflt = match item with
      | some n => clampNat low high n
      | none => dflt := by
  unfold loadNumber
  cases item with
  | none => rfl
  | some n => exact clamp n

/-- R182: a number whose range depends on no other setting. -/
theorem SettingId.Loads.of_number (range : id.range g = some (low, high))
    (clamp : ∀ n, Globals.default.clampSetting id n = clampNat low high n) (le : low ≤ high)
    (inside : low ≤ dflt ∧ dflt ≤ high) : id.Loads g item (loadNumber id item dflt) dflt := by
  rw [loadNumber_eq clamp]
  cases item with
  | none => exact .of_range range inside nofun (fun _ _ _ _ => rfl)
  | some n =>
    refine .of_range range (clampNat_bounds le) (fun k same => ?_) nofun
    cases same
    exact clampNat_eq le n

/-- R182: an enumeration, read by its codes. -/
theorem SettingId.Loads.of_name {α : Type} {ofCode : Nat → Option α} {code : α → Nat} {d : α} (range : id.range g = none)
    (codes : ∀ n a, ofCode n = some a → code a = n) (inSet : ∀ n, id.valueInSet n = (ofCode n).isSome) :
    id.Loads g item (code (loadName ofCode item d)) (code d) := by
  refine ⟨fun _ _ some' => absurd (range.symm.trans some') nofun, fun n given _ => ?_, fun absent _ _ _ => ?_⟩
  · subst given
    rw [inSet]
    unfold loadName
    rw [Option.bind_some]
    cases named : ofCode n with
    | none => rfl
    | some a => exact codes n a named
  · subst absent
    rfl

end

/-- R29, R182: the two levels of a loaded image. -/
theorem loadGlobals_levels (v : Nat → Option Nat) :
    SettingId.onsetLevel.Loads (loadGlobals v) (v 0x03) (loadGlobals v).onsetLevel Globals.default.onsetLevel ∧
    SettingId.recoveryLevel.Loads (loadGlobals v) (v 0x04) (loadGlobals v).recoveryLevel Globals.default.recoveryLevel := by
  obtain ⟨h1, h2, h3, -⟩ := loadGlobals_wf v
  refine ⟨.of_range rfl (by omega) (fun n given => ?_) (fun _ ne => absurd rfl ne),
    .of_range rfl (by omega) (fun n given => ?_) (fun absent _ _ _ => ?_)⟩
  · simp only [loadGlobals, given, Option.getD_some, clampNat]
    omega
  · simp only [loadGlobals, given, Option.getD_some, clampNat]
    omega
  · simp only [loadGlobals, absent]
    decide

/-- R67, R182: the store voltages of a loaded image. -/
theorem loadGlobals_store (v : Nat → Option Nat) :
    SettingId.storeFloor.Loads (loadGlobals v) (v 0x0B) (loadGlobals v).storeFloor Globals.default.storeFloor ∧
    SettingId.storeRated.Loads (loadGlobals v) (v 0x0C) (loadGlobals v).storeRated Globals.default.storeRated ∧
    SettingId.storeMax.Loads (loadGlobals v) (v 0x0E) (loadGlobals v).storeMax Globals.default.storeMax := by
  obtain ⟨-, -, -, h4, h5, h6, h7⟩ := loadGlobals_wf v
  have floor : (loadGlobals v).storeFloor ≤ 1100 := (clampNat_bounds (by decide)).2
  refine ⟨.of_range rfl (by omega) (fun n given => ?_) (fun absent _ _ _ => ?_),
    .of_range rfl (by omega) (fun n given => ?_) (fun _ _ ne => absurd rfl ne),
    .of_range rfl (by omega) (fun n given => ?_) (fun _ _ _ ne => absurd rfl ne)⟩
  · simp only [loadGlobals, given, Option.getD_some, clampNat]
    omega
  · simp only [loadGlobals, absent]
    decide
  · simp only [loadGlobals, given, Option.getD_some, clampNat]
    omega
  · simp only [loadGlobals, given, Option.getD_some, clampNat]
    omega

/-- R29, R67, R182: every global setting of a loaded image. -/
theorem loadGlobals_loads (v : Nat → Option Nat) {k : Nat} {id : SettingId} (named : SettingId.ofCode? k = some id)
    (global : id.perFeeder = false) : id.Loads (loadGlobals v) (v k)
      (State.settingValue { State.reset with globals := loadGlobals v } id .f1) (State.reset.settingValue id .f1) := by
  unfold SettingId.ofCode? at named
  split at named <;> cases named
  case h_1 =>
    exact .of_name (α := LineFreq) (code := LineFreq.code) rfl (fun n a h => (LineFreq.ofCode?_eq_some.mp h).symm)
      fun _ => rfl
  case h_17 =>
    exact .of_name (α := Policy) (code := Policy.code) rfl (fun n a h => Policy.ofCode?_eq_some h) fun _ => rfl
  case h_3 => exact (loadGlobals_levels v).1
  case h_4 => exact (loadGlobals_levels v).2
  case h_11 => exact (loadGlobals_store v).1
  case h_12 => exact (loadGlobals_store v).2.1
  case h_14 => exact (loadGlobals_store v).2.2
  case h_2 | h_5 | h_6 | h_7 | h_8 | h_9 | h_10 | h_13 | h_15 | h_16 | h_18 | h_19 | h_20 | h_21 | h_22 =>
    exact .of_number rfl (fun _ => rfl) (by decide) (by decide)
  all_goals exact absurd global (by decide)

theorem loadNumber_le {id : SettingId} {dflt low high : Nat} (item : Option Nat)
    (clamp : ∀ n, Globals.default.clampSetting id n = clampNat low high n) (le : low ≤ high)
    (inside : low ≤ dflt ∧ dflt ≤ high) : low ≤ loadNumber id item dflt ∧ loadNumber id item dflt ≤ high := by
  rw [loadNumber_eq clamp]
  cases item with
  | none => exact inside
  | some n => exact clampNat_bounds le

theorem loadBankEntry_level (m : List Host.Cell) (b : Bank) (f : Feeder) : (loadBankEntry m b f).level ≤ 3 := by
  unfold loadBankEntry
  split
  · exact (clampNat_bounds (by decide)).2
  · decide

theorem loadClass_wf (m : List Host.Cell) (c : ClassNo) : (loadClass m c).wf := by
  unfold loadClass
  split
  · exact EnvClass.load_wf _
  · exact ClassTable.default_wf c

theorem loadGroup_level (m : List Host.Cell) (placed : FeederSet) (g : GroupNo) : (loadGroup m placed g).level ≤ 3 := by
  unfold loadGroup
  split
  · exact (clampNat_bounds (by decide)).2
  · decide

/-- Settles O7. -/
theorem loadedSettingsLieInTheirRanges : Obligations.LoadedSettingsLieInTheirRanges := by
  refine ⟨fun v => ?_, fun m => ⟨fun f => ?_, loadClass_wf m, fun g => ?_⟩⟩
  · intro g value dflt
    refine ⟨loadGlobals_wf v, (clampNat_bounds (by decide)).2, fun k id named global => ?_⟩
    obtain ⟨number, name, absent⟩ := loadGlobals_loads v named global
    exact ⟨number, name, absent⟩
  · have limit := loadNumber_le (id := .injLimit) (itemHalf m (51 + 8 * (f.number - 1) + 1)) (fun _ => rfl) (by decide)
      (show 0 ≤ FeederSettings.default.injLimit ∧ FeederSettings.default.injLimit ≤ 2047 by decide)
    have scale := loadNumber_le (id := .energyScale) (itemHalf m (51 + 8 * (f.number - 1) + 3)) (fun _ => rfl) (by decide)
      (show 1 ≤ FeederSettings.default.energyScale ∧ FeederSettings.default.energyScale ≤ 65535 by decide)
    have forecast := loadNumber_le (id := .onsetForecast) (itemHalf m (51 + 8 * (f.number - 1) + 5)) (fun _ => rfl)
      (by decide) (show 1 ≤ FeederSettings.default.onsetForecast ∧ FeederSettings.default.onsetForecast ≤ 65535 by decide)
    exact ⟨limit.2, scale.1, scale.2, forecast.1, forecast.2, fun b => loadBankEntry_level m b f⟩
  · cases g <;> exact loadGroup_level m _ _

end Sys2Proof.Machine
end

section
/-! SUPPORT. The items of an image (R181, R182, R191), and O6 (R183). -/

namespace Sys2Proof.Machine

open Sys2Proof
open State (Grows)

/-! ## Items (R182, R191) -/

section
variable {m : List Host.Cell}

theorem itemByte_eq (m : List Host.Cell) (k : Nat) :
    itemByte m k = if k + 1 ≤ imageTotal m then some (memRead m k).toNat else none := by
  unfold itemByte imageItem
  by_cases inside : k + 1 ≤ imageTotal m
  · simp only [if_pos inside]
    rfl
  · simp only [if_neg inside]

theorem itemHalf_eq (m : List Host.Cell) (k : Nat) : itemHalf m k =
    if k + 2 ≤ imageTotal m then some (256 * (memRead m k).toNat + (memRead m (k + 1)).toNat) else none := by
  unfold itemHalf imageItem
  by_cases inside : k + 2 ≤ imageTotal m
  · simp only [if_pos inside, Nat.mul_comm 256]
    rfl
  · simp only [if_neg inside]

theorem imageTotal_eq (m : List Host.Cell) :
    imageTotal m = 256 * (memRead m 2).toNat + (memRead m 3).toNat := by
  rw [Nat.mul_comm]
  rfl

theorem imageGood_iff (m : List Host.Cell) : imageGood m = true ↔
    (memRead m 0).toNat = 0x5A ∧ (memRead m 1).toNat = 0xC3 ∧ 16 ≤ imageTotal m ∧ imageTotal m ≤ 4096 ∧
      (crc16 (memLoad m 6 (imageTotal m - 6))).toNat = 256 * (memRead m 4).toNat + (memRead m 5).toNat := by
  have marker (b c : Byte) : (b == c) = true ↔ b.toNat = c.toNat := beq_iff_eq.trans BitVec.toNat_inj.symm
  have half : imageHalf m 4 = 256 * (memRead m 4).toNat + (memRead m 5).toNat := by
    rw [Nat.mul_comm]
    rfl
  unfold imageGood
  rw [half]
  simp only [Bool.and_eq_true, marker, decide_eq_true_eq, beq_iff_eq]
  constructor
  · rintro ⟨⟨⟨first, second⟩, long, short⟩, check⟩
    exact ⟨first, second, long, short, check⟩
  · rintro ⟨first, second, long, short, check⟩
    exact ⟨⟨⟨first, second⟩, long, short⟩, check⟩

theorem loadName_truth (v : Option Nat) : loadName truthOf? v false = decide (v = some 1) := by
  cases v with
  | none => rfl
  | some n =>
    match n with
    | 0 => rfl
    | 1 => rfl
    | n + 2 => simp [loadName, truthOf?]

/-! ## Feeders and bank entries -/

theorem itemHalf_lt {k n : Nat} (h : itemHalf m k = some n) : n < 65536 := by
  rw [itemHalf_eq] at h
  split at h <;> cases h
  have := (memRead m k).isLt
  have := (memRead m (k + 1)).isLt
  omega

theorem loadNumber_one {id : SettingId} {dflt : Nat} (clamp : ∀ n, Globals.default.clampSetting id n = clampNat 1 65535 n)
    (k : Nat) : loadNumber id (itemHalf m k) dflt = ((itemHalf m k).map fun n => max n 1).getD dflt := by
  rw [loadNumber_eq clamp]
  cases item : itemHalf m k with
  | none => rfl
  | some n =>
    have := itemHalf_lt item
    change clampNat 1 65535 n = max n 1
    unfold clampNat
    omega

theorem loadFeeder_eq (m : List Host.Cell) (f : Feeder) : loadFeeder m f =
    { enabled := decide (itemByte m (51 + 8 * (f.number - 1)) = some 1)
      injLimit := ((itemHalf m (51 + 8 * (f.number - 1) + 1)).map fun n => min n 2047).getD 800
      energyScale := ((itemHalf m (51 + 8 * (f.number - 1) + 3)).map fun n => max n 1).getD 194
      onsetForecast := ((itemHalf m (51 + 8 * (f.number - 1) + 5)).map fun n => max n 1).getD 10
      startHeld := decide (itemByte m (51 + 8 * (f.number - 1) + 7) = some 1) } := by
  have limit (v : Option Nat) : loadNumber .injLimit v 800 = (v.map fun n => min n 2047).getD 800 := by
    cases v with
    | none => rfl
    | some n => exact clampNat_zero 2047 n
  unfold loadFeeder
  simp only [FeederSettings.default, loadName_truth, limit, loadNumber_one (id := .energyScale) (fun _ => rfl),
    loadNumber_one (id := .onsetForecast) (fun _ => rfl)]

theorem ClassNo.named_number (n : Nat) : (loadName ClassNo.ofNumber? (some n) .c0).number = if n < 8 then n else 0 := by
  match n with
  | 0 | 1 | 2 | 3 | 4 | 5 | 6 | 7 => rfl
  | n + 8 =>
    rw [if_neg (by omega)]
    rfl

theorem loadBankEntry_of_short {b : Bank} {f : Feeder}
    (h : imageTotal m < 291 + 12 * b.number + 2 * (f.number - 1) + 2) : loadBankEntry m b f = ⟨.c0, 3⟩ := by
  unfold loadBankEntry imageItem
  rw [if_neg (by omega)]

theorem loadBankEntry_of_item {b : Bank} {f : Feeder}
    (h : 291 + 12 * b.number + 2 * (f.number - 1) + 2 ≤ imageTotal m) :
    (loadBankEntry m b f).cls.number = (if (memRead m (291 + 12 * b.number + 2 * (f.number - 1))).toNat < 8 then
        (memRead m (291 + 12 * b.number + 2 * (f.number - 1))).toNat else 0) ∧
      (loadBankEntry m b f).level = min (memRead m (291 + 12 * b.number + 2 * (f.number - 1) + 1)).toNat 3 := by
  unfold loadBankEntry imageItem
  rw [if_pos h]
  exact ⟨ClassNo.named_number _, clampNat_zero 3 _⟩

/-! ## Groups (R133) -/

/-- The feeders that the groups before a group have taken. -/
def placedBefore (m : List Host.Cell) : GroupNo → FeederSet
  | .g1 => FeederSet.empty
  | .g2 => (loadGroups m).g1.members
  | .g3 => FeederSet.union (loadGroups m).g1.members (loadGroups m).g2.members
  | .g4 => FeederSet.union (FeederSet.union (loadGroups m).g1.members (loadGroups m).g2.members) (loadGroups m).g3.members

theorem loadGroups_get (m : List Host.Cell) (g : GroupNo) :
    (loadGroups m).get g = loadGroup m (placedBefore m g) g := by cases g <;> rfl

theorem placedBefore_get (m : List Host.Cell) (g : GroupNo) (f : Feeder) : (placedBefore m g).get f = false ↔
    ∀ h, h.number < g.number → ((loadGroups m).get h).members.get f = false := by
  have all (P : GroupNo → Prop) : (∀ h, P h) ↔ P .g1 ∧ P .g2 ∧ P .g3 ∧ P .g4 :=
    ⟨fun h => ⟨h _, h _, h _, h _⟩, fun ⟨h1, h2, h3, h4⟩ h => by cases h <;> assumption⟩
  rw [all]
  cases g <;> simp [placedBefore, FeederSet.union, FeederSet.empty, GroupNo.number, Four.get, and_assoc]

theorem loadGroup_of_short {g : GroupNo} (h : imageTotal m < 267 + 3 * (g.number - 1) + 3) (placed : FeederSet) :
    loadGroup m placed g = Group.default := by
  unfold loadGroup imageItem
  rw [if_neg (by omega)]

theorem loadGroup_of_item {g : GroupNo} (h : 267 + 3 * (g.number - 1) + 3 ≤ imageTotal m) (placed : FeederSet) :
    loadGroup m placed g = { Group.default with
      members := Six.of fun f => (setOf (memRead m (267 + 3 * (g.number - 1)))).get f && !placed.get f
      level := min (memRead m (267 + 3 * (g.number - 1) + 1)).toNat 3
      requireAll := decide ((memRead m (267 + 3 * (g.number - 1) + 2)).toNat = 1) } := by
  unfold loadGroup imageItem
  rw [if_pos h]
  have truth := loadName_truth (some (memRead m (267 + 3 * (g.number - 1) + 2)).toNat)
  rw [show (decide (some (memRead m (267 + 3 * (g.number - 1) + 2)).toNat = some 1)) =
    decide ((memRead m (267 + 3 * (g.number - 1) + 2)).toNat = 1) by simp] at truth
  simp only [memLoad, clampNat_zero, truth]

/-! ## Classes (R33) -/

/-- A cut list is a beginning of the list, ended by the first limit that is not greater than the one before it. -/
theorem cutAscending_take (l : List Segment) (p : Option Nat) : cutAscending p l = l.take (cutAscending p l).length ∧
    ∀ g, l[(cutAscending p l).length]? = some g →
      ∃ q, (if (cutAscending p l).length = 0 then p else (l[(cutAscending p l).length - 1]?).map (·.limit)) = some q ∧
        g.limit ≤ q := by
  induction l generalizing p with
  | nil => cases p <;> simp [cutAscending]
  | cons x rest ih =>
    have keeps : cutAscending p (x :: rest) = x :: cutAscending (some x.limit) rest ∨
        ∃ q, p = some q ∧ x.limit ≤ q ∧ cutAscending p (x :: rest) = [] := by
      cases p with
      | none => exact .inl rfl
      | some q =>
        by_cases h : q < x.limit
        · exact .inl (by simp [cutAscending, h])
        · exact .inr ⟨q, rfl, not_lt.mp h, by simp [cutAscending, h]⟩
    rcases keeps with keeps | ⟨q, rfl, le, empty⟩
    · obtain ⟨take, ends⟩ := ih (some x.limit)
      rw [keeps, List.length_cons]
      refine ⟨by rw [List.take_succ_cons, ← take], fun g here => ?_⟩
      obtain ⟨q, previous, le⟩ := ends g (by simpa using here)
      refine ⟨q, ?_, le⟩
      rw [if_neg (Nat.succ_ne_zero _), Nat.add_sub_cancel, ← previous]
      split
      · next zero => simp [zero]
      · next more =>
        obtain ⟨n, eq⟩ := Nat.exists_eq_succ_of_ne_zero more
        simp [eq]
    · rw [empty]
      refine ⟨rfl, fun g here => ⟨q, rfl, ?_⟩⟩
      cases here
      exact le

theorem segmentsOf_memLoad (m : List Host.Cell) (n offset i : Nat) (h : i < n) :
    (segmentsOf (memLoad m offset (3 * n)))[i]? = some ⟨(memRead m (offset + 3 * i)).toNat,
      256 * (memRead m (offset + 3 * i + 1)).toNat + (memRead m (offset + 3 * i + 2)).toNat⟩ := by
  induction n generalizing offset i with
  | zero => omega
  | succ n ih =>
    have unfolded : segmentsOf (memLoad m offset (3 * (n + 1))) =
        ⟨(memRead m offset).toNat, halfValue (memRead m (offset + 1)) (memRead m (offset + 2))⟩ ::
          segmentsOf (memLoad m (offset + 3) (3 * n)) := rfl
    rw [unfolded]
    cases i with
    | zero =>
      rw [List.getElem?_cons_zero, halfValue, Nat.mul_comm]
      rfl
    | succ i =>
      rw [List.getElem?_cons_succ, ih (offset + 3) i (by omega)]
      rw [show offset + 3 + 3 * i = offset + 3 * (i + 1) by omega]

/-- R33: the duration limit of a slot of a class record, clamped. -/
def slotLimit (m : List Host.Cell) (base i : Nat) : Nat := max 1 (min (memRead m (base + 3 + 3 * i)).toNat 250)

/-- R32, R33: a class record's segments with their ranges clamped, before the list is cut. -/
def slotSegments (m : List Host.Cell) (base : Nat) : List Segment :=
  (EnvClass.clampRanges ⟨0, ((segmentsOf (memLoad m (base + 3) 18)).take (memRead m (base + 2)).toNat).take 6⟩).segments

theorem slotSegments_length (m : List Host.Cell) (base : Nat) :
    (slotSegments m base).length = min (memRead m (base + 2)).toNat 6 := by
  have six := segmentsOf_length 6 (memLoad m (base + 3) 18) (by rw [memLoad_eq_map]; simp)
  simp only [slotSegments, EnvClass.clampRanges, List.length_map, List.length_take, six]
  omega

theorem slotSegments_get {base i : Nat} (h : i < min (memRead m (base + 2)).toNat 6) : (slotSegments m base)[i]? =
    some ⟨slotLimit m base i,
      min (256 * (memRead m (base + 4 + 3 * i)).toNat + (memRead m (base + 5 + 3 * i)).toNat) 1000⟩ := by
  have raw := segmentsOf_memLoad m 6 (base + 3) i (by omega)
  simp only [slotSegments, EnvClass.clampRanges, List.getElem?_map, List.getElem?_take, raw,
    if_pos (show i < 6 by omega), if_pos (show i < (memRead m (base + 2)).toNat by omega), Option.map_some, clampNat_zero]
  rw [clampNat_eq (by decide), slotLimit, Nat.min_comm 250, show base + 3 + 3 * i + 1 = base + 4 + 3 * i by omega,
    show base + 3 + 3 * i + 2 = base + 5 + 3 * i by omega]

theorem loadClass_of_short {c : ClassNo} (h : imageTotal m < 99 + 21 * c.number + 21) :
    loadClass m c = if c = .c0 then ⟨850, []⟩ else ⟨1000, []⟩ := by
  unfold loadClass imageItem
  rw [if_neg (by omega)]
  cases c <;> rfl

/-- R33: a class record that lies within the image. -/
theorem loadClass_of_item {c : ClassNo} (h : 99 + 21 * c.number + 21 ≤ imageTotal m) : loadClass m c =
    ⟨clampNat 500 1000 (halfValue (memRead m (99 + 21 * c.number)) (memRead m (99 + 21 * c.number + 1))),
      clampFloors (clampNat 500 1000 (halfValue (memRead m (99 + 21 * c.number)) (memRead m (99 + 21 * c.number + 1)))) 0
        (cutAscending none (slotSegments m (99 + 21 * c.number)))⟩ := by
  unfold loadClass imageItem
  rw [if_pos h]
  rfl

/-- R33: the segments of a class record within the image: cut at the first limit that does not ascend, each floor raised to
the one before it and lowered to the immunity. -/
theorem loadClass_segments {c : ClassNo} (h : 99 + 21 * c.number + 21 ≤ imageTotal m) :
    let base := 99 + 21 * c.number
    let count := min (memRead m (base + 2)).toNat 6
    let k := loadClass m c
    k.immunity = max 500 (min (256 * (memRead m base).toNat + (memRead m (base + 1)).toNat) 1000) ∧
    k.segments.length ≤ count ∧
    (k.segments.length < count → 0 < k.segments.length ∧
      slotLimit m base k.segments.length ≤ slotLimit m base (k.segments.length - 1)) ∧
    ∀ i g, k.segments[i]? = some g → g.limit = slotLimit m base i ∧
      g.floor = min (max (if i = 0 then 0 else ((k.segments[i - 1]?).map (·.floor)).getD 0)
        (min (256 * (memRead m (base + 4 + 3 * i)).toNat + (memRead m (base + 5 + 3 * i)).toNat) 1000)) k.immunity := by
  intro base count k
  obtain ⟨immunity, imm⟩ : ∃ n, clampNat 500 1000 (halfValue (memRead m base) (memRead m (base + 1))) = n := ⟨_, rfl⟩
  obtain ⟨cut, cutEq⟩ : ∃ l, cutAscending none (slotSegments m base) = l := ⟨_, rfl⟩
  have record : k = ⟨immunity, clampFloors immunity 0 cut⟩ := by
    rw [← imm, ← cutEq]
    exact loadClass_of_item h
  have length : (clampFloors immunity 0 cut).length = cut.length := (clampFloors_spec immunity cut 0).2.1
  obtain ⟨take, ends⟩ := cutAscending_take (slotSegments m base) none
  rw [cutEq] at take ends
  have whole : (slotSegments m base).length = count := slotSegments_length m base
  have short : cut.length ≤ count := by
    rw [← whole, take]
    exact List.length_take_le' _ _
  have slot {i : Nat} (inside : i < count) := slotSegments_get (m := m) (base := base) inside
  rw [record]
  refine ⟨?_, ?_, fun less => ?_, fun i g here => ?_⟩
  · change immunity = _
    rw [← imm, clampNat_eq (by decide), Nat.min_comm, halfValue, Nat.mul_comm]
  · rw [length]
    exact short
  · rw [length] at less ⊢
    obtain ⟨q, previous, le⟩ := ends _ (slot less)
    by_cases zero : cut.length = 0
    · rw [if_pos zero] at previous
      cases previous
    · rw [if_neg zero, slot (by omega)] at previous
      cases previous
      exact ⟨Nat.pos_of_ne_zero zero, le⟩
  · have inside : i < cut.length := by
      rw [← length]
      exact (List.getElem?_eq_some_iff.mp here).1
    have source := (congrArg (·[i]?) take).trans
      ((List.getElem?_take_of_lt inside).trans (slot (inside.trans_le short)))
    have limits : ((clampFloors immunity 0 cut).map (·.limit))[i]? = (cut.map (·.limit))[i]? := by rw [clampFloors_limits]
    rw [List.getElem?_map, List.getElem?_map, here, source] at limits
    exact ⟨Option.some.inj limits, clampFloors_floor immunity cut 0 i here source⟩

end

/-! ## The end of a good load -/

theorem Link.post_tx_of_open {l : Link} (waits : l.choiceOpen = true) (r : Report) : (l.post r).tx = l.tx := by
  unfold Link.post Link.offer
  rw [if_pos waits]
  split
  · split <;> rfl
  · rfl

/-- While the transmitter's choice waits, entry to RUNNING starts no frame (R177). -/
theorem State.enterRunning_tx {s : State} (waits : s.link.choiceOpen = true) : s.enterRunning.link.tx = s.link.tx := by
  unfold State.enterRunning forFeeders
  refine (foldl_keeps (P := fun t => t.link.choiceOpen = true ∧ t.link.tx = s.link.tx) (fun f t kept => ?_) Feeder.list
    { s with loader := { s.loader with op := .running } } ⟨waits, rfl⟩).2
  obtain ⟨waits, same⟩ := kept
  dsimp only
  cases enabled : (t.feeders.get f).enabled with
  | false =>
    rw [State.bringUp_of_disabled enabled]
    exact ⟨waits, same⟩
  | true =>
    rw [State.bringUp_of_enabled enabled]
    simp only [State.upLink, Link.post_choiceOpen]
    exact ⟨waits, by rw [Link.post_tx_of_open (by simpa using waits), Link.post_tx_of_open waits, same]⟩

/-- R183: the state whose blocks hold the values of a good image, before its feeders are started. -/
def State.imaged (s : State) : State := { s.takeImage s.image with loader := ⟨.running, s.loader.imageFault, .none⟩ }

/-- R183: a good image in one: every block as loaded, but for the sequencers, ports and generators of enabled feeders. -/
theorem State.loadGood_butUp (s : State) : s.loadGood.butUp = s.imaged.butUp := State.enterRunning_butUp _

theorem State.loadGood_view (s : State) (f : Feeder) : s.loadGood.upView f = upFeeder (s.imaged.upView f) :=
  State.enterRunning_view _ f

/-- What a good load leaves of one feeder. -/
theorem State.loadGood_feeder (s : State) (f : Feeder) :
    let q := loadFeeder s.image f
    (q.enabled = true →
      (s.loadGood.seq.get f).state = (if q.startHeld then .held else .standby) ∧ s.loadGood.port.get f = waitingPort) ∧
    (q.enabled = false → s.loadGood.seq.get f = s.seq.get f ∧ s.loadGood.port.get f = s.port.get f) := by
  have view := s.loadGood_view f
  have settings : s.imaged.feeders.get f = loadFeeder s.image f := Six.get_of _ f
  have held : s.imaged.holds.get f = if (loadFeeder s.image f).startHeld then 1 else 0 := by
    rw [← settings]
    exact Six.get_of _ f
  refine ⟨fun enabled => ?_, fun disabled => ?_⟩
  · have up : upFeeder (s.imaged.upView f) = ((s.seq.get f).readied (s.imaged.holds.get f), waitingPort,
        (s.gen.get f).idled, true, s.imaged.holds.get f) := by
      simp only [State.upView, upFeeder, settings, enabled, if_true]
      rfl
    rw [up] at view
    refine ⟨?_, congrArg (·.2.1) view⟩
    have seq : s.loadGood.seq.get f = (s.seq.get f).readied (s.imaged.holds.get f) := congrArg (·.1) view
    rw [seq, held]
    cases (loadFeeder s.image f).startHeld <;> rfl
  · have idle : upFeeder (s.imaged.upView f) = s.imaged.upView f := by
      simp [upFeeder, State.upView, settings, disabled]
    rw [idle] at view
    exact ⟨congrArg (·.1) view, congrArg (·.2.1) view⟩

theorem State.settleChoice_butUp (s : State) (left : Bool) : (s.settleChoice left).butUp = s.butUp := by cases left <;> rfl

/-- The mask of an image (R182). -/
theorem loadMask_eq (m : List Host.Cell) : loadMask m = ((itemByte m 50).map (BitVec.ofNat 7)).getD 0b1111011 := by
  unfold loadMask
  cases itemByte m 50 <;> rfl

theorem LineState.start_unread (c : EventCode) : (LineState.start c).binding = c ∧ (LineState.start c).sampled = none ∧
    (LineState.start c).debounced = none ∧ (LineState.start c).run = none := ⟨rfl, rfl, rfl, rfl⟩

/-- Settles O6. -/
theorem imageLoadEndSettlesTheOperatingState : Obligations.ImageLoadEndSettlesTheOperatingState := by
  intro s changed lv out load m at_ total good byte pair
  have live : (s.live && s.loader.memOp == .load) = true := by simp [State.live, out, load]
  have run : exec (.imageLoadEnd ⟨changed, lv⟩) s = .next (State.endLoad { s with image := m } lv.choice) := by
    change execImageLoadEnd ⟨changed, lv⟩ s = _
    simp only [execImageLoadEnd, live, if_true]
    rfl
  have length : imageTotal m = total := imageTotal_eq m
  have isGood : imageGood m = true ↔ good := by
    rw [imageGood_iff, length]
  have byteEq (k : Nat) : byte k = itemByte m k := by rw [itemByte_eq, length]
  have pairEq (k : Nat) : pair k = itemHalf m k := by rw [itemHalf_eq, length]
  refine ⟨fun faulty => ?_, fun valid => ?_⟩
  · rw [run]
    unfold State.endLoad
    rw [if_neg (fun h => faulty (isGood.mp h))]
    rfl
  · obtain ⟨w, around, blocks, sameSeq, samePort, waiting, service, tx⟩ : ∃ w : State, State.endLoad { s with image := m } lv.choice =
        w.loadGood.settleChoice lv.choice ∧ w.imaged.butUp = State.butUp (State.imaged { s with image := m }) ∧
          w.seq = s.seq ∧ w.port = s.port ∧ w.link.waitingReplies = s.link.waitingReplies ∧
          w.link.service = s.link.service ∧ (lv.choice = true → w.loadGood.link.tx = s.link.tx) := by
      unfold State.endLoad
      rw [if_pos (isGood.mpr valid)]
      cases lv.choice with
      | false => exact ⟨{ s with image := m }, rfl, rfl, rfl, rfl, rfl, rfl, nofun⟩
      | true => exact ⟨State.openChoice { s with image := m }, rfl, rfl, rfl, rfl, rfl, rfl, fun _ => State.enterRunning_tx rfl⟩
    obtain ⟨t, after⟩ : ∃ t, State.endLoad { s with image := m } lv.choice = t := ⟨_, rfl⟩
    rw [after] at run around
    have rest : t.butUp = State.butUp (State.imaged { s with image := m }) := by
      rw [around, State.settleChoice_butUp, State.loadGood_butUp, blocks]
    have image : w.image = m := (congrArg State.image blocks :)
    have feeders (f : Feeder) : t.feeders.get f = loadFeeder m f :=
      (congrArg (fun u : State => u.feeders.get f) rest :).trans (Six.get_of _ f)
    have holds (f : Feeder) : t.holds.get f = if (t.feeders.get f).startHeld then 1 else 0 := by
      refine (congrArg (fun u : State => u.holds.get f) rest :).trans ((Six.get_of _ f).trans ?_)
      rw [feeders]
      exact congrArg (fun q : FeederSettings => if q.startHeld then 1 else 0) (Six.get_of _ f)
    have started (f : Feeder) := w.loadGood_feeder f
    have seq : t.seq = w.loadGood.seq := by rw [around, State.settleChoice_seq]
    have port : t.port = w.loadGood.port := by rw [around, State.settleChoice_port]
    have posted : Link.Posted (State.imaged w).link t.link := by
      rw [around]
      exact Link.Posted.trans (State.enterRunning_posted (State.imaged w)) (State.settleChoice_posted _ _)
    have groups (g : GroupNo) : t.groups.get g = loadGroup m (placedBefore m g) g :=
      (congrArg (fun u : State => u.groups.get g) rest :).trans (loadGroups_get m g)
    refine ⟨t, run, (congrArg State.loader rest :), (congrArg State.image rest :), ?_, fun f => ?_, fun c => ?_,
      fun b f => ?_, (congrArg (fun u : State => u.classes.activeBank) rest :), fun g => ?_, fun l => ?_, ?_, ?_, ?_, ?_,
      (congrArg State.tracker rest :), (congrArg State.magnitude rest :), (congrArg State.detector rest :),
      (congrArg State.store rest :), (congrArg State.arbiter rest :), (congrArg State.inReset rest :).trans out,
      (congrArg State.straps rest :), (congrArg State.pending rest :)⟩
    · refine (congrArg State.globals rest :).trans ?_
      exact congrArg loadGlobals (funext fun n => (pairEq (6 + 2 * (n - 1))).symm)
    · intro base
      obtain ⟨up, idle⟩ := started f
      rw [image] at up idle
      rw [sameSeq, samePort] at idle
      rw [← seq, ← port, ← feeders] at up idle
      refine ⟨?_, holds f, fun enabled => ?_, fun disabled => ?_⟩
      · rw [feeders, loadFeeder_eq]
        simp only [byteEq, pairEq]
        rfl
      · obtain ⟨state, waiting⟩ := up enabled
        exact ⟨state, by rw [waiting]; rfl, by rw [waiting]; rfl, by rw [waiting]; rfl, by rw [waiting]; rfl⟩
      · exact idle disabled
    · intro base count slot k
      have record : k = loadClass m c := (congrArg (fun u : State => u.classes.classes.get c) rest :).trans (Eight.get_of _ c)
      rw [record, ← length]
      refine ⟨fun short => loadClass_of_short short, fun item => ?_⟩
      obtain ⟨immunity, most, ends, each⟩ := loadClass_segments item
      exact ⟨loadClass_wf m c, immunity, most, ends, each⟩
    · intro base e
      have entry : e = loadBankEntry m b f := by
        refine (congrArg (fun u : State => (u.classes.banks.get b).get f) rest :).trans ?_
        exact (congrArg (fun v : Six BankEntry => v.get f) (Two.get_of _ b)).trans (Six.get_of _ f)
      rw [entry, ← length]
      exact ⟨fun short => loadBankEntry_of_short short, fun item => loadBankEntry_of_item item⟩
    · intro base r
      have record : r = loadGroup m (placedBefore m g) g := groups g
      rw [← length]
      refine ⟨fun short => record.trans (loadGroup_of_short short _), fun item => ?_⟩
      have eq := loadGroup_of_item item (placedBefore m g)
      rw [← record] at eq
      refine ⟨?_, fun f => ?_⟩
      · rw [eq]
      · have placed := placedBefore_get m g f
        simp only [loadGroups_get, ← groups] at placed
        rw [eq, ← placed]
        simp [setOf, base]
    · have bound : t.lines.get l = LineState.start (loadBinding m l) :=
        (congrArg (fun u : State => u.lines.get l) rest :).trans (Twelve.get_of _ l)
      have offset : 279 + (l.number - 1) = 278 + l.number := by cases l <;> rfl
      rw [bound, byteEq, ← offset]
      exact LineState.start_unread _
    · rw [posted.mask, byteEq, ← loadMask_eq, ← image]
      rfl
    · exact posted.waiting.trans waiting
    · exact posted.service.trans service
    · intro choice
      rw [around, choice]
      exact tx choice

end Sys2Proof.Machine
end

section
/-! SUPPORT. What every event of a sample instant leaves alone, and that it only adds to the reports (`State.Runs`); with the
reference records, which move their ports and generators besides (`State.Stays`). -/

namespace Sys2Proof.Machine

open Sys2Proof
open State (SeqOnly Course Grows)

/-- A state with the blocks that the events of an instant move put back as another state has them. -/
def State.movedFrom (t s : State) : State :=
  { t with
    seq := s.seq, groups := s.groups, groupRequests := s.groupRequests, refusals := s.refusals, link := s.link
    detector := s.detector, arbiter := s.arbiter, tracker := s.tracker, holds := s.holds, lines := s.lines
    classes := s.classes }

/-- What an event of an instant, other than a measurement, the store's states, the sending of records and the end of an
event, may do: it moves the sequencers as `k` allows, and adds to the reports. -/
structure State.Runs (k : Taken) (s t : State) : Prop where
  rest : t.movedFrom s = s
  grows : Grows s t
  seq : ∀ f, k.allows s.globals f (s.seq.get f) (t.seq.get f)

open State (Runs)

namespace State.Runs

variable {k : Taken} {s t u : State}

theorem refl (s : State) : Runs k s s := ⟨rfl, Grows.refl s, fun f => k.allows_refl _ f _⟩

theorem globals (h : Runs k s t) : t.globals = s.globals := (congrArg State.globals h.rest :)

theorem trans (a : Runs k s t) (b : Runs k t u) : Runs k s u where
  rest := (congrArg (fun v => v.movedFrom s) b.rest).trans a.rest
  grows := a.grows.trans b.grows
  seq f := Taken.allows_trans (a.seq f) (a.globals ▸ b.seq f)

theorem ite {c : Prop} [Decidable c] (a : Runs k s t) (b : Runs k s u) : Runs k s (if c then t else u) := by
  split
  · exact a
  · exact b

theorem foldl {α : Type} {step : State → α → State} (h : ∀ a s, Runs k s (step s a)) (l : List α) (s : State) :
    Runs k s (l.foldl step s) := foldl_rel Runs.refl Runs.trans h l s

theorem forFeeders {step : Feeder → State → State} (h : ∀ f s, Runs k s (step f s)) (s : State) :
    Runs k s (Machine.forFeeders step s) := Runs.foldl (step := fun s f => step f s) h _ s

theorem forGroups {step : GroupNo → State → State} (h : ∀ g s, Runs k s (step g s)) (s : State) :
    Runs k s (Machine.forGroups step s) := Runs.foldl (step := fun s g => step g s) h _ s

theorem forLines {step : Line → State → State} (h : ∀ l s, Runs k s (step l s)) (s : State) :
    Runs k s (Machine.forLines step s) := Runs.foldl (step := fun s l => step l s) h _ s

/-- A change of other moved blocks than the sequencers and the link. -/
theorem of_blocks (rest : t.movedFrom s = s) (seq : t.seq = s.seq) (link : t.link = s.link) : Runs k s t :=
  ⟨rest, Grows.of_eq link, fun f => by rw [seq]; exact k.allows_refl _ f _⟩

/-- What the sequencers and the group table do by themselves. -/
theorem of_course (h : SeqOnly s t) (c : Course k s t) : Runs k s t :=
  ⟨(congrArg (fun v => v.movedFrom s) h.rest :), c.toAny.grows, c.allows⟩

end State.Runs

/-! ## The events -/

section
variable {k : Taken}

theorem State.post_runs (s : State) (r : Report) : Runs k s (s.post r) := .of_course (s.post_seqOnly r) (.post s r)

theorem State.updateEntry_runs (s : State) (f : Feeder) (c : Entry → Entry) : Runs k s (s.updateEntry f c) :=
  ⟨(congrArg (fun v => v.movedFrom s) (s.updateEntry_seqOnly f c).rest :), Grows.of_eq (s.updateEntry_link f c),
    fun h => by rw [State.updateEntry_seq]; exact k.allows_refl _ h _⟩

theorem State.detector_runs (s : State) (d : Detector) : Runs k s { s with detector := d } := .of_blocks rfl rfl rfl

theorem State.release_runs (s : State) (lv : Leave) (f : Feeder) (c : Cause) : Runs k s (s.release lv f c) :=
  .of_course (s.release_seqOnly lv f c) (s.release_course lv f c)

theorem State.takeRefusals_runs (s : State) : Runs k s s.takeRefusals :=
  .of_course s.takeRefusals_seqOnly s.takeRefusals_course

theorem State.settleGroups_runs (s : State) (lv : Leave) : Runs k s (s.settleGroups lv) :=
  .of_course (s.settleGroups_seqOnly lv) (s.settleGroups_course lv)

theorem State.expire_runs (s : State) (lv : Leave) {f : Feeder} (may : k.expires f) : Runs k s (s.expire lv f) :=
  .of_course (s.expire_seqOnly lv f) (s.expire_course lv may)

theorem State.hold_runs (s : State) (lv : Leave) (f : Feeder) (op : HoldOp) : Runs k s (s.hold lv f op) :=
  ⟨(congrArg (fun v => v.movedFrom s) (s.hold_seqOnly lv f op).rest :), (s.hold_course (k := .any) lv f op).grows,
    (s.hold_course lv f op).allows⟩

theorem State.starveGroup_runs (s : State) (g : GroupNo) : Runs k s (s.starveGroup g) :=
  .of_course (s.starveGroup_seqOnly g) (s.starveGroup_course g)

theorem State.groupNotNeeded_runs (s : State) (g : GroupNo) : Runs k s (s.groupNotNeeded g) :=
  .of_course (s.groupNotNeeded_seqOnly g) (s.groupNotNeeded_course g)

theorem State.groupEventEnd_runs (s : State) (g : GroupNo) (e : EndCause) : Runs k s (s.groupEventEnd g e) :=
  .of_course (s.groupEventEnd_seqOnly g e) (s.groupEventEnd_course g e)

section
variable (may : k.grants)
include may

theorem State.participantGrant_runs (s : State) (f : Feeder) (m : Mode) : Runs k s (s.participantGrant f m) :=
  .of_course (s.participantGrant_seqOnly f m) (State.participantGrant_course may s f m)

/-- R96: a candidate grant takes a feeder out of STANDBY. -/
theorem State.candidateGrant_runs (s : State) (f : Feeder) (m : Mode) : Runs k s (s.candidateGrant f m) := by
  by_cases standby : (s.seq.get f).state = .standby
  · rw [State.candidateGrant_of_standby standby]
    refine ⟨rfl, s.link.post_grows _, fun h => ?_⟩
    by_cases same : h = f
    · subst same
      simp only [Six.get_set_self, Sequencer.armed, if_pos standby]
      exact Taken.allows_of_ages (fun _ => .of_idle (by rw [standby]; rfl) nofun (.inr (.inr ⟨.arm, rfl⟩))) (.inl may)
    · simp only [Six.get_set_ne _ _ same]
      exact k.allows_refl _ h _
  · rw [State.candidateGrant_of_other standby]
    exact .refl s

end

theorem State.engageGroup_runs (s : State) (g : GroupNo) (e : FeederSet) : Runs k s (s.engageGroup g e) :=
  .of_blocks rfl rfl rfl

/-! ## The arbiter -/

theorem State.closeBudgets_runs (s : State) : Runs k s s.closeBudgets := by
  unfold State.closeBudgets
  refine Runs.trans (Runs.forFeeders (fun f s => ?_) s) (.of_blocks rfl rfl rfl)
  split
  · split
    · exact s.updateEntry_runs f _
    · exact .refl s
  · exact .refl s

theorem State.releaseNotNeeded_runs (s : State) (which : GroupNo → Bool) : Runs k s (s.releaseNotNeeded which) := by
  unfold State.releaseNotNeeded
  refine (Runs.forFeeders (fun f s => ?_) s).trans (Runs.forGroups (fun g s => ?_) _)
  · exact (s.release_runs _ f _).ite (.refl s)
  · exact (Runs.foldl (fun f s => s.release_runs _ f _) _ s).ite (.refl s)

theorem State.tellNotNeeded_runs (s : State) (which : GroupNo → Bool) : Runs k s (s.tellNotNeeded which) :=
  Runs.forGroups (fun g s => (s.groupNotNeeded_runs g).ite (.refl s)) s

theorem State.deliverStoodBy_runs (s : State) (p : PointKind) (began : Four Group) (units : List UnitGrant) :
    Runs k s (s.deliverStoodBy p began units) := by
  unfold State.deliverStoodBy
  refine Runs.forFeeders (fun f t => ?_) s
  split
  · exact t.updateEntry_runs f _
  · exact .refl t

theorem State.deliverUnit_runs (may : k.grants) (s : State) (u : UnitGrant) : Runs k s (s.deliverUnit u) := by
  unfold State.deliverUnit
  split
  · next m _ _ =>
    unfold State.deliverCandidate
    have members := Runs.foldl (k := k) (step := fun s f => (s.candidateGrant f m).updateEntry f fun e => e.engage m)
      (fun f t => (State.candidateGrant_runs may t f m).trans (State.updateEntry_runs _ f _)) u.feeders s
    cases u.group with
    | none => exact members
    | some g => exact members.trans (State.engageGroup_runs _ g _)
  · exact .refl s
  · next m _ _ => exact Runs.foldl (fun f t => State.participantGrant_runs may t f m) u.feeders s
  · unfold State.deliverStarved
    have members (t : State) : Runs k t (u.feeders.foldl (fun s f => s.release .nothing f .starved) t) :=
      Runs.foldl (fun f t => t.release_runs _ f _) u.feeders t
    cases u.group with
    | none => exact members s
    | some g => exact (s.starveGroup_runs g).trans (members _)

theorem State.allocate_runs (may : k.grants) (s : State) (p : PointKind) {between : State → State} (hb : ∀ s, Runs k s (between s)) :
    Runs k s (s.allocate p between) := by
  have releases : Runs k s
      (if p.isBoundary then s.releaseNotNeeded fun g => p.isBoundary && s.groupReleased g else s) :=
    (s.releaseNotNeeded_runs _).ite (.refl s)
  have kept (t : State) (units : List UnitGrant) : Runs k t ((t.setFlags p).keepGrants p units) := .of_blocks rfl rfl rfl
  unfold State.allocate
  exact releases.trans (((((State.deliverStoodBy_runs _ p _ _).trans (kept _ _)).trans (hb _)).trans
    (State.tellNotNeeded_runs _ _)).trans (Runs.foldl (fun u s => State.deliverUnit_runs may s u) _ _))

/-! ## The sag detector and the lines -/

theorem State.trackerTo_runs (s : State) (t : Tracker) (c : TrackerCause) : Runs k s (s.trackerTo t c) :=
  Runs.trans (t := { s with tracker := t }) (.of_blocks rfl rfl rfl) (State.post_runs _ _)

theorem State.onset_runs (may : k.grants) (s : State) (c : OnsetCause) (heard : Bool) {between : State → State}
    (hb : ∀ s, Runs k s (between s)) : Runs k s (s.onset c heard between) := by
  have opened (t : State) (m : Compensability) : Runs k t (t.openRecord c m) :=
    (t.detector_runs _).trans (State.post_runs _ _)
  unfold State.onset
  refine Runs.trans (t := if heard = true ∧ s.tracker.state = .locked then
    s.trackerTo s.tracker.requestHolding .eventOnset else s) ((s.trackerTo_runs _ _).ite (.refl s)) ?_
  exact ((opened _ _).trans (State.allocate_runs may _ _ hb)).ite (opened _ _)

theorem State.externalTrigger_runs (may : k.grants) (s : State) : Runs k s s.externalTrigger :=
  (State.onset_runs may s _ true Runs.refl).ite (.refl s)

theorem State.switchBank_runs (s : State) (b : Bank) : Runs k s (s.switchBank b) :=
  Runs.ite (.of_blocks rfl rfl rfl) (.of_blocks rfl rfl rfl)

theorem State.acceptLine_runs {weighed : Bool} (may : weighed = true ∨ k.grants) (s : State) (lv : Leave) (l : Line) :
    Runs k s (s.acceptLine weighed lv l) := by
  have set (x : LineState) : Runs k s (s.setLine l x) := .of_blocks rfl rfl rfl
  unfold State.acceptLine
  simp only
  split
  · split
    · split
      · exact (set _).trans (State.hold_runs _ _ _ _)
      · exact set _
    · rcases may with rfl | may
      · rw [Bool.not_true, Bool.and_false]
        exact set _
      · exact ((set _).trans (State.externalTrigger_runs may _)).ite (set _)
    · split
      · exact (set _).trans (State.switchBank_runs _ _)
      · exact set _
    · exact set _
  · exact .refl s

theorem State.takePlaced_runs (s : State) (o : Orders) (p : Place) (grants : p = .first ∨ k.grants)
    (may : ∀ f, o.expiry.get f = p → k.expires f) : Runs k s (s.takePlaced o p) := by
  unfold State.takePlaced
  refine (Runs.forLines (fun l s => (State.acceptLine_runs (grants.imp_left fun e => by rw [e]; rfl) s _ l).ite (.refl s)) s).trans
    (Runs.forFeeders (fun f s => ?_) _)
  split
  · next h => exact s.expire_runs _ (may f h)
  · exact .refl s

theorem State.evaluateAt_runs (s : State) (o : Orders) (p : Stage) : Runs k s (s.evaluateAt o p) := .of_blocks rfl rfl rfl

/-- The timers' marks of their starts are no part of what a course allows or forbids. -/
theorem State.settleTimers_seq (s : State) (kept : Feeder → Bool) (f : Feeder) :
    ((s.settleTimers kept).seq.get f).state = (s.seq.get f).state ∧
      ((s.settleTimers kept).seq.get f).barred = (s.seq.get f).barred ∧
      k.allows s.globals f (s.seq.get f) ((s.settleTimers kept).seq.get f) := by
  simp only [State.settleTimers, Six.get_of]
  split
  · exact ⟨rfl, rfl, k.allows_refl _ f _⟩
  · have count : Sequencer.count { s.seq.get f with
        timer := (s.seq.get f).timer.map fun t => { t with fresh := false } } = (s.seq.get f).count := by
      unfold Sequencer.count
      rw [Option.map_map]
      rfl
    exact ⟨rfl, rfl, Taken.allows_of_ages (fun _ => .of_stands ⟨rfl, rfl, count⟩ rfl) (.inr ⟨rfl, rfl⟩)⟩

theorem State.settleTimers_runs (s : State) (kept : Feeder → Bool) : Runs k s (s.settleTimers kept) :=
  ⟨rfl, Grows.of_eq rfl, fun f => (s.settleTimers_seq kept f).2.2⟩

theorem State.settleChoice_runs (s : State) (left : Bool) : Runs k s (s.settleChoice left) := by
  refine ⟨?_, s.settleChoice_grows left, fun f => ?_⟩
  · cases left <;> rfl
  · rw [State.settleChoice_seq]
    exact k.allows_refl _ f _

theorem State.addFacts_runs (s : State) : Runs k s s.addFacts := by
  unfold State.addFacts
  split
  · exact s.detector_runs _
  · exact .refl s

theorem State.updateMinima_runs (s : State) : Runs k s s.updateMinima := by
  unfold State.updateMinima
  split
  · exact s.detector_runs _
  · exact .refl s

theorem State.judge_runs (s : State) : Runs k s s.judge := by
  unfold State.judge
  split
  · exact s.detector_runs _
  · exact .refl s

theorem State.levelTest_runs (s : State) : Runs k s s.levelTest := by
  unfold State.levelTest
  split
  · exact (s.detector_runs _).ite (.refl s)
  · exact (s.detector_runs _).ite (.refl s)
  all_goals exact .refl s

theorem State.countBoundary_runs (s : State) : Runs k s s.countBoundary := s.judge_runs.trans (State.detector_runs _ _)

theorem State.lockoutStep_runs (s : State) : Runs k s s.lockoutStep := (s.detector_runs _).ite (s.detector_runs _)

theorem State.clearInjected_runs (may : k.grants) (s : State) : Runs k s s.clearInjected := by
  refine ⟨rfl, Grows.of_eq rfl, fun f => Taken.allows_of_ages (fun _ => .of_stands ?_ ?_) (.inl may)⟩
  · simp only [State.clearInjected, Six.get_of]
    exact .refl _
  · simp only [State.clearInjected, Six.get_of]

theorem State.refusalsBetween_runs (s : State) (o : Orders) : Runs k s (s.refusalsBetween o) :=
  s.takeRefusals_runs.ite (.refl s)

end

end Sys2Proof.Machine
end

section
/-! SUPPORT. The stages of a sample instant up to the boundary test, written out: the close of the instant before, the sample
set taken and measured, the tracker's handling. -/

namespace Sys2Proof.Machine

open Sys2Proof
open State (Course Grows Runs Late)

/-! ## The close of the instant before -/

theorem Link.waits_of_sending {l : Link} (sending : l.tx ≠ none) : l.waits = false := by
  obtain ⟨out, e⟩ := Option.ne_none_iff_exists'.mp sending
  simp [Link.waits, e]

theorem Link.withoutWaiting_of_sending {l : Link} (sending : l.tx ≠ none) :
    l.withoutWaiting = { l with choiceOpen := false } := by
  simp [Link.withoutWaiting, Link.waits_of_sending sending]

/-- R175, R177: around events of an instant now over, the reports of a sending transmitter only grow. -/
theorem Link.Grows.resume {l m : Link} (h : Link.Grows l.withoutWaiting m) : Link.Grows l (m.resume l) := by
  intro sending
  rw [Link.withoutWaiting_of_sending sending] at h
  obtain ⟨tx, mask, reports, overflow⟩ := h sending
  simp only [Link.resume, Link.waits_of_sending sending, Bool.false_eq_true, if_false, List.foldl_nil, Bool.false_and,
    Bool.or_false]
  exact ⟨tx, mask, reports, overflow⟩

theorem State.beforeChoice_runs {k : Taken} {event : State → State} (h : ∀ s, Runs k s (event s)) (s : State) (left : Bool) :
    Runs k s (s.beforeChoice left event) := by
  have around (l : Link) : (event { s with link := l }).movedFrom s = s :=
    (congrArg (fun v => v.movedFrom s) (h { s with link := l }).rest :)
  unfold State.beforeChoice
  split
  · exact ⟨around _, (h { s with link := s.link.withoutWaiting }).grows.resume, (h { s with link := s.link.withoutWaiting }).seq⟩
  · exact ⟨around _, s.link.closeChoice_grows.trans (h { s with link := s.link.closeChoice }).grows,
      (h { s with link := s.link.closeChoice }).seq⟩

theorem State.takeLeftOver_runs (s : State) (o : Orders) : Runs .any s (s.takeLeftOver o) := by
  have refusals (s : State) : Runs .any s (if o.refusals = .atOnce then s.takeRefusals else s) :=
    s.takeRefusals_runs.ite (.refl s)
  have requests (s : State) : Runs .any s (if o.requests = .atOnce then s.takeGroupRequests else s) :=
    (Runs.of_course s.takeGroupRequests_seqOnly s.takeGroupRequests_course).ite (.refl s)
  unfold State.takeLeftOver
  exact ((((refusals s).trans (requests _)).trans (.forFeeders (fun f s => (State.expire_runs (k := .any) s _ trivial).ite (.refl s)) _)).trans
    (.forLines (fun l s => State.acceptLine_runs (k := .any) (.inr trivial) s _ l) _)).trans (State.settleTimers_runs _ _)

/-- What the instant before left is no configuration, no port's or generator's, and no measurement. -/
theorem State.closeInstant_runs (s : State) (o : Orders) : Runs .any s (s.closeInstant o) :=
  (State.beforeChoice_runs (fun s => s.takeLeftOver_runs o) s _).trans (State.detector_runs _ _)

theorem State.closeInstant_globalsAt (s : State) (o : Orders) :
    (s.closeInstant o).globalsAt o = s.globalsAt o ∧
      ((s.closeInstant o).valuesAt o.writtenNow).feeders = (s.valuesAt o.writtenNow).feeders := by
  have rest := (s.closeInstant_runs o).rest
  have globals : (s.closeInstant o).globals = s.globals := (congrArg State.globals rest :)
  have feeders : (s.closeInstant o).feeders = s.feeders := (congrArg State.feeders rest :)
  have written : (s.closeInstant o).written = s.written := (congrArg State.written rest :)
  unfold State.globalsAt State.valuesAt
  rw [written]
  split
  · cases s.written with
    | none => exact ⟨globals, feeders⟩
    | some v => exact ⟨rfl, rfl⟩
  · exact ⟨globals, feeders⟩

/-! ## The sample set taken (R1, R93, R100, R117, R153) -/

/-- R93, R100: a sequencer as a sample set leaves it. -/
def Sequencer.ticked (q : Sequencer) (sameInstant : Bool) : Sequencer :=
  { q with timer := q.timer.map fun t => t.tick sameInstant, injected := q.injected || q.state == .injecting }

/-- R117: a port as a sample set leaves it. -/
def Port.sampled (p : Port) (started : Bool) : Port := { p with skipSlot := p.fresh && started, fresh := false }

theorem State.ticks_ticked (s : State) (o : Orders) :
    forFeeders (fun f s => s.tickSequencer (o.started.get f) f) s =
      { s with seq := Six.of fun f => (s.seq.get f).ticked (o.started.get f) } := by
  obtain ⟨q, e⟩ := s.ticks_eq o
  have each (f : Feeder) : q.get f = (s.seq.get f).ticked (o.started.get f) := by
    have seen := forFeeders_view (step := fun f s => s.tickSequencer (o.started.get f) f) (f := f)
      (view := fun s => s.seq.get f) (fun q => q.ticked (o.started.get f))
      (fun h s ne => Six.get_set_ne _ _ (Ne.symm ne)) (fun s => Six.get_set_self _ _ _) s
    rw [e] at seen
    exact seen
  rw [e]
  congr 1
  exact Six.ext_get fun f => by rw [each, Six.get_of]

/-- The sample set taken, written out. -/
theorem State.takeSample_out (s : State) (x : SampleInput) (o : Orders) :
    s.takeSample x o = { s with
      inForce := s.valuesAt o.writtenNow, written := none, sample := some (SampleSet.ofInput x)
      seq := Six.of fun f => (s.seq.get f).ticked (o.started.get f)
      port := Six.of fun f => (s.port.get f).sampled (o.started.get f)
      lines := Twelve.of fun l => (s.lines.get l).read (x.levels.get l) } := by
  unfold State.takeSample
  rw [State.ticks_ticked]
  rfl

/-! ## The measurement (R14 to R17, R57 to R59, R66) -/

/-- The sample set taken and measured. -/
def State.sampleTaken (s : State) (x : SampleInput) (o : Orders) : State :=
  (((s.closeInstant o).takeSample x o).evaluateAt o .start).measure (SampleSet.ofInput x)

theorem State.prepare_of_early {s : State} {x : SampleInput} {o : Orders} (h : o.storeEarly = true) :
    s.prepare x o = (s.sampleTaken x o).updateStore (SampleSet.ofInput x).store := by
  unfold State.prepare
  simp only [h, if_true]
  rfl

theorem State.prepare_of_late {s : State} {x : SampleInput} {o : Orders} (h : o.storeEarly = false) :
    s.prepare x o = s.sampleTaken x o := by
  unfold State.prepare
  simp only [h, Bool.false_eq_true, if_false]
  rfl

/-- R68 to R70: the store with the states that a sample set of store voltage `v` gives it. -/
def State.storeFormed (s : State) (v : Nat) : Store :=
  { s.store with
    warning := s.inForce.globals.warningNext s.store.warning v
    overVoltage := s.inForce.globals.overNext s.store.overVoltage v
    charger := s.chargerNext v (s.inForce.globals.overNext s.store.overVoltage v) }

theorem State.postStore_link (s : State) (c : Option StoreCause) :
    ∃ l, s.postStore c = { s with link := l } ∧ Link.Grows s.link l ∧ ∀ k, c = some k →
      s.link.carries l (.store k s.store.volts s.store.quanta s.store.charger) := by
  cases c with
  | none => exact ⟨s.link, rfl, .refl _, nofun⟩
  | some k =>
    refine ⟨_, rfl, s.link.post_grows _, fun j e => ?_⟩
    cases e
    exact s.link.carries_post _

/-- The store's states formed and their changes reported, the warning's first (R68 to R70, R72). -/
theorem State.updateStore_out (s : State) (v : Nat) :
    ∃ l, s.updateStore v = { s with store := s.storeFormed v, link := l } ∧ Link.Grows s.link l ∧
      ∀ k, warningReport s.store.warning (s.storeFormed v).warning = some k ∨
          overReport s.store.overVoltage (s.storeFormed v).overVoltage = some k →
        s.link.carries l (.store k s.store.volts s.store.quanta (s.storeFormed v).charger) := by
  obtain ⟨l, first, grows, warned⟩ := State.postStore_link { s with store := s.storeFormed v }
    (warningReport s.store.warning (s.storeFormed v).warning)
  obtain ⟨m, second, grows', past⟩ := State.postStore_link { s with store := s.storeFormed v, link := l }
    (overReport s.store.overVoltage (s.storeFormed v).overVoltage)
  have out : s.updateStore v = { s with store := s.storeFormed v, link := m } := by
    refine Eq.trans ?_ second
    rw [← first]
    rfl
  refine ⟨m, out, grows.trans grows', fun k e => e.elim (fun e => ?_) fun e => ?_⟩
  · exact grows'.carries_before (warned k e) grows
  · exact grows.carries_after (past k e)

/-- The store's states and their reports, formed early, leave all but the store and the link. -/
theorem State.prepare_eq (s : State) (x : SampleInput) (o : Orders) :
    ∃ l, s.prepare x o = { s.sampleTaken x o with
        store := if o.storeEarly then (s.sampleTaken x o).storeFormed (SampleSet.ofInput x).store else (s.sampleTaken x o).store
        link := l } ∧ Link.Grows (s.sampleTaken x o).link l := by
  have formed (early : o.storeEarly = true) := State.prepare_of_early (s := s) (x := x) early
  have measured (late : o.storeEarly = false) := State.prepare_of_late (s := s) (x := x) late
  generalize s.sampleTaken x o = u at *
  cases early : o.storeEarly with
  | false => exact ⟨u.link, measured early, .refl _⟩
  | true =>
    obtain ⟨l, out, grows, -⟩ := u.updateStore_out (SampleSet.ofInput x).store
    exact ⟨l, (formed early).trans out, grows⟩

/-- The tracker's handling moves the tracker, the comparator and the link. -/
theorem State.track_eq (s : State) (x : SampleSet) (o : Orders) :
    ∃ t c l, s.track x o = { s with tracker := t, comparator := c, link := l } ∧ Link.Grows s.link l := by
  unfold State.track State.trackerTo
  simp only
  split
  · exact ⟨_, _, _, rfl, s.link.post_grows _⟩
  · split
    · exact ⟨_, _, _, rfl, s.link.post_grows _⟩
    · split
      · exact ⟨_, _, _, rfl, s.link.post_grows _⟩
      · exact ⟨_, _, s.link, rfl, .refl _⟩

/-- The instant up to its boundary test leaves of the measurement all but the store's states, the tracker, the comparator
and the link. -/
theorem State.tracked_eq (s : State) (x : SampleInput) (o : Orders) :
    ∃ t c l, s.tracked x o = { s.sampleTaken x o with
        store := if o.storeEarly then (s.sampleTaken x o).storeFormed (SampleSet.ofInput x).store else (s.sampleTaken x o).store
        tracker := t, comparator := c, link := l } ∧ Link.Grows (s.sampleTaken x o).link l := by
  obtain ⟨l, prepared, grows⟩ := s.prepare_eq x o
  obtain ⟨t, c, m, tracked, grows'⟩ := (s.prepare x o).track_eq (SampleSet.ofInput x) o
  refine ⟨t, c, m, ?_, grows.trans ?_⟩
  · rw [State.tracked, tracked, prepared]
  · rw [prepared] at grows'
    exact grows'

end Sys2Proof.Machine
end

section
/-! SUPPORT. What a sample instant leaves measured (`State.measured`): the fields of `instant_measured`, each said of the state
before the instant. With these O11. -/

namespace Sys2Proof.Machine

open Sys2Proof
open State (Course Grows Runs Late)

section

variable (s : State) (x : SampleInput) (o : Orders)

theorem State.sampleTaken_inForce : (s.sampleTaken x o).inForce = (s.closeInstant o).valuesAt o.writtenNow := by
  unfold State.sampleTaken
  rw [State.takeSample_out]
  rfl

theorem State.sampleTaken_globals : (s.sampleTaken x o).inForce.globals = s.globalsAt o := by
  rw [State.sampleTaken_inForce]
  exact (s.closeInstant_globalsAt o).1

theorem State.sampleTaken_feeders : (s.sampleTaken x o).inForce.feeders = (s.valuesAt o.writtenNow).feeders := by
  rw [State.sampleTaken_inForce]
  exact (s.closeInstant_globalsAt o).2

theorem State.sampleTaken_sample : (s.sampleTaken x o).sample = some (SampleSet.ofInput x) := by
  unfold State.sampleTaken
  rw [State.takeSample_out]
  rfl

/-- R17, R57: the references in force at a sample set. -/
def State.refsHeld (f : Feeder) : Tri Int := if (s.port.get f).sent.isSome then (s.gen.get f).refs else Tri.all 0

theorem State.refsInForce_eq (f : Feeder) : s.refsInForce f = s.refsHeld f := by
  unfold State.refsInForce State.refsHeld
  cases (s.port.get f).sent <;> rfl

/-- R14 to R17: the magnitude unit before a boundary closes its sums. -/
theorem State.sampleTaken_magnitude : (s.sampleTaken x o).magnitude =
    (s.magnitude.takeBus (s.globalsAt o).nominalPeak (SampleSet.ofInput x).bus).takeOutputs (SampleSet.ofInput x).bus
      s.refsHeld := by
  have rest := (s.closeInstant_runs o).rest
  have magnitude : (s.closeInstant o).magnitude = s.magnitude := (congrArg State.magnitude rest :)
  have port : (s.closeInstant o).port = s.port := (congrArg State.port rest :)
  have gen : (s.closeInstant o).gen = s.gen := (congrArg State.gen rest :)
  have globals := s.sampleTaken_globals x o
  have refs : State.refsInForce (State.evaluateAt ((s.closeInstant o).takeSample x o) o .start) = s.refsHeld := by
    funext f
    rw [State.refsInForce_eq, State.takeSample_out]
    simp only [State.refsHeld, State.evaluateAt, State.evaluateOutputs, Six.get_of, Port.sampled, port, gen]
  unfold State.sampleTaken at globals ⊢
  unfold State.measure at globals ⊢
  simp only [State.measureStore] at globals ⊢
  rw [globals, refs, State.takeSample_out]
  exact congrArg (fun m => (Magnitude.takeBus m _ _).takeOutputs _ _) magnitude

/-- R58, R59: a generator before a boundary closes its accumulators. -/
theorem State.sampleTaken_gen (f : Feeder) : (s.sampleTaken x o).gen.get f =
    (s.gen.get f).takeSample (s.port.get f).sent.isSome ((SampleSet.ofInput x).load.get f) := by
  have rest := (s.closeInstant_runs o).rest
  have port : (s.closeInstant o).port = s.port := (congrArg State.port rest :)
  have gen : (s.closeInstant o).gen = s.gen := (congrArg State.gen rest :)
  unfold State.sampleTaken
  rw [State.takeSample_out]
  simp only [State.measure, State.measureStore, State.evaluateAt, State.evaluateOutputs, Six.get_of, Port.sampled, port, gen]

/-- R66: the store measured. -/
theorem State.sampleTaken_store : (s.sampleTaken x o).store = { s.store with
    volts := some (SampleSet.ofInput x).store
    energy := (s.globalsAt o).energyAt (SampleSet.ofInput x).store
    quanta := (s.globalsAt o).quantaAt (SampleSet.ofInput x).store } := by
  have store : (s.closeInstant o).store = s.store := (congrArg State.store (s.closeInstant_runs o).rest :)
  have globals := s.sampleTaken_globals x o
  unfold State.sampleTaken State.measure State.measureStore at globals ⊢
  simp only at globals ⊢
  rw [globals, State.takeSample_out]
  dsimp only [State.evaluateAt, State.evaluateOutputs]
  rw [store]

/-! ## The half-cycle closed (R13, R18, R58, R61) -/

/-- The instant up to its boundary's closing. -/
def State.halved : State :=
  match (s.tracked x o).tracker.boundary with
  | some n => (s.tracked x o).closeHalfCycle n
  | none => s.tracked x o

theorem State.atDetector_eq : s.atDetector x o = (s.halved x o).beforeDetector x o := by
  unfold State.atDetector State.halved
  simp only
  cases (s.tracked x o).tracker.boundary <;> rfl

/-- What an instant leaves measured is what its boundary's closing leaves. -/
theorem State.instant_halved : (s.instant x o).measured = (s.halved x o).measured := by
  rw [State.instant_measured, State.atDetector_eq]
  exact (State.beforeDetector_late _ x o).measured

theorem State.halved_of_boundary (h : s.boundaryAt x o = true) :
    s.halved x o = (s.tracked x o).closeHalfCycle (s.tracked x o).tracker.boundarySpacing := by
  unfold State.halved
  unfold State.boundaryAt Tracker.boundary at *
  split at h
  · next e => simp only [if_pos e]
  · cases h

theorem State.halved_of_none (h : s.boundaryAt x o = false) : s.halved x o = s.tracked x o := by
  unfold State.halved
  unfold State.boundaryAt at h
  rw [Option.isSome_eq_false_iff, Option.isNone_iff_eq_none] at h
  rw [h]

/-- The values in force, the sample set and the store's measurement stand once measured. -/
theorem State.halved_read : (s.halved x o).inForce = (s.sampleTaken x o).inForce ∧
    (s.halved x o).sample = some (SampleSet.ofInput x) ∧
    ((s.halved x o).store.volts, (s.halved x o).store.energy, (s.halved x o).store.quanta) =
      (some (SampleSet.ofInput x).store, (s.globalsAt o).energyAt (SampleSet.ofInput x).store,
        (s.globalsAt o).quantaAt (SampleSet.ofInput x).store) := by
  obtain ⟨t, c, l, tracked, -⟩ := s.tracked_eq x o
  have sample := s.sampleTaken_sample x o
  have store := s.sampleTaken_store x o
  have read : (s.tracked x o).inForce = (s.sampleTaken x o).inForce ∧ (s.tracked x o).sample = some (SampleSet.ofInput x) ∧
      ((s.tracked x o).store.volts, (s.tracked x o).store.energy, (s.tracked x o).store.quanta) =
        (some (SampleSet.ofInput x).store, (s.globalsAt o).energyAt (SampleSet.ofInput x).store,
          (s.globalsAt o).quantaAt (SampleSet.ofInput x).store) := by
    rw [tracked]
    refine ⟨rfl, sample, ?_⟩
    dsimp only
    split
    · simp only [State.storeFormed, store]
    · rw [store]
  cases boundary : s.boundaryAt x o with
  | false => rw [State.halved_of_none s x o boundary]; exact read
  | true => rw [State.halved_of_boundary s x o boundary]; exact read

end

theorem State.energyAt_eq (g : Globals) (v : Nat) : g.energyAt v =
    if g.storeFloor < v then g.storeCapacitance * (v ^ 2 - g.storeFloor ^ 2) / 2000 else 0 := by
  unfold Globals.energyAt
  split
  · rw [pow_two, pow_two]
  · next low =>
    rw [Nat.sub_eq_zero_of_le (Nat.mul_le_mul (not_lt.mp low) (not_lt.mp low)), Nat.mul_zero, Nat.zero_div]

theorem clampInt_eq {lo hi : Int} (ordered : lo ≤ hi) (v : Int) : clampInt lo hi v = max lo (min hi v) := by
  unfold clampInt
  omega

/-- Settles O11. -/
theorem sampleSetLimitsInputsAndMeasuresStore : Obligations.SampleSetLimitsInputsAndMeasuresStore := by
  intro s x o g
  refine ⟨fun idle => ?_, fun sampling => ⟨s.instant x o, SampleSet.ofInput x, exec_sampleSet_of_sampling sampling x o, ?_⟩⟩
  · change execSampleSet x o s = _
    simp [execSampleSet, idle]
  · obtain ⟨-, sample, store⟩ := s.halved_read x o
    have left := s.instant_halved x o
    simp only [State.measured, Prod.mk.injEq] at left store
    obtain ⟨-, sample', -, -, ⟨volts', energy', quanta'⟩, -⟩ := left
    obtain ⟨volts, energy, quanta⟩ := store
    refine ⟨sample'.trans sample, fun p => ?_, fun f p => ?_, ?_, volts'.trans volts, ?_, ?_⟩
    · simp only [SampleSet.ofInput, Tri.get_of]
      exact clampInt_eq (by decide) _
    · simp only [SampleSet.ofInput, Six.get_of, Tri.get_of]
      exact clampInt_eq (by decide) _
    · simp only [SampleSet.ofInput, clampInt]
      omega
    · rw [energy', energy, State.energyAt_eq]
    · rw [quanta', quanta, energy', energy]
      rfl

end Sys2Proof.Machine
end

section
/-! SUPPORT. The half-cycle sums, the accumulators and the windows after a sample set; with them O13 and O16. -/

namespace Sys2Proof.Machine

open Sys2Proof

section

variable (s : State) (x : SampleInput) (o : Orders)

/-- R58, R61: a generator at an instant's end, by whether the instant is a boundary. -/
theorem State.halved_gen (f : Feeder) : (s.halved x o).gen.get f =
    if s.boundaryAt x o then
      ((s.sampleTaken x o).gen.get f).close ((s.valuesAt o.writtenNow).feeders.get f).energyScale (s.globalsAt o).quantum
    else (s.sampleTaken x o).gen.get f := by
  obtain ⟨t, c, l, tracked, -⟩ := s.tracked_eq x o
  have globals := s.sampleTaken_globals x o
  have feeders := s.sampleTaken_feeders x o
  cases boundary : s.boundaryAt x o with
  | false =>
    rw [State.halved_of_none s x o boundary, tracked]
    rfl
  | true =>
    rw [State.halved_of_boundary s x o boundary, tracked]
    simp only [State.closeHalfCycle, State.countRecharge, Six.get_of, globals, feeders, if_true]

/-- R17, R18: the magnitude unit at an instant's end. -/
theorem State.halved_magnitude : (s.halved x o).magnitude =
    if s.boundaryAt x o then
      (s.sampleTaken x o).magnitude.close (s.globalsAt o).nominalPeak (s.tracked x o).tracker.boundarySpacing
    else (s.sampleTaken x o).magnitude := by
  obtain ⟨t, c, l, tracked, -⟩ := s.tracked_eq x o
  have globals := s.sampleTaken_globals x o
  cases boundary : s.boundaryAt x o with
  | false =>
    rw [State.halved_of_none s x o boundary, tracked]
    rfl
  | true =>
    rw [State.halved_of_boundary s x o boundary, tracked]
    simp only [State.closeHalfCycle, State.countRecharge, globals, if_true]

theorem State.instant_gen (f : Feeder) :
    let h := (s.instant x o).gen.get f
    let g := (s.halved x o).gen.get f
    h.draw = g.draw ∧ h.satCount = g.satCount ∧ h.closedW = g.closedW ∧ h.closedQ = g.closedQ ∧
      h.closedSat = g.closedSat := by
  have left := s.instant_halved x o
  simp only [State.measured, Prod.mk.injEq] at left
  obtain ⟨-, -, -, -, -, -, gen⟩ := left
  simpa only [Prod.mk.injEq] using congrFun gen f

theorem State.instant_magnitude : (s.instant x o).magnitude = (s.halved x o).magnitude := by
  have left := s.instant_halved x o
  simp only [State.measured, Prod.mk.injEq] at left
  exact left.2.2.1

end

/-! ## The draw (O16) -/

theorem Generator.takeSample_closed (g : Generator) (b : Bool) (i : Tri Int) :
    (g.takeSample b i).closedW = g.closedW ∧ (g.takeSample b i).closedQ = g.closedQ ∧
      (g.takeSample b i).closedSat = g.closedSat := by
  unfold Generator.takeSample
  split <;> exact ⟨rfl, rfl, rfl⟩

theorem Generator.takeSample_draw (g : Generator) (b : Bool) (i : Tri Int) :
    (g.takeSample b i).draw = (if b = true ∧ g.tag = .injecting then
        g.draw + (g.refs.a * i.a + g.refs.b * i.b + g.refs.c * i.c) else g.draw) ∧
      (g.takeSample b i).satCount = if b = true ∧ g.clamped = true then g.satCount + 1 else g.satCount := by
  unfold Generator.takeSample
  cases b with
  | false => simp
  | true => simp

theorem joulesOf_eq (d : Int) (scale : Nat) : joulesOf d scale = (max d 0 * (scale : Int) / 16777216).toNat := by
  have lifted : ((joulesOf d scale : Nat) : Int) = max d 0 * (scale : Int) / 16777216 := by
    unfold joulesOf
    push_cast
    rw [Int.toNat_eq_max]
  omega

/-- Settles O16. The generator's accumulators after the sample set, closed at a boundary (`halved_gen`), are those the instant
leaves (`instant_gen`). -/
theorem boundaryClosesHalfCycle : Obligations.BoundaryClosesHalfCycle := by
  intro s x o takes
  refine ⟨s.instant x o, exec_sampleSet_of_sampling takes.1 x o, fun f => ?_⟩
  obtain ⟨draw, sat, w, q, closedSat⟩ := s.instant_gen x o f
  have halved := s.halved_gen x o f
  rw [State.boundaryAt_eq takes, State.sampleTaken_gen] at halved
  intro g h i inForce d n scale quantum w'
  obtain ⟨taken, counted⟩ := g.takeSample_draw (s.port.get f).sent.isSome i
  obtain ⟨keptW, keptQ, keptSat⟩ := g.takeSample_closed (s.port.get f).sent.isSome i
  refine ⟨fun plain => ?_, fun boundary => ?_⟩
  · rw [plain, if_neg Bool.false_ne_true] at halved
    rw [halved] at draw sat w q closedSat
    exact ⟨draw.trans taken, sat.trans counted, w.trans keptW, q.trans keptQ, closedSat.trans keptSat⟩
  · rw [boundary, if_pos rfl] at halved
    rw [halved] at draw sat w q closedSat
    have joules : (g.takeSample (s.port.get f).sent.isSome i |>.close scale quantum).closedW = w' := by
      change joulesOf (g.takeSample (s.port.get f).sent.isSome i).draw scale = w'
      rw [joulesOf_eq, taken]
    refine ⟨w.trans joules, q.trans ?_, draw, sat, closedSat.trans counted⟩
    rw [← joules]
    rfl

end Sys2Proof.Machine
end

section
/-! SUPPORT. The integer square root, the sliding windows and the per-mille magnitudes (R14, R15); with them O13. -/

namespace Sys2Proof.Machine

open Sys2Proof

/-! ## The square root (R15) -/

/-- The digits found so far enclose the root, and each further one halves what encloses it. -/
theorem sqrtDigits_spec (n : Nat) : ∀ k r, r ^ 2 ≤ n → n < (r + 2 ^ k) ^ 2 →
    sqrtDigits n k r ^ 2 ≤ n ∧ n < (sqrtDigits n k r + 1) ^ 2 := by
  intro k
  induction k with
  | zero => exact fun r low high => ⟨low, by simpa [sqrtDigits] using high⟩
  | succ k ih =>
    intro r low high
    unfold sqrtDigits
    rw [← pow_two]
    split
    · next fits =>
      refine ih _ fits (high.trans_eq ?_)
      rw [pow_succ 2 k, mul_two, add_assoc]
    · next less => exact ih _ low (not_le.mp less)

theorem floorSqrt_spec (n : Nat) : floorSqrt n ^ 2 ≤ n ∧ n < (floorSqrt n + 1) ^ 2 := by
  refine sqrtDigits_spec n _ 0 (by simp) ?_
  calc n < 2 ^ (n.log2 + 1) := Nat.lt_log2_self
    _ ≤ 2 ^ ((n.log2 / 2 + 1) * 2) := Nat.pow_le_pow_right (by decide) (by omega)
    _ = (0 + 2 ^ (n.log2 / 2 + 1)) ^ 2 := by rw [zero_add, pow_mul]

theorem isPerMille_perMille (a sum n : Nat) : isPerMille a sum n (perMille a sum n) :=
  ⟨floorSqrt (sum / n), (floorSqrt_spec _).1, (floorSqrt_spec _).2, rfl⟩

/-! ## The windows (R14) -/

/-- The sum of the squares of samples. -/
def squaresOf (l : List Int) : Nat := (l.map fun v => v.natAbs ^ 2).sum

theorem squaresOf_append (l : List Int) (v : Int) : squaresOf (l ++ [v]) = squaresOf l + v.natAbs ^ 2 := by
  simp [squaresOf]

theorem squaresOf_cons (v : Int) (l : List Int) : squaresOf (v :: l) = v.natAbs ^ 2 + squaresOf l := by
  simp [squaresOf]

/-- R14: a window of at most 48 samples with their true sum of squares keeps the latest 48 with theirs. -/
theorem Window.push_of_true {w : Window} (short : w.samples.length ≤ 48) (true_sum : w.sum = squaresOf w.samples) (v : Int) :
    w.push v = ⟨(w.samples ++ [v]).drop (w.samples.length - 47), squaresOf ((w.samples ++ [v]).drop (w.samples.length - 47))⟩ := by
  obtain ⟨samples, sum⟩ := w
  simp only at short true_sum
  subst true_sum
  unfold Window.push
  cases samples with
  | nil => simp [squaresOf, square, pow_two]
  | cons old rest =>
    simp only [List.length_cons] at short ⊢
    split
    · next full =>
      have one : rest.length + 1 - 47 = 1 := by omega
      simp only [one, List.cons_append, List.drop_succ_cons, List.drop_zero, squaresOf_append, squaresOf_cons, square,
        ← pow_two, Nat.add_sub_cancel_left]
    · next room =>
      have none : rest.length + 1 - 47 = 0 := by omega
      simp only [none, List.drop_zero, squaresOf_append, square, ← pow_two]

theorem readingOf_vret (m : Tri Nat) : (readingOf m).vret = min m.a (min m.b m.c) := by
  unfold readingOf
  split
  · dsimp only
    omega
  · split <;> (dsimp only; omega)

/-! ## The magnitude unit after an instant -/

section

variable (s : State) (x : SampleInput) (o : Orders)

theorem State.instant_windows (p : Phase) : (s.instant x o).magnitude.windows.get p =
    (s.magnitude.windows.get p).push ((SampleSet.ofInput x).bus.get p) := by
  rw [State.instant_magnitude, State.halved_magnitude, State.sampleTaken_magnitude]
  split <;> exact Tri.get_of _ p

theorem all_full_iff (w : Tri Window) : (Phase.list.all fun p => (w.get p).samples.length == 48) = true ↔
    ∀ p, (w.get p).samples.length = 48 := by
  simp only [List.all_eq_true, beq_iff_eq]
  exact ⟨fun h p => h p (by cases p <;> decide), fun h p _ => h p⟩

/-- R15, R16: the magnitudes are formed when every window is full. -/
theorem State.instant_mags : (s.instant x o).magnitude.mags =
    if Phase.list.all fun p => ((s.instant x o).magnitude.windows.get p).samples.length == 48 then
      some (Tri.of fun p => perMille (s.globalsAt o).nominalPeak ((s.instant x o).magnitude.windows.get p).sum 48)
    else none := by
  rw [State.instant_magnitude, State.halved_magnitude, State.sampleTaken_magnitude]
  split <;> rfl

theorem State.instant_mags_eq : (s.instant x o).magnitude.mags = s.magsAfter x o := by
  rw [State.instant_magnitude, State.halved_magnitude, State.sampleTaken_magnitude]
  split <;> rfl

theorem State.instant_reading : (s.instant x o).reading = (s.magsAfter x o).map readingOf := by
  unfold State.reading
  rw [State.instant_mags_eq]

end

section

variable {s : State} {o : Orders} (takes : s.takesSample o) (x : SampleInput)
include takes

/-- R13: the length of the half-cycle that a boundary closes. -/
theorem State.tracked_spacing : (s.tracked x o).tracker.boundarySpacing = min (s.tracker.boundarySpacing + 1) 255 := by
  have tracker : (s.tracked x o).tracker = s.trackerAfter x := congrArg Prod.fst (State.tracked_seen takes x)
  rw [tracker]
  unfold State.trackerAfter Tracker.handle
  simp only
  split
  · split
    · split <;> rfl
    · rfl
  · split
    · split
      · rfl
      · split <;> rfl
    · split <;> rfl
  · rfl

/-- R17, R18: the sums and the delivered magnitudes after an instant. -/
theorem State.instant_sums : (s.instant x o).magnitude.sums = (if s.boundaryAfter x then Six.all (Tri.all 0) else
      ((s.magnitude.takeBus (s.globalsAt o).nominalPeak (SampleSet.ofInput x).bus).takeOutputs (SampleSet.ofInput x).bus
        s.refsHeld).sums) ∧
    (s.instant x o).magnitude.delivered = if s.boundaryAfter x then
      some (Six.of fun f => deliveredOf (s.globalsAt o).nominalPeak (min (s.tracker.boundarySpacing + 1) 255)
        (((s.magnitude.takeBus (s.globalsAt o).nominalPeak (SampleSet.ofInput x).bus).takeOutputs (SampleSet.ofInput x).bus
          s.refsHeld).sums.get f))
      else s.magnitude.delivered := by
  rw [State.instant_magnitude, State.halved_magnitude, State.sampleTaken_magnitude, State.boundaryAt_eq takes,
    State.tracked_spacing takes]
  cases s.boundaryAfter x <;> exact ⟨rfl, rfl⟩

end

/-- Settles O13. The windows take the bus samples and give the magnitudes once full (`instant_windows`, `instant_mags`); the
half-cycle sums take the outputs and close at a boundary (`instant_sums`). -/
theorem magnitudesFollowTheWindows : Obligations.MagnitudesFollowTheWindows := by
  intro s x o sampling a bus old new total injected sum
  refine ⟨s.instant x o, exec_sampleSet_of_sampling sampling x o, fun windows => ?_, fun takes => ?_⟩
  · have pushed (p : Phase) : (s.instant x o).magnitude.windows.get p = ⟨new p, total (new p)⟩ :=
      (s.instant_windows x o p).trans (Window.push_of_true (windows p).1 (windows p).2 _)
    have mags := s.instant_mags x o
    have full_iff := all_full_iff (s.instant x o).magnitude.windows
    simp only [pushed] at mags full_iff
    refine ⟨pushed, fun ⟨p, filling⟩ => ?_, fun full => ?_⟩
    · rw [if_neg fun full => absurd (full_iff.mp full p) (Nat.ne_of_lt filling)] at mags
      exact ⟨mags, by rw [State.vret, State.reading, mags]; rfl⟩
    · rw [if_pos (full_iff.mpr full)] at mags
      refine ⟨_, mags, fun p => ?_, ?_⟩
      · rw [Tri.get_of]
        exact isPerMille_perMille _ _ _
      · rw [State.vret, State.reading, mags, Option.map_some, Option.map_some, readingOf_vret]
  · obtain ⟨sums, delivered⟩ := State.instant_sums takes x
    have output (f : Feeder) (p : Phase) : ((((s.magnitude.takeBus a bus).takeOutputs bus s.refsHeld).sums.get f).get p) =
        sum f p := by
      simp only [Magnitude.takeOutputs, Six.get_of, Tri.get_of, State.refsHeld, square, ← pow_two, sum, injected]
      split <;> simp [Magnitude.takeBus]
    refine ⟨fun plain => ?_, fun boundary => ?_⟩
    · rw [plain] at sums delivered
      exact ⟨delivered, fun f p => by rw [sums]; exact output f p⟩
    · rw [boundary] at sums delivered
      refine ⟨fun f p => by rw [sums]; simp, _, delivered, fun f => ?_⟩
      rw [Six.get_of]
      refine ⟨_, _, _, isPerMille_perMille _ _ _, isPerMille_perMille _ _ _, isPerMille_perMille _ _ _, ?_⟩
      rw [← output f .a, ← output f .b, ← output f .c]
      rfl

end Sys2Proof.Machine
end

section
/-! SUPPORT. The rows that name what comes about at a sample instant, an expiry, a slot's examination or a line's acceptance,
each within an instant's frame; with them O12. -/

namespace Sys2Proof.Machine

open Sys2Proof
open State (Within)

section

variable (s : State)

theorem State.instantIf_within (arises : Bool) (x : SampleInput) (o : Orders) : Within s (s.instantIf arises x o) :=
  .ite (s.instant_within x o) (.refl s)

/-- An event that may arise, with the transmitter's choice around it. -/
theorem State.eventIf_within (arises left : Bool) {event : State → State} (h : ∀ s, State.Late s (event s)) :
    Within s (if arises then s.asEvent left event else s) :=
  .ite (s.asEvent_late left event h).within (.refl s)

/-- Every row of the line, the sequencers, the ports and the signal lines answers a state within the frame of an instant. -/
theorem exec_of_ofLine {c : Instr} (row : c.ofLine = true) : ∃ t, exec c s = .next t ∧ Within s t := by
  cases c
  case sampleSet x o => exact ⟨_, rfl, .ite (s.instant_within x o) (.refl s)⟩
  case trackerMisses x o => exact ⟨_, rfl, s.instantIf_within _ x o⟩
  case trackerSilence x o => exact ⟨_, rfl, s.instantIf_within _ x o⟩
  case fastTrip x o => exact ⟨_, rfl, s.instantIf_within _ x o⟩
  case recovered x o => exact ⟨_, rfl, s.instantIf_within _ x o⟩
  case eventLimit x o => exact ⟨_, rfl, s.instantIf_within _ x o⟩
  case lockoutDwellComplete x o => exact ⟨_, rfl, s.instantIf_within _ x o⟩
  case rechargeDelayExpiry x o => exact ⟨_, rfl, s.instantIf_within _ x o⟩
  case armTimeout f lv => exact ⟨_, rfl, s.eventIf_within _ _ fun s => s.armExpiry_late lv f⟩
  case bypassTimerExpiry f lv => exact ⟨_, rfl, s.eventIf_within _ _ fun s => s.bypassExpiry_late lv f⟩
  case handoverExpiry f => exact ⟨_, rfl, .ite (s.handoverExpiry_late f).within (.refl s)⟩
  case stopTimerExpiry f => exact ⟨_, rfl, s.eventIf_within _ _ fun s => s.stopExpiry_late _ f.value⟩
  case slotExamination f slot lv => exact ⟨_, rfl, s.eventIf_within _ _ fun s => s.examine_late lv f slot⟩
  case portUp f slot lv => exact ⟨_, rfl, s.eventIf_within _ _ fun s => s.examine_late lv f slot⟩
  case portLost f slot lv => exact ⟨_, rfl, s.eventIf_within _ _ fun s => s.examine_late lv f slot⟩
  case portRecovered f slot lv => exact ⟨_, rfl, s.eventIf_within _ _ fun s => s.examine_late lv f slot⟩
  case lineAccepted l => exact ⟨_, rfl, s.eventIf_within _ _ fun s => s.acceptLine_late false l.leave l.value⟩
  all_goals cases row

end

/-- Settles O12. -/
theorem instantEventsFrame : Obligations.InstantEventsFrame := by
  intro c s row
  obtain ⟨t, done, ⟨⟨fixed, classes, link, groups, offline, -, -, -⟩, -⟩⟩ := exec_of_ofLine s row
  obtain ⟨inReset, straps, loader, globals, feeders, image, freeCount, pending⟩ := fixed
  exact ⟨t, done, inReset, straps, loader, globals, feeders, image, freeCount, pending, classes.1, classes.2, link.asm,
    link.service, link.mask, link.waiting, groups, offline⟩

end Sys2Proof.Machine
end

section
/-! SUPPORT. The courses of a sample instant: what its stages around the detector's step do (`Course`), but for an external
trigger that reaches a detector in CLEAR after its step (`Passes`); and the outcome entries' facts, which no allocation point
touches (`Noted`). -/

namespace Sys2Proof.Machine

open Sys2Proof
open State (Course Grows Runs Noted)

/-! ## Entries written, and no facts of a half-cycle -/

namespace State.Noted

variable {s t : State}

theorem refl (s : State) : Noted s s := .of_eq rfl

theorem ite {u : State} {c : Prop} [Decidable c] (a : Noted s t) (b : Noted s u) : Noted s (if c then t else u) := by
  split
  · exact a
  · exact b

theorem foldl {α : Type} {step : State → α → State} (h : ∀ a s, Noted s (step s a)) (l : List α) (s : State) :
    Noted s (l.foldl step s) := foldl_rel Noted.refl Noted.trans h l s

theorem forFeeders {step : Feeder → State → State} (h : ∀ f s, Noted s (step f s)) (s : State) :
    Noted s (Machine.forFeeders step s) := Noted.foldl (step := fun s f => step f s) h _ s

theorem forGroups {step : GroupNo → State → State} (h : ∀ g s, Noted s (step g s)) (s : State) :
    Noted s (Machine.forGroups step s) := Noted.foldl (step := fun s g => step g s) h _ s

/-- The detector but for its record. -/
theorem same (h : Noted s t) : t.detector.state = s.detector.state ∧ t.detector.t = s.detector.t ∧
    t.detector.dwell = s.detector.dwell ∧ t.detector.nextNumber = s.detector.nextNumber ∧
    t.detector.table = s.detector.table ∧ t.detector.clearedNow = s.detector.clearedNow := by
  obtain ⟨c, -, e⟩ := h
  rw [e]
  exact ⟨rfl, rfl, rfl, rfl, rfl, rfl⟩

theorem eventOpen (h : Noted s t) : t.eventOpen = s.eventOpen := by
  unfold State.eventOpen
  rw [h.same.1]

/-- The open record but for its entries, and its entries' facts. -/
theorem record (h : Noted s t) : ∃ c : Entry → Entry, (∀ e, (c e).facts = e.facts) ∧
    t.detector.record = s.detector.record.map fun r => { r with entries := r.entries.map c } := by
  obtain ⟨c, kept, e⟩ := h
  exact ⟨c, kept, by rw [e]; rfl⟩

end State.Noted

theorem Entry.standBy_facts (e : Entry) (r : StoodBy) : (e.standBy r).facts = e.facts := by
  unfold Entry.standBy
  split <;> rfl

theorem Entry.engage_facts (e : Entry) (m : Mode) : (e.engage m).facts = e.facts := by
  unfold Entry.engage
  split <;> rfl

theorem State.candidateGrant_noted (s : State) (f : Feeder) (m : Mode) : Noted s (s.candidateGrant f m) := by
  by_cases standby : (s.seq.get f).state = .standby
  · rw [State.candidateGrant_of_standby standby]
    exact .of_eq rfl
  · rw [State.candidateGrant_of_other standby]
    exact .refl s

theorem State.deliverUnit_noted (s : State) (u : UnitGrant) : Noted s (s.deliverUnit u) := by
  unfold State.deliverUnit
  split
  · next m _ _ =>
    unfold State.deliverCandidate
    have members := Noted.foldl (step := fun s f => (s.candidateGrant f m).updateEntry f fun e => e.engage m)
      (fun f t => (t.candidateGrant_noted f m).trans (State.updateEntry_noted _ f _ fun e => e.engage_facts m)) u.feeders s
    cases u.group with
    | none => exact members
    | some g => exact members.trans (.of_eq rfl)
  · exact .refl s
  · next m _ _ =>
    exact Noted.foldl (fun f t => (State.participantGrant_course (k := .any) trivial t f m).noted) u.feeders s
  · unfold State.deliverStarved
    have members (t : State) : Noted t (u.feeders.foldl (fun s f => s.release .nothing f .starved) t) :=
      Noted.foldl (fun f t => (t.release_course (k := .any) _ f _).noted) u.feeders t
    cases u.group with
    | none => exact members s
    | some g => exact (s.starveGroup_course (k := .any) g).noted.trans (members _)

theorem State.releaseNotNeeded_noted (s : State) (which : GroupNo → Bool) : Noted s (s.releaseNotNeeded which) := by
  unfold State.releaseNotNeeded
  refine (Noted.forFeeders (fun f s => ?_) s).trans (Noted.forGroups (fun g s => ?_) _)
  · exact (s.release_course (k := .any) _ f _).noted.ite (.refl s)
  · exact (Noted.foldl (fun f s => (s.release_course (k := .any) _ f _).noted) _ s).ite (.refl s)

theorem State.deliverStoodBy_noted (s : State) (p : PointKind) (began : Four Group) (units : List UnitGrant) :
    Noted s (s.deliverStoodBy p began units) := by
  unfold State.deliverStoodBy
  refine Noted.forFeeders (fun f t => ?_) s
  split
  · next r _ => exact t.updateEntry_noted f _ fun e => e.standBy_facts r
  · exact .refl t

/-- An allocation point writes into the entries of the open record, and no facts of a half-cycle. -/
theorem State.allocate_noted (s : State) (p : PointKind) {between : State → State} (hb : ∀ s, Noted s (between s)) :
    Noted s (s.allocate p between) := by
  have releases : Noted s (if p.isBoundary then s.releaseNotNeeded fun g => p.isBoundary && s.groupReleased g else s) :=
    (s.releaseNotNeeded_noted _).ite (.refl s)
  have kept (t : State) (units : List UnitGrant) : Noted t ((t.setFlags p).keepGrants p units) := .of_eq rfl
  have told (t : State) (which : GroupNo → Bool) : Noted t (t.tellNotNeeded which) :=
    Noted.forGroups (fun g s => (s.groupNotNeeded_course (k := .any) g).noted.ite (.refl s)) t
  unfold State.allocate
  exact releases.trans (((((State.deliverStoodBy_noted _ p _ _).trans (kept _ _)).trans (hb _)).trans
    (told _ _)).trans (Noted.foldl (fun u s => s.deliverUnit_noted u) _ _))

/-- R23: the detector as an onset leaves it, but for what an allocation point writes into the entries. -/
theorem State.onset_noted (s : State) (c : OnsetCause) (heard : Bool) {between : State → State}
    (hb : ∀ s, Noted s (between s)) :
    Noted { s with detector := { s.detector with
      state := .active, t := 0, dwell := 0,
      record := some (s.newRecord c (compensability s.loader.op (heard && s.tracker.state != .seeking)))
      nextNumber := nextEventNumber s.detector.nextNumber } } (s.onset c heard between) := by
  unfold State.onset
  have asked (t : State) (same : ∃ k l, t = { s with tracker := k, link := l }) (m : Compensability) :
      Noted { s with detector := { s.detector with
        state := .active, t := 0, dwell := 0, record := some (s.newRecord c m)
        nextNumber := nextEventNumber s.detector.nextNumber } } (t.openRecord c m) := by
    obtain ⟨k, l, rfl⟩ := same
    exact .of_eq rfl
  have request : ∃ k l, (if heard = true ∧ s.tracker.state = .locked then
      s.trackerTo s.tracker.requestHolding .eventOnset else s) = { s with tracker := k, link := l } := by
    split <;> exact ⟨_, _, rfl⟩
  exact ((asked _ request _).trans (State.allocate_noted _ _ hb)).ite (asked _ request _)

theorem State.onset_eventOpen (s : State) (c : OnsetCause) (heard : Bool) {between : State → State}
    (hb : ∀ s, Noted s (between s)) : (s.onset c heard between).eventOpen = true :=
  (s.onset_noted c heard hb).eventOpen

/-! ## An onset barred, or taken -/

/-- No onset can be taken: the detector is not in CLEAR, or has returned to it at this very instant (R22). -/
def Detector.shut (d : Detector) : Prop := d.state = .clear → d.clearedNow = true

/-- A course, or one on which a detector in CLEAR takes an external trigger (R22, R158). -/
def State.Passes (k : Taken) (s t : State) : Prop := Course k s t ∨ ¬ s.detector.shut ∧ t.eventOpen = true

open State (Passes)

theorem State.Course.shut {k : Taken} {s t : State} (h : Course k s t) : t.detector.shut ↔ s.detector.shut := by
  unfold Detector.shut
  obtain ⟨state, -, -, -, -, cleared⟩ := h.noted.same
  rw [state, cleared]

namespace State.Passes

variable {k : Taken} {s t u : State}

theorem refl (s : State) : Passes k s s := .inl (.refl s)

theorem trans (a : Passes k s t) (b : Passes k t u) : Passes k s u := by
  rcases a with a | ⟨waits, opened⟩
  · rcases b with b | ⟨waits, opened⟩
    · exact .inl (a.trans b)
    · exact .inr ⟨a.shut.not.mp waits, opened⟩
  · rcases b with b | ⟨-, opened'⟩
    · exact .inr ⟨waits, b.eventOpen.trans opened⟩
    · exact .inr ⟨waits, opened'⟩

theorem ite {c : Prop} [Decidable c] (a : Passes k s t) (b : Passes k s u) : Passes k s (if c then t else u) := by
  split
  · exact a
  · exact b

theorem forFeeders {step : Feeder → State → State} (h : ∀ f s, Passes k s (step f s)) (s : State) :
    Passes k s (Machine.forFeeders step s) :=
  foldl_rel Passes.refl Passes.trans (step := fun s f => step f s) h _ s

theorem forLines {step : Line → State → State} (h : ∀ l s, Passes k s (step l s)) (s : State) :
    Passes k s (Machine.forLines step s) :=
  foldl_rel Passes.refl Passes.trans (step := fun s l => step l s) h _ s

theorem course_of_shut (h : Passes k s t) (shut : s.detector.shut) : Course k s t := h.resolve_right fun e => e.1 shut

theorem course_of_closed (h : Passes k s t) (closed : t.eventOpen = false) : Course k s t :=
  h.resolve_right fun e => by rw [closed] at e; exact absurd e.2 nofun

end State.Passes

/-! ## The events around the detector's step -/

section

variable {k : Taken}

theorem State.evaluateAt_course (s : State) (o : Orders) (p : Stage) : Course k s (s.evaluateAt o p) :=
  .blocks _ _ rfl rfl rfl rfl rfl rfl rfl

theorem State.setLine_course (s : State) (l : Line) (x : LineState) : Course k s (s.setLine l x) :=
  .blocks _ _ rfl rfl rfl rfl rfl rfl rfl

theorem State.switchBank_course (s : State) (b : Bank) : Course k s (s.switchBank b) :=
  Course.ite (.blocks _ _ rfl rfl rfl rfl rfl rfl rfl) (.blocks _ _ rfl rfl rfl rfl rfl rfl rfl)

/-- The records sent move the ports and the generators alone. -/
theorem State.sendIfSending_eq (s : State) (f : Feeder) (bus : Tri Int) :
    ∃ g p, s.sendIfSending f bus = { s with gen := g, port := p } := by
  unfold State.sendIfSending
  split <;> exact ⟨_, _, rfl⟩

theorem State.recordsAt_course (s : State) (x : SampleInput) (o : Orders) (p : RecordPlace) :
    Course k s (s.recordsAt x o p) := by
  unfold State.recordsAt State.sendRecords
  refine Course.forFeeders (fun f s => ?_) s
  split
  · obtain ⟨g, p, e⟩ := s.sendIfSending_eq f (SampleSet.ofInput x).bus
    rw [e]
    exact .blocks _ _ rfl rfl rfl rfl rfl rfl rfl
  · exact .refl s

theorem State.updateStore_course (s : State) (v : Nat) : Course k s (s.updateStore v) := by
  obtain ⟨l, e, grows, -⟩ := s.updateStore_out v
  rw [e]
  exact Course.trans (t := { s with store := s.storeFormed v }) (.blocks _ _ rfl rfl rfl rfl rfl rfl rfl) (.links _ l grows)

theorem State.settleChoice_course (s : State) (left : Bool) : Course k s (s.settleChoice left) := by
  have grows := s.settleChoice_grows left
  unfold State.Grows at grows
  unfold State.settleChoice at grows ⊢
  split at grows
  · next h => rw [if_pos h]; exact .links s _ grows
  · next h => rw [if_neg h]; exact .links s _ grows

theorem State.settleTimers_course (s : State) (kept : Feeder → Bool) : Course k s (s.settleTimers kept) :=
  .seqs s _ (fun f => (s.settleTimers_seq kept f).2.2)
    (fun f engaged => by
      have state := (s.settleTimers_seq (k := k) kept f).1
      rw [State.participant, ← state]
      exact engaged)
    fun f barred => .inl ((s.settleTimers_seq (k := k) kept f).2.1 ▸ barred)

/-- R153: an acceptance whose external trigger, if any, the detector has weighed already. -/
theorem State.acceptLine_course_of_weighed (s : State) (lv : Leave) (l : Line) : Course k s (s.acceptLine true lv l) := by
  unfold State.acceptLine
  simp only
  split
  · split
    · split
      · exact (s.setLine_course l _).trans (State.hold_course _ _ _ _)
      · exact s.setLine_course l _
    · rw [Bool.not_true, Bool.and_false]
      exact s.setLine_course l _
    · split
      · exact (s.setLine_course l _).trans (State.switchBank_course _ _)
      · exact s.setLine_course l _
    · exact s.setLine_course l _
  · exact .refl s

/-- R158: an external trigger told to the detector makes an event of a detector in CLEAR, and is nothing to any other. -/
theorem State.externalTrigger_passes (s : State) : Passes k s s.externalTrigger := by
  unfold State.externalTrigger
  split
  · next h =>
    exact .inr ⟨fun shut => h.2 (shut h.1), s.onset_eventOpen .external true Noted.refl⟩
  · exact .refl s

theorem State.acceptLine_passes (s : State) (lv : Leave) (l : Line) : Passes k s (s.acceptLine false lv l) := by
  unfold State.acceptLine
  simp only
  split
  · split
    · split
      · exact .inl ((s.setLine_course l _).trans (State.hold_course _ _ _ _))
      · exact .inl (s.setLine_course l _)
    · exact Passes.ite (Passes.trans (.inl (s.setLine_course l _)) (State.externalTrigger_passes _)) (.inl (s.setLine_course l _))
    · split
      · exact .inl ((s.setLine_course l _).trans (State.switchBank_course _ _))
      · exact .inl (s.setLine_course l _)
    · exact .inl (s.setLine_course l _)
  · exact .refl s

section

variable (s : State) (o : Orders)

/-- The expiries at one place of the instant. -/
theorem State.placedExpiries_course {p : Place} (may : ∀ f, o.expiry.get f = p → k.expires f) (lv : Leave) (s : State) :
    Course k s (forFeeders (fun f s => if o.expiry.get f = p then s.expire lv f else s) s) := by
  refine Course.forFeeders (fun f s => ?_) s
  split
  · next h => exact s.expire_course _ (may f h)
  · exact .refl s

/-- Before the detector's step the acceptances and expiries are a course: the detector weighs the triggers (R22). -/
theorem State.takePlaced_course (may : ∀ f, o.expiry.get f = .first → k.expires f) : Course k s (s.takePlaced o .first) :=
  (Course.forLines (fun l s => Course.ite (s.acceptLine_course_of_weighed _ l) (.refl s)) s).trans
    (State.placedExpiries_course o may _ _)

theorem State.takePlaced_passes {p : Place} (late : p ≠ .first) (may : ∀ f, o.expiry.get f = p → k.expires f) :
    Passes k s (s.takePlaced o p) := by
  have unweighed : (p == Place.first) = false := beq_false_of_ne late
  unfold State.takePlaced
  rw [unweighed]
  exact (Passes.forLines (fun l s => Passes.ite (s.acceptLine_passes _ l) (.refl s)) s).trans
    (.inl (State.placedExpiries_course o may _ _))

end

end

/-! ## The stages, cut where the reference records are sent -/

section

variable (s : State) (x : SampleInput) (o : Orders)

/-- The instant from the detector's step to the last records. -/
def State.middle : State := ((s.settleGroups o.leaveLate).evaluateAt o .detected).takePlaced o .middle

/-- The instant from the store's states on. -/
def State.ending : State :=
  ((((s.evaluateAt o .stored).takePlaced o .last).evaluateAt o .last).settleTimers fun _ => false).settleChoice o.choiceLeft

/-- The store's states of an instant, where they are formed after the detector's step (R70). -/
def State.storeLate : State := if o.storeEarly then s else s.updateStore (SampleSet.ofInput x).store

theorem State.finish_eq : s.finish x o = (((s.middle o).recordsAt x o .last).storeLate x o).ending o := rfl

/-- The instant from the half-cycle's closing to the records placed first. -/
theorem State.beforeDetector_eq : s.beforeDetector x o =
    ((((s.evaluateAt o .tracked).recordsAt x o .first).takePlaced o .first).recordsAt x o .placed).evaluateAt o .placed :=
  rfl

variable {k : Taken} (may : ∀ f, o.expiry.get f ≠ .apart → k.expires f)
include may

theorem State.beforeDetector_course : Course k s (s.beforeDetector x o) :=
  ((((s.evaluateAt_course o _).trans (State.recordsAt_course _ x o _)).trans
    (State.takePlaced_course _ o fun f e => may f (by rw [e]; decide))).trans (State.recordsAt_course _ x o _)).trans
      (State.evaluateAt_course _ o _)

theorem State.middle_passes : Passes k s (s.middle o) :=
  Passes.trans (.inl ((s.settleGroups_course o.leaveLate).trans (State.evaluateAt_course _ o _)))
    (State.takePlaced_passes _ o (by decide) fun f e => may f (by rw [e]; decide))

theorem State.ending_passes : Passes k s (s.ending o) :=
  (Passes.trans (.inl (s.evaluateAt_course o _)) (State.takePlaced_passes _ o (by decide) fun f e => may f
    (by rw [e]; decide))).trans (.inl (((State.evaluateAt_course _ o _).trans (State.settleTimers_course _ _)).trans
      (State.settleChoice_course _ _)))

omit may in
theorem State.storeLate_course : Course k s (s.storeLate x o) := (Course.refl s).ite (s.updateStore_course _)

/-- After the detector's step an instant is a course, unless a trigger placed late opens an event. -/
theorem State.finish_passes : Passes k s (s.finish x o) := by
  rw [State.finish_eq]
  exact ((s.middle_passes o may).trans (.inl ((State.recordsAt_course _ x o _).trans
    (State.storeLate_course _ x o)))).trans (State.ending_passes _ o may)

end

end Sys2Proof.Machine
end

section
/-! SUPPORT. The detector's step (R21 to R27) cut where the reference records of its place are sent: what comes before them
(`State.stepping`) and after them (`State.concluded`); and the step's work on the open record, written out. -/

namespace Sys2Proof.Machine

open Sys2Proof
open State (Course Grows Runs Noted Passes)

/-! ## The cut -/

/-- The detector's step up to the records: in an event the minima, the level test and, at a boundary, the facts, the closed
budgets, the verdicts and t. -/
def State.stepping (s : State) (boundary : Bool) : State :=
  if s.eventOpen then
    if boundary then s.updateMinima.levelTest.addFacts.closeBudgets.countBoundary else s.updateMinima.levelTest
  else s

/-- The detector's step from the records on, but for the injected flags: an onset, the end of an event or its next allocation
point, the count of a LOCKOUT. -/
def State.concluded (s : State) (o : Orders) (boundary external heard : Bool) : State :=
  match s.detector.state with
  | .clear =>
    match s.onsetCause s.comparator.trips external with
    | some c => s.onset c heard fun s => s.refusalsBetween o
    | none => s
  | .active | .dwell =>
    if boundary then
      match s.endCause with
      | some e => s.endEvent e
      | none =>
        if s.detector.record.map (·.comp) = some .compensable then
          s.allocate (.boundary s.detector.t) fun s => s.refusalsBetween o
        else s
    else s
  | .lockout => if boundary then s.lockoutStep else s

theorem State.levelTest_open {s : State} (h : s.eventOpen = true) : s.levelTest.eventOpen = true := by
  unfold State.levelTest
  split
  · split
    · rfl
    · exact h
  · split
    · rfl
    · exact h
  · exact h
  · exact h

theorem State.updateMinima_eventOpen (s : State) : s.updateMinima.eventOpen = s.eventOpen := by
  unfold State.updateMinima
  split <;> rfl

theorem State.addFacts_eventOpen (s : State) : s.addFacts.eventOpen = s.eventOpen := by
  unfold State.addFacts
  split <;> rfl

theorem State.closeBudgets_eventOpen (s : State) : s.closeBudgets.eventOpen = s.eventOpen := by
  unfold State.closeBudgets
  exact foldl_keeps (P := fun t => t.eventOpen = s.eventOpen) (fun f t h => by
    dsimp only
    split
    · split
      · exact (t.updateEntry_eventOpen f _).trans h
      · exact h
    · exact h) _ s rfl

theorem State.countBoundary_eventOpen (s : State) : s.countBoundary.eventOpen = s.eventOpen := by
  have judged : s.judge.eventOpen = s.eventOpen := by
    unfold State.judge
    split <;> rfl
  exact judged

/-- The step keeps an event open up to its records. -/
theorem State.stepping_eventOpen (s : State) (boundary : Bool) : (s.stepping boundary).eventOpen = s.eventOpen := by
  unfold State.stepping
  split
  · next h =>
    have tested := State.levelTest_open (s.updateMinima_eventOpen.trans h)
    rw [h]
    split
    · rwa [State.countBoundary_eventOpen, State.closeBudgets_eventOpen, State.addFacts_eventOpen]
    · exact tested
  · rfl

theorem State.stepping_of_closed {s : State} (h : s.eventOpen = false) (boundary : Bool) : s.stepping boundary = s := by
  simp [State.stepping, h]

theorem DetectorState.eventOpen_iff (d : DetectorState) : d.eventOpen = true ↔ d = .active ∨ d = .dwell := by
  cases d <;> simp [DetectorState.eventOpen]

section

variable {s : State} {o : Orders} {boundary external heard : Bool}

theorem State.concluded_of_open (h : s.eventOpen = true) : s.concluded o boundary external heard =
    if boundary then
      match s.endCause with
      | some e => s.endEvent e
      | none =>
        if s.detector.record.map (·.comp) = some .compensable then
          s.allocate (.boundary s.detector.t) fun s => s.refusalsBetween o
        else s
    else s := by
  unfold State.concluded
  rcases (DetectorState.eventOpen_iff _).mp h with e | e <;> simp only [e]

theorem State.concluded_of_plain (h : s.eventOpen = true) (plain : boundary = false) :
    s.concluded o boundary external heard = s := by
  rw [State.concluded_of_open h, plain]
  rfl

theorem State.concluded_of_end {e : EndCause} (h : s.eventOpen = true) (ends : s.endCause = some e) :
    s.concluded o true external heard = s.endEvent e := by
  rw [State.concluded_of_open h, ends]
  rfl

theorem State.concluded_of_going (h : s.eventOpen = true) (goes : s.endCause = none) :
    s.concluded o true external heard =
      if s.detector.record.map (·.comp) = some .compensable then
        s.allocate (.boundary s.detector.t) fun s => s.refusalsBetween o
      else s := by
  rw [State.concluded_of_open h, goes]
  rfl

theorem State.concluded_of_clear (h : s.detector.state = .clear) : s.concluded o boundary external heard =
    match s.onsetCause s.comparator.trips external with
    | some c => s.onset c heard fun s => s.refusalsBetween o
    | none => s := by
  unfold State.concluded
  simp only [h]

theorem State.concluded_of_onset {c : OnsetCause} (h : s.detector.state = .clear)
    (onset : s.onsetCause s.comparator.trips external = some c) :
    s.concluded o boundary external heard = s.onset c heard fun s => s.refusalsBetween o := by
  rw [State.concluded_of_clear h, onset]

theorem State.concluded_of_lockout (h : s.detector.state = .lockout) :
    s.concluded o boundary external heard = if boundary then s.lockoutStep else s := by
  unfold State.concluded
  simp only [h]

end

/-- The detector's step, cut. -/
theorem State.detect_eq (s : State) (x : SampleInput) (o : Orders) (boundary external heard : Bool) :
    s.detect x o boundary external heard =
      let t := ((s.stepping boundary).recordsAt x o .stepped).concluded o boundary external heard
      if boundary then t.clearInjected else t := by
  have records := State.recordsAt_detector (s.stepping boundary) x o .stepped
  have opened : State.eventOpen ((s.stepping boundary).recordsAt x o .stepped) = s.eventOpen := by
    rw [State.eventOpen, records]
    exact s.stepping_eventOpen boundary
  cases e : s.detector.state with
  | clear =>
    have closed : s.eventOpen = false := by rw [State.eventOpen, e]; rfl
    rw [State.stepping_of_closed closed] at records ⊢
    rw [State.concluded_of_clear (records ▸ e)]
    unfold State.detect
    simp only [e] <;> rfl
  | lockout =>
    have closed : s.eventOpen = false := by rw [State.eventOpen, e]; rfl
    rw [State.stepping_of_closed closed] at records ⊢
    rw [State.concluded_of_lockout (records ▸ e)]
    unfold State.detect
    simp only [e] <;> rfl
  | active =>
    have isOpen : s.eventOpen = true := by rw [State.eventOpen, e]; rfl
    rw [State.concluded_of_open (opened.trans isOpen)]
    unfold State.detect State.stepping
    simp only [e, isOpen, if_true]
    cases boundary <;> rfl
  | dwell =>
    have isOpen : s.eventOpen = true := by rw [State.eventOpen, e]; rfl
    rw [State.concluded_of_open (opened.trans isOpen)]
    unfold State.detect State.stepping
    simp only [e, isOpen, if_true]
    cases boundary <;> rfl

end Sys2Proof.Machine
end

section
/-! SUPPORT. What the stages of an instant leave alone: all but the records sent, the store's states and the end of an event
leave ports, generators and store (`Runs`); and those too leave the configuration, the measurement and the link's queues but
for reports (`Stays`). With them the recharge delay, O18. -/

namespace Sys2Proof.Machine

open Sys2Proof
open State (Course Grows Runs Noted Passes)

/-- What any event of an instant after the measurement may do. -/
structure State.Stays (k : Taken) (s t : State) : Prop where
  rest : { t.movedFrom s with gen := s.gen, port := s.port, store := s.store } = s
  grows : Grows s t
  seq : ∀ f, k.allows s.globals f (s.seq.get f) (t.seq.get f)

open State (Stays)

section

variable {k : Taken} {s t u : State}

theorem State.Runs.stays (h : Runs k s t) : Stays k s t :=
  ⟨(congrArg (fun v => { v with gen := s.gen, port := s.port, store := s.store }) h.rest :), h.grows, h.seq⟩

theorem State.Runs.store (h : Runs k s t) : t.store = s.store := (congrArg State.store h.rest :)
theorem State.Runs.port (h : Runs k s t) : t.port = s.port := (congrArg State.port h.rest :)
theorem State.Runs.gen (h : Runs k s t) : t.gen = s.gen := (congrArg State.gen h.rest :)

namespace State.Stays

theorem refl (s : State) : Stays k s s := (Runs.refl s).stays

theorem globals (h : Stays k s t) : t.globals = s.globals := (congrArg State.globals h.rest :)

theorem trans (a : Stays k s t) (b : Stays k t u) : Stays k s u where
  rest := (congrArg (fun v => { v.movedFrom s with gen := s.gen, port := s.port, store := s.store }) b.rest).trans a.rest
  grows := a.grows.trans b.grows
  seq f := Taken.allows_trans (a.seq f) (a.globals ▸ b.seq f)

theorem ite {c : Prop} [Decidable c] (a : Stays k s t) (b : Stays k s u) : Stays k s (if c then t else u) := by
  split
  · exact a
  · exact b

/-- A change of ports, generators and store alone, with reports. -/
theorem of_blocks (rest : { t.movedFrom s with gen := s.gen, port := s.port, store := s.store } = s) (seq : t.seq = s.seq)
    (grows : Grows s t) : Stays k s t :=
  ⟨rest, grows, fun f => by rw [seq]; exact k.allows_refl _ f _⟩

end State.Stays

end

/-! ## The stages -/

section

variable {k : Taken} (s : State) (x : SampleInput) (o : Orders)

theorem State.recordsAt_eq (p : RecordPlace) : ∃ g q, s.recordsAt x o p = { s with gen := g, port := q } := by
  unfold State.recordsAt State.sendRecords
  refine foldl_keeps (P := fun t => ∃ g q, t = { s with gen := g, port := q }) (fun f t ⟨g, q, h⟩ => ?_) _ s ⟨_, _, rfl⟩
  dsimp only
  split
  · obtain ⟨g', q', e⟩ := t.sendIfSending_eq f (SampleSet.ofInput x).bus
    exact ⟨g', q', by rw [e, h]⟩
  · exact ⟨g, q, h⟩

theorem State.recordsAt_stays (p : RecordPlace) : Stays k s (s.recordsAt x o p) := by
  obtain ⟨g, q, e⟩ := s.recordsAt_eq x o p
  rw [e]
  exact .of_blocks rfl rfl (.refl _)

theorem State.updateStore_stays (v : Nat) : Stays k s (s.updateStore v) := by
  obtain ⟨l, e, grows, -⟩ := s.updateStore_out v
  rw [e]
  exact .of_blocks rfl rfl grows

theorem State.stepping_runs (boundary : Bool) : Runs k s (s.stepping boundary) := by
  have tested := s.updateMinima_runs.trans (k := k) (State.levelTest_runs _)
  have facts (t : State) : Runs k t t.addFacts := t.addFacts_runs
  exact (((((tested.trans (facts _)).trans (State.closeBudgets_runs _)).trans (State.countBoundary_runs _)).ite tested).ite
    (.refl s))

theorem State.clearBarred_runs : Runs k s s.clearBarred := by
  refine ⟨rfl, Grows.of_eq rfl, fun f => Taken.allows_of_ages (fun _ => .of_stands ?_ ?_) (.inr ?_)⟩
  · simp only [State.clearBarred, Six.get_of]
    exact .refl _
  · simp only [State.clearBarred, Six.get_of]
  · simp only [State.clearBarred, Six.get_of]
    exact ⟨rfl, rfl⟩

theorem State.applyPendingBank_runs : Runs k s s.applyPendingBank := .of_blocks rfl rfl rfl

theorem State.closeRecord_runs (e : EndCause) : Runs k s (s.closeRecord e) := by
  unfold State.closeRecord
  split
  · exact (s.detector_runs _).trans (State.post_runs _ _)
  · exact .refl s

theorem State.endHolding_runs : Runs k s s.endHolding := (s.trackerTo_runs _ _).ite (.refl s)

theorem State.notified_runs (e : EndCause) : Runs k s (s.notified e) :=
  ((s.detector_runs _).trans (.forFeeders (fun f s => s.release_runs _ f _) _)).trans
    (.forGroups (fun g s => s.groupEventEnd_runs g e) _)

/-- R28: the end of an event but for the recharge delay that it loads. -/
def State.ended (s : State) (e : EndCause) : State :=
  ((s.notified e).closeRecord e).endHolding.applyPendingBank.clearBarred.clearFlags

theorem State.ended_runs (e : EndCause) : Runs k s (s.ended e) := by
  have flags (t : State) : Runs k t t.clearFlags := .of_blocks rfl rfl rfl
  exact (((((s.notified_runs e).trans (State.closeRecord_runs _ e)).trans (State.endHolding_runs _)).trans
    (State.applyPendingBank_runs _)).trans (State.clearBarred_runs _)).trans (flags _)

/-- R71: the end notice loads the recharge delay. -/
theorem State.endEvent_out (e : EndCause) :
    s.endEvent e = { s.ended e with store := { (s.ended e).store with delay := s.globals.rechargeDelay } } := by
  have globals := (s.ended_runs (k := .any) e).globals
  rw [State.endEvent_eq, ← globals]
  rfl

theorem State.endEvent_stays (e : EndCause) : Stays k s (s.endEvent e) := by
  have ended := (s.ended_runs (k := k) e).stays
  rw [State.endEvent_out]
  generalize s.ended e = u at ended
  exact ended.trans (.of_blocks rfl rfl (.refl _))

variable (grants : k.grants)
include grants

theorem State.boundary_runs (p : PointKind) :
    Runs k s (s.allocate p fun s => s.refusalsBetween o) :=
  State.allocate_runs grants s p fun s => s.refusalsBetween_runs o

/-- The detector's step after its records leaves ports and generators, and the store unless it ends an event. -/
theorem State.concluded_runs (boundary external heard : Bool) (goes : s.eventOpen = true → boundary = true → s.endCause = none) :
    Runs k s (s.concluded o boundary external heard) := by
  cases e : s.detector.state with
  | clear =>
    rw [State.concluded_of_clear e]
    split
    · exact State.onset_runs grants s _ _ fun s => s.refusalsBetween_runs o
    · exact .refl s
  | lockout =>
    rw [State.concluded_of_lockout e]
    exact s.lockoutStep_runs.ite (.refl s)
  | active | dwell =>
    have isOpen : s.eventOpen = true := by rw [State.eventOpen, e]; rfl
    cases boundary with
    | false => rw [State.concluded_of_plain isOpen rfl]; exact .refl s
    | true =>
      rw [State.concluded_of_going isOpen (goes isOpen rfl)]
      exact (State.boundary_runs s o grants _).ite (.refl s)

theorem State.concluded_stays (boundary external heard : Bool) : Stays k s (s.concluded o boundary external heard) := by
  by_cases goes : s.eventOpen = true → boundary = true → s.endCause = none
  · exact (State.concluded_runs s o grants _ _ _ goes).stays
  · push Not at goes
    obtain ⟨isOpen, rfl, ends⟩ := goes
    obtain ⟨e, ends⟩ := Option.ne_none_iff_exists'.mp ends
    rw [State.concluded_of_end isOpen ends]
    exact s.endEvent_stays e

theorem State.detect_stays (boundary external heard : Bool) : Stays k s (s.detect x o boundary external heard) := by
  rw [State.detect_eq]
  have step := ((s.stepping_runs boundary).stays.trans (State.recordsAt_stays _ x o .stepped)).trans
    (State.concluded_stays _ o grants boundary external heard)
  exact (step.trans (State.clearInjected_runs grants _).stays).ite step

omit grants in
theorem State.storeLate_stays : Stays k s (s.storeLate x o) := (Stays.refl s).ite (s.updateStore_stays _)

theorem State.middle_runs (may : ∀ f, o.expiry.get f = .middle → k.expires f) : Runs k s (s.middle o) :=
  ((s.settleGroups_runs o.leaveLate).trans (State.evaluateAt_runs _ o _)).trans
    (State.takePlaced_runs _ o .middle (.inr grants) may)

theorem State.ending_runs (may : ∀ f, o.expiry.get f = .last → k.expires f) : Runs k s (s.ending o) :=
  ((((s.evaluateAt_runs o _).trans (State.takePlaced_runs _ o .last (.inr grants) may)).trans
    (State.evaluateAt_runs _ o _)).trans (State.settleTimers_runs _ _)).trans (State.settleChoice_runs _ _)

theorem State.finish_stays (middle : ∀ f, o.expiry.get f = .middle → k.expires f)
    (last : ∀ f, o.expiry.get f = .last → k.expires f) : Stays k s (s.finish x o) := by
  rw [State.finish_eq]
  exact (((State.middle_runs s o grants middle).stays.trans (State.recordsAt_stays _ x o _)).trans
    (State.storeLate_stays _ x o)).trans (State.ending_runs _ o grants last).stays

omit grants in
theorem State.placed_runs (may : ∀ f, o.expiry.get f = .first → k.expires f) : Runs k s (s.takePlaced o .first) :=
  State.takePlaced_runs s o .first (.inl rfl) may

omit grants in
theorem State.beforeDetector_stays (may : ∀ f, o.expiry.get f = .first → k.expires f) :
    Stays k s (s.beforeDetector x o) := by
  rw [State.beforeDetector_eq]
  exact (((((s.evaluateAt_runs o _).stays.trans (State.recordsAt_stays _ x o _)).trans
    (State.placed_runs _ o may).stays).trans (State.recordsAt_stays _ x o _)).trans (State.evaluateAt_runs _ o _).stays)

end

end Sys2Proof.Machine
end

section
/-! SUPPORT. The state a sample instant's events meet, with nothing of the past left over: what the sample set and its
measurement leave of it (`halved_*`), and the detector's step between a course and an end. With them O18. -/

namespace Sys2Proof.Machine

open Sys2Proof
open State (Course Grows Runs Stays Noted Passes)

/-- A state with the blocks that a sample set and its measurement move put back as another state has them. -/
def State.unsampled (t s : State) : State :=
  { t with
    inForce := s.inForce, written := s.written, sample := s.sample, tracker := s.tracker, magnitude := s.magnitude
    comparator := s.comparator, detector := s.detector, gen := s.gen, store := s.store, seq := s.seq, port := s.port
    lines := s.lines, link := s.link }

theorem State.closeInstant_grows (s : State) (o : Orders) : Grows s (s.closeInstant o) := (s.closeInstant_runs o).grows

section

variable {s : State} {o : Orders} (settled : s.settled) (x : SampleInput)
include settled

/-- The sample set taken and measured, with nothing of the past left over. -/
theorem State.sampleTaken_out : ∃ m g st l, s.sampleTaken x o = { s with
      inForce := s.valuesAt o.writtenNow, written := none, sample := some (SampleSet.ofInput x)
      seq := Six.of fun f => (s.seq.get f).ticked (o.started.get f)
      port := Six.of fun f => (s.port.get f).sampled (o.started.get f)
      lines := (s.sampleTaken x o).lines, magnitude := m, gen := g, store := st, link := l
      detector := { s.detector with clearedNow := false } } ∧ Link.Grows s.link l := by
  obtain ⟨l, closed⟩ := State.closeInstant_of_settled settled o
  have grows := s.closeInstant_grows o
  unfold State.Grows at grows
  rw [closed] at grows
  refine ⟨(s.sampleTaken x o).magnitude, (s.sampleTaken x o).gen, (s.sampleTaken x o).store, l, ?_, grows⟩
  unfold State.sampleTaken
  rw [State.takeSample_out, closed]
  rfl

theorem State.tracked_out : ∃ m g st t c l, s.tracked x o = { s with
      inForce := s.valuesAt o.writtenNow, written := none, sample := some (SampleSet.ofInput x)
      seq := Six.of fun f => (s.seq.get f).ticked (o.started.get f)
      port := Six.of fun f => (s.port.get f).sampled (o.started.get f)
      lines := (s.sampleTaken x o).lines, magnitude := m, gen := g, store := st, link := l, tracker := t, comparator := c
      detector := { s.detector with clearedNow := false } } ∧ Link.Grows s.link l := by
  obtain ⟨t, c, l, tracked, grows⟩ := s.tracked_eq x o
  obtain ⟨m, g, st, l', taken, grows'⟩ := State.sampleTaken_out (o := o) settled x
  have lines : (s.sampleTaken x o).lines = (s.sampleTaken x o).lines := rfl
  generalize (s.sampleTaken x o).lines = ls at taken lines ⊢
  rw [taken] at tracked grows
  exact ⟨m, g, _, t, c, l, tracked, grows'.trans grows⟩

theorem State.halved_out : ∃ m g st t c l, s.halved x o = { s with
      inForce := s.valuesAt o.writtenNow, written := none, sample := some (SampleSet.ofInput x)
      seq := Six.of fun f => (s.seq.get f).ticked (o.started.get f)
      port := Six.of fun f => (s.port.get f).sampled (o.started.get f)
      lines := (s.sampleTaken x o).lines, magnitude := m, gen := g, store := st, link := l, tracker := t, comparator := c
      detector := { s.detector with clearedNow := false } } ∧ Link.Grows s.link l := by
  obtain ⟨m, g, st, t, c, l, tracked, grows⟩ := State.tracked_out (o := o) settled x
  cases boundary : s.boundaryAt x o with
  | false =>
    rw [State.halved_of_none s x o boundary]
    exact ⟨m, g, st, t, c, l, tracked, grows⟩
  | true =>
    rw [State.halved_of_boundary s x o boundary]
    generalize (s.tracked x o).tracker.boundarySpacing = n
    generalize (s.sampleTaken x o).lines = ls at tracked ⊢
    rw [tracked]
    exact ⟨_, _, _, _, c, l, rfl, grows⟩

theorem State.halved_rest : (s.halved x o).unsampled s = s := by
  obtain ⟨m, g, st, t, c, l, out, -⟩ := State.halved_out (o := o) settled x
  rw [out]
  rfl

theorem State.halved_seq : (s.halved x o).seq = Six.of fun f => (s.seq.get f).ticked (o.started.get f) := by
  obtain ⟨m, g, st, t, c, l, out, -⟩ := State.halved_out (o := o) settled x
  rw [out]

theorem State.halved_detector : (s.halved x o).detector = { s.detector with clearedNow := false } := by
  obtain ⟨m, g, st, t, c, l, out, -⟩ := State.halved_out (o := o) settled x
  rw [out]

theorem State.halved_inForce : (s.halved x o).inForce = s.valuesAt o.writtenNow := by
  obtain ⟨m, g, st, t, c, l, out, -⟩ := State.halved_out (o := o) settled x
  rw [out]

theorem State.halved_grows : Grows s (s.halved x o) := by
  obtain ⟨m, g, st, t, c, l, out, grows⟩ := State.halved_out (o := o) settled x
  unfold State.Grows
  rw [out]
  exact grows

end

/-! ## The detector's step between the courses -/

section

variable (s : State) (x : SampleInput) (o : Orders)

/-- The detector's step of an instant. -/
def State.detected : State :=
  (s.atDetector x o).detect x o (s.boundaryAt x o) ((s.tracked x o).externalWeighed o) (s.requestHeard x o)

theorem State.instant_eq : s.instant x o = (s.detected x o).finish x o := rfl

/-- The state the detector's records of an instant are sent from. -/
def State.atRecords : State := State.recordsAt ((s.atDetector x o).stepping (s.boundaryAt x o)) x o .stepped

theorem State.detected_eq : s.detected x o =
    let t := (s.atRecords x o).concluded o (s.boundaryAt x o) ((s.tracked x o).externalWeighed o) (s.requestHeard x o)
    if s.boundaryAt x o then t.clearInjected else t :=
  State.detect_eq _ x o _ _ _

theorem State.atRecords_detector :
    (s.atRecords x o).detector = ((s.atDetector x o).stepping (s.boundaryAt x o)).detector :=
  State.recordsAt_detector _ x o _

theorem State.atRecords_eventOpen : (s.atRecords x o).eventOpen = (s.atDetector x o).eventOpen := by
  unfold State.eventOpen
  rw [State.atRecords_detector]
  exact State.stepping_eventOpen _ _

theorem State.atDetector_course (k : Taken) (may : ∀ f, o.expiry.get f ≠ .apart → k.expires f) :
    Course k (s.halved x o) (s.atDetector x o) := by
  rw [State.atDetector_eq]
  exact State.beforeDetector_course _ x o may

theorem State.atDetector_stays (k : Taken) (may : ∀ f, o.expiry.get f = .first → k.expires f) :
    Stays k (s.halved x o) (s.atDetector x o) := by
  rw [State.atDetector_eq]
  exact State.beforeDetector_stays _ x o may

theorem State.atDetector_store : (s.atDetector x o).store = (s.halved x o).store := by
  have records (t : State) (p : RecordPlace) : (t.recordsAt x o p).store = t.store := by
    obtain ⟨g, q, e⟩ := t.recordsAt_eq x o p
    rw [e]
  have placed (t : State) : (t.takePlaced o .first).store = t.store :=
    (t.placed_runs (k := .any) o fun _ _ => trivial).store
  rw [State.atDetector_eq, State.beforeDetector_eq]
  change State.store (State.recordsAt _ x o _) = _
  rw [records, placed, records]
  rfl

theorem State.finish_delay : (s.finish x o).store.delay = s.store.delay := by
  have middle := (s.middle_runs (k := .any) o trivial fun _ _ => trivial).store
  obtain ⟨g, q, e⟩ := (s.middle o).recordsAt_eq x o .last
  have formed (t : State) : (t.storeLate x o).store.delay = t.store.delay := by
    unfold State.storeLate
    split
    · rfl
    · obtain ⟨l, out, -⟩ := t.updateStore_out (SampleSet.ofInput x).store
      rw [out]
      rfl
  have ending (t : State) : (t.ending o).store = t.store := (t.ending_runs (k := .any) o trivial fun _ _ => trivial).store
  rw [State.finish_eq, ending, formed, e, ← middle]

/-- R28, R102, R145: the notices of an event's end, to the sequencers and the groups. -/
theorem State.notified_course (k : Taken) (e : EndCause) : Course k (s.leaveEvent e) (s.notified e) :=
  (Course.forFeeders (fun f s => s.release_course _ f _) _).trans (Course.forGroups (fun g s => s.groupEventEnd_course g e) _)

/-- The record that the end of an event closes, the entries as its notices left them. -/
def Record.closedBy (r : Record) (e : EndCause) (t : Nat) (c : Entry → Entry) : Record :=
  { r with entries := r.entries.map c, endCause := some e, duration := t }

theorem State.leaveEvent_shut (e : EndCause) : (s.leaveEvent e).detector.shut := by
  intro clear
  cases e with
  | recovered => rfl
  | limit => cases clear

/-- R22: no onset is taken at the instant of an event's end. -/
theorem State.endEvent_shut (e : EndCause) : (s.endEvent e).detector.shut := by
  obtain ⟨c, kept, noted⟩ := (s.notified_course .any e).noted
  have state : ((s.notified e).closeRecord e).detector.state = (s.notified e).detector.state ∧
      ((s.notified e).closeRecord e).detector.clearedNow = (s.notified e).detector.clearedNow := by
    unfold State.closeRecord
    split <;> exact ⟨rfl, rfl⟩
  rw [State.endEvent_eq, Detector.shut, State.settleEnd_detector, state.1, state.2, noted]
  exact s.leaveEvent_shut e

end

/-! ## The recharge delay (O18) -/

section

variable {s : State} {x : SampleInput} {o : Orders}

theorem State.tracked_delay : (s.tracked x o).store.delay = s.store.delay := by
  obtain ⟨t, c, l, tracked, -⟩ := s.tracked_eq x o
  have store := s.sampleTaken_store x o
  rw [tracked]
  dsimp only
  split
  · rw [State.storeFormed, store]
  · rw [store]

/-- R71: the recharge delay at the detector's step. -/
theorem State.halved_delay : (s.halved x o).store.delay = if s.boundaryAt x o then s.store.delay - 1 else s.store.delay := by
  cases boundary : s.boundaryAt x o with
  | false => rw [State.halved_of_none s x o boundary, State.tracked_delay]; rfl
  | true => 
    rw [State.halved_of_boundary s x o boundary, if_pos rfl]
    exact congrArg (· - 1) State.tracked_delay

theorem State.atRecords_store : (s.atRecords x o).store = (s.halved x o).store := by
  obtain ⟨g, q, e⟩ := ((s.atDetector x o).stepping (s.boundaryAt x o)).recordsAt_eq x o .stepped
  rw [State.atRecords, e, ← State.atDetector_store]
  exact (State.stepping_runs (k := .any) _ _).store

/-- The detector's step at this instant ends no event. -/
def State.goesOn (s : State) (x : SampleInput) (o : Orders) : Prop :=
  (s.atRecords x o).eventOpen = true → s.boundaryAt x o = true → (s.atRecords x o).endCause = none

/-- Where no event ends, the detector's step leaves the store as the half-cycle's closing left it. -/
theorem State.detected_store (goes : s.goesOn x o) : (s.detected x o).store = (s.halved x o).store := by
  rw [State.detected_eq, ← State.atRecords_store]
  have step := (State.concluded_runs (k := .any) (s.atRecords x o) o trivial (s.boundaryAt x o)
    ((s.tracked x o).externalWeighed o) (s.requestHeard x o) goes).store
  rw [← step]
  dsimp only
  split <;> rfl

/-- An event that ends at an instant leaves none open. -/
theorem State.instant_closed (ends : ¬ s.goesOn x o) : (s.instant x o).eventOpen = false := by
  unfold State.goesOn at ends
  push Not at ends
  obtain ⟨isOpen, boundary, cause⟩ := ends
  obtain ⟨e, cause⟩ := Option.ne_none_iff_exists'.mp cause
  have detected : (s.detected x o).detector = ((s.atRecords x o).endEvent e).detector := by
    rw [State.detected_eq, boundary, State.concluded_of_end isOpen cause]
    rfl
  have after := State.finish_passes (k := .any) (s.detected x o) x o fun _ _ => trivial
  have course := after.course_of_shut (by rw [detected]; exact State.endEvent_shut _ e)
  rw [State.instant_eq, course.eventOpen, State.eventOpen, detected]
  exact (State.endEvent_closed _ e).2

theorem State.atRecords_open (takes : s.takesSample o) : (s.atRecords x o).eventOpen = s.eventOpen := by
  rw [State.atRecords_eventOpen, (s.atDetector_course x o .any fun _ _ => trivial).eventOpen, State.eventOpen,
    State.halved_detector takes.2.1]
  rfl

/-- R71: the recharge delay after an instant that ends no event. -/
theorem State.instant_delay (takes : s.takesSample o) (goes : s.goesOn x o) : (s.instant x o).store.delay =
    if s.boundaryAfter x then s.store.delay - 1 else s.store.delay := by
  rw [State.instant_eq, State.finish_delay, State.detected_store goes, State.halved_delay, State.boundaryAt_eq takes]

theorem State.goesOn_of_closed (takes : s.takesSample o) (closed : s.eventOpen = false) : s.goesOn x o := by
  intro isOpen
  rw [State.atRecords_open takes, closed] at isOpen
  cases isOpen

end

/-- Settles O18. The half-cycle's closing counts the delay down; but for the end of an event, which no later event of the
instant follows, nothing after it moves the delay. -/
theorem rechargeDelayCountsDownAtBoundaries : Obligations.RechargeDelayCountsDownAtBoundaries := by
  intro s x o takes
  refine ⟨s.instant x o, exec_sampleSet_of_sampling takes.1 x o, fun plain => ?_, fun boundary => ⟨fun stands => ?_, fun one => ?_⟩⟩
  · rw [State.instant_delay takes fun _ b => by rw [State.boundaryAt_eq takes, plain] at b; exact absurd b nofun]
    rw [plain]
    rfl
  · have goes : s.goesOn x o := by
      rcases stands with closed | opened
      · exact State.goesOn_of_closed takes closed
      · by_contra ends
        rw [State.instant_closed ends] at opened
        cases opened
    rw [State.instant_delay takes goes, boundary]
    rfl
  · change execRechargeDelayExpiry x o s = _
    simp [execRechargeDelayExpiry, State.instantIf, takes.1, State.boundaryAt_eq takes, boundary, State.tracked_delay, one]

end Sys2Proof.Machine
end

section
/-! SUPPORT. The tracker through an instant: after its own handling of the sample set only an onset and the end of an event
speak to it, and neither moves a tracker in SEEKING. With these O14 and O15. -/

namespace Sys2Proof.Machine

open Sys2Proof
open State (Course Grows Runs Stays Noted Passes SeqOnly)

/-! ## What an allocation point leaves alone -/

/-- An allocation point moves the sequencers, the group table, the record's entries, the reports and the arbiter. -/
def State.Allots (s t : State) : Prop :=
  { t with seq := s.seq, groups := s.groups, groupRequests := s.groupRequests, refusals := s.refusals,
           link := s.link, detector := s.detector, arbiter := s.arbiter } = s

open State (Allots)

namespace State.Allots

variable {s t u : State}

theorem refl (s : State) : Allots s s := rfl

theorem trans (a : Allots s t) (b : Allots t u) : Allots s u := by
  have h : _ = t := b
  have k : _ = s := a
  rw [← h] at k
  exact k

theorem of_seqOnly (h : SeqOnly s t) : Allots s t := (congrArg (fun v => { v with arbiter := s.arbiter }) h.rest :)

theorem ite {c : Prop} [Decidable c] (a : Allots s t) (b : Allots s u) : Allots s (if c then t else u) := by
  split
  · exact a
  · exact b

theorem foldl {α : Type} {step : State → α → State} (h : ∀ a s, Allots s (step s a)) (l : List α) (s : State) :
    Allots s (l.foldl step s) := foldl_rel Allots.refl Allots.trans h l s

theorem forFeeders {step : Feeder → State → State} (h : ∀ f s, Allots s (step f s)) (s : State) :
    Allots s (Machine.forFeeders step s) := Allots.foldl (step := fun s f => step f s) h _ s

theorem forGroups {step : GroupNo → State → State} (h : ∀ g s, Allots s (step g s)) (s : State) :
    Allots s (Machine.forGroups step s) := Allots.foldl (step := fun s g => step g s) h _ s

theorem tracker (h : Allots s t) : t.tracker = s.tracker := (congrArg State.tracker h :)

end State.Allots

theorem State.refusalsBetween_allots (s : State) (o : Orders) : Allots s (s.refusalsBetween o) :=
  (Allots.of_seqOnly s.takeRefusals_seqOnly).ite (.refl s)

theorem State.releaseNotNeeded_allots (s : State) (which : GroupNo → Bool) : Allots s (s.releaseNotNeeded which) := by
  unfold State.releaseNotNeeded
  refine (Allots.forFeeders (fun f s => ?_) s).trans (Allots.forGroups (fun g s => ?_) _)
  · exact (Allots.of_seqOnly (s.release_seqOnly _ f _)).ite (.refl s)
  · exact (Allots.foldl (fun f s => .of_seqOnly (s.release_seqOnly _ f _)) _ s).ite (.refl s)

theorem State.allocate_allots (s : State) (p : PointKind) {between : State → State} (hb : ∀ s, Allots s (between s)) :
    Allots s (s.allocate p between) := by
  have releases : Allots s (if p.isBoundary then s.releaseNotNeeded fun g => p.isBoundary && s.groupReleased g else s) :=
    (s.releaseNotNeeded_allots _).ite (.refl s)
  have stood (t : State) (began : Four Group) (units : List UnitGrant) : Allots t (t.deliverStoodBy p began units) := by
    unfold State.deliverStoodBy
    refine Allots.forFeeders (fun f u => ?_) t
    split
    · exact .of_seqOnly (u.updateEntry_seqOnly f _)
    · exact .refl u
  have kept (t : State) (units : List UnitGrant) : Allots t ((t.setFlags p).keepGrants p units) := rfl
  have told (t : State) (which : GroupNo → Bool) : Allots t (t.tellNotNeeded which) :=
    Allots.forGroups (fun g s => (Allots.of_seqOnly (s.groupNotNeeded_seqOnly g)).ite (.refl s)) t
  unfold State.allocate
  exact releases.trans (((((stood _ _ _).trans (kept _ _)).trans (hb _)).trans (told _ _)).trans
    (Allots.foldl (fun u s => .of_seqOnly (s.deliverUnit_seqOnly u)) _ _))

/-- R10: the tracker as an onset's request leaves it. -/
theorem State.onset_tracker (s : State) (c : OnsetCause) (heard : Bool) {between : State → State}
    (hb : ∀ s, Allots s (between s)) : (s.onset c heard between).tracker =
      if heard = true ∧ s.tracker.state = .locked then s.tracker.requestHolding else s.tracker := by
  have asked : State.tracker (if heard = true ∧ s.tracker.state = .locked then
      s.trackerTo s.tracker.requestHolding .eventOnset else s) =
      if heard = true ∧ s.tracker.state = .locked then s.tracker.requestHolding else s.tracker := by
    split <;> rfl
  have opened (t : State) (m : Compensability) : (t.openRecord c m).tracker = t.tracker := rfl
  unfold State.onset
  simp only
  split
  · rw [(State.allocate_allots _ _ hb).tracker, opened, asked]
  · rw [opened, asked]

/-! ## A tracker in SEEKING -/

/-- A tracker in SEEKING stands. -/
def State.SparesSeeking (s t : State) : Prop := s.tracker.state = .seeking → t.tracker = s.tracker

open State (SparesSeeking)

namespace State.SparesSeeking

variable {s t u : State}

theorem of_eq (h : t.tracker = s.tracker) : SparesSeeking s t := fun _ => h

theorem refl (s : State) : SparesSeeking s s := .of_eq rfl

theorem trans (a : SparesSeeking s t) (b : SparesSeeking t u) : SparesSeeking s u := fun h => (b (a h ▸ h)).trans (a h)

theorem ite {c : Prop} [Decidable c] (a : SparesSeeking s t) (b : SparesSeeking s u) :
    SparesSeeking s (if c then t else u) := by
  split
  · exact a
  · exact b

end State.SparesSeeking

theorem State.Course.sparesSeeking {s t : State} (h : Course .any s t) : SparesSeeking s t := .of_eq h.tracker.1

theorem State.onset_sparesSeeking (s : State) (c : OnsetCause) (heard : Bool) {between : State → State}
    (hb : ∀ s, Allots s (between s)) : SparesSeeking s (s.onset c heard between) := by
  intro seeking
  rw [State.onset_tracker s c heard hb, seeking]
  simp

theorem State.acceptLine_sparesSeeking (s : State) (weighed : Bool) (lv : Leave) (l : Line) :
    SparesSeeking s (s.acceptLine weighed lv l) := by
  have set (x : LineState) : SparesSeeking s (s.setLine l x) := .of_eq rfl
  unfold State.acceptLine
  simp only
  split
  · split
    · split
      · exact (set _).trans (State.hold_course _ _ _ _).sparesSeeking
      · exact set _
    · exact ((set _).trans (SparesSeeking.ite (State.onset_sparesSeeking _ _ _ Allots.refl) (.refl _))).ite (set _)
    · split
      · exact (set _).trans (State.switchBank_course _ _).sparesSeeking
      · exact set _
    · exact set _
  · exact .refl s

theorem State.takePlaced_sparesSeeking (s : State) (o : Orders) (p : Place) : SparesSeeking s (s.takePlaced o p) := by
  have lines (weighed : Bool) (lv : Leave) : SparesSeeking s
      (forLines (fun l s => if o.line.get l = p then s.acceptLine weighed lv l else s) s) :=
    foldl_rel SparesSeeking.refl SparesSeeking.trans (step := fun s l => if o.line.get l = p then s.acceptLine weighed lv l
      else s) (fun l s => (s.acceptLine_sparesSeeking _ _ l).ite (.refl s)) _ s
  unfold State.takePlaced
  exact (lines _ _).trans (State.placedExpiries_course (k := .any) o (fun _ _ => trivial) _ _).sparesSeeking

theorem State.finish_sparesSeeking (s : State) (x : SampleInput) (o : Orders) : SparesSeeking s (s.finish x o) := by
  have course {t u : State} (h : Course .any t u) : SparesSeeking t u := h.sparesSeeking
  rw [State.finish_eq]
  have middle : SparesSeeking s (s.middle o) :=
    (course ((s.settleGroups_course o.leaveLate).trans (State.evaluateAt_course _ o _))).trans
      (State.takePlaced_sparesSeeking _ o _)
  have ending (t : State) : SparesSeeking t (t.ending o) :=
    ((course (t.evaluateAt_course o _)).trans (State.takePlaced_sparesSeeking _ o _)).trans
      (course (((State.evaluateAt_course _ o _).trans (State.settleTimers_course _ _)).trans (State.settleChoice_course _ _)))
  exact (middle.trans (course ((State.recordsAt_course _ x o _).trans (State.storeLate_course _ x o)))).trans (ending _)

/-! ## The detector's step -/

section

variable (s : State)

theorem State.stepping_tracker (boundary : Bool) : (s.stepping boundary).tracker = s.tracker := by
  have facts (t : State) : t.addFacts.tracker = t.tracker := by
    unfold State.addFacts
    split <;> rfl
  have budgets (t : State) : t.closeBudgets.tracker = t.tracker := by
    unfold State.closeBudgets
    exact foldl_keeps (P := fun u => u.tracker = t.tracker) (fun f u h => by
      dsimp only
      split
      · split
        · exact (u.updateEntry_tracker f _).1.trans h
        · exact h
      · exact h) _ t rfl
  have counted (t : State) : t.countBoundary.tracker = t.tracker := by
    have judged : t.judge.tracker = t.tracker := by
      unfold State.judge
      split <;> rfl
    exact judged
  have tested : s.updateMinima.levelTest.tracker = s.tracker := by
    have minima : s.updateMinima.tracker = s.tracker := by
      unfold State.updateMinima
      split <;> rfl
    rw [← minima]
    generalize s.updateMinima = u
    unfold State.levelTest
    split
    · split <;> rfl
    · split <;> rfl
    · rfl
    · rfl
  unfold State.stepping
  split
  · split
    · rw [counted, budgets, facts, tested]
    · exact tested
  · rfl

theorem State.lockoutStep_tracker : s.lockoutStep.tracker = s.tracker := by
  unfold State.lockoutStep
  split <;> rfl

variable {s} {o : Orders} {boundary external heard : Bool}

/-- Where an event is open and goes on, and in LOCKOUT, the detector's step leaves the tracker. -/
theorem State.concluded_tracker (clear : s.detector.state ≠ .clear)
    (goes : s.eventOpen = true → boundary = true → s.endCause = none) :
    (s.concluded o boundary external heard).tracker = s.tracker := by
  cases e : s.detector.state with
  | clear => exact absurd e clear
  | lockout =>
    rw [State.concluded_of_lockout e]
    split
    · exact s.lockoutStep_tracker
    · rfl
  | active | dwell =>
    have isOpen : s.eventOpen = true := by rw [State.eventOpen, e]; rfl
    cases boundary with
    | false => rw [State.concluded_of_plain isOpen rfl]
    | true =>
      rw [State.concluded_of_going isOpen (goes isOpen rfl)]
      split
      · exact (State.allocate_allots _ _ fun s => s.refusalsBetween_allots o).tracker
      · rfl

end

/-- R11: the tracker as the end of an event leaves it. -/
theorem State.endEvent_tracker (s : State) (e : EndCause) : (s.endEvent e).tracker =
    if s.tracker.state = .holding then s.tracker.requestLocked else s.tracker := by
  have notified : (s.notified e).tracker = s.tracker := (s.notified_course .any e).tracker.1
  have closed : ((s.notified e).closeRecord e).tracker = s.tracker := by
    rw [← notified]
    unfold State.closeRecord
    split <;> rfl
  rw [State.endEvent_eq, ← closed]
  generalize (s.notified e).closeRecord e = u
  change u.endHolding.tracker = _
  unfold State.endHolding
  split <;> rfl

theorem State.concluded_sparesSeeking (s : State) (o : Orders) (boundary external heard : Bool) :
    SparesSeeking s (s.concluded o boundary external heard) := by
  by_cases clear : s.detector.state = .clear
  · rw [State.concluded_of_clear clear]
    split
    · exact s.onset_sparesSeeking _ _ fun s => s.refusalsBetween_allots o
    · exact .refl s
  · by_cases goes : s.eventOpen = true → boundary = true → s.endCause = none
    · exact .of_eq (State.concluded_tracker clear goes)
    · push Not at goes
      obtain ⟨isOpen, rfl, ends⟩ := goes
      obtain ⟨e, ends⟩ := Option.ne_none_iff_exists'.mp ends
      intro seeking
      rw [State.concluded_of_end isOpen ends, State.endEvent_tracker, if_neg (by simp [seeking])]

end Sys2Proof.Machine
end

section
/-! SUPPORT. The tracker at an instant's end: its own handling, unless an event opens or ends; and the reports of its own
handling. With these O14 and O15. -/

namespace Sys2Proof.Machine

open Sys2Proof
open State (Course Grows Runs Stays Noted Passes)

theorem State.refusalsBetween_noted (s : State) (o : Orders) : Noted s (s.refusalsBetween o) :=
  (s.takeRefusals_course (k := .any)).noted.ite (.refl s)

section

variable {s : State} {x : SampleInput} {o : Orders}

theorem State.atRecords_tracker : (s.atRecords x o).tracker = (s.halved x o).tracker := by
  obtain ⟨g, q, e⟩ := ((s.atDetector x o).stepping (s.boundaryAt x o)).recordsAt_eq x o .stepped
  rw [State.atRecords, e, ← (s.atDetector_course x o .any fun _ _ => trivial).tracker.1]
  exact State.stepping_tracker _ _

/-- R13: the tracker at the detector's step: its own handling, and a boundary declared. -/
theorem State.halved_tracker (takes : s.takesSample o) : (s.halved x o).tracker = (s.trackerAfter x).declare := by
  have tracker : (s.tracked x o).tracker = s.trackerAfter x := congrArg Prod.fst (State.tracked_seen takes x)
  rw [← tracker]
  cases boundary : s.boundaryAt x o with
  | false =>
    rw [State.halved_of_none s x o boundary]
    unfold State.boundaryAt at boundary
    rw [Option.isSome_eq_false_iff, Option.isNone_iff_eq_none] at boundary
    rw [Tracker.declare, boundary]
  | true =>
    rw [State.halved_of_boundary s x o boundary]
    rfl

/-- A tracker in SEEKING after its own handling is so at the instant's end. -/
theorem State.instant_tracker_of_seeking (seeking : (s.halved x o).tracker.state = .seeking) :
    (s.instant x o).tracker = (s.halved x o).tracker := by
  have concluded := State.concluded_sparesSeeking (s.atRecords x o) o (s.boundaryAt x o) ((s.tracked x o).externalWeighed o)
    (s.requestHeard x o) (State.atRecords_tracker ▸ seeking)
  have detected : (s.detected x o).tracker = (s.halved x o).tracker := by
    rw [State.detected_eq, ← State.atRecords_tracker, ← concluded]
    dsimp only
    split <;> rfl
  rw [State.instant_eq, State.finish_sparesSeeking _ x o (detected ▸ seeking), detected]

theorem State.clearInjected_if_detector (t : State) (b : Bool) :
    State.detector (if b then t.clearInjected else t) = t.detector ∧
      State.tracker (if b then t.clearInjected else t) = t.tracker := by
  cases b <;> exact ⟨rfl, rfl⟩

/-- The detector's step is the course of an event that goes on, or of a LOCKOUT, or no onset is taken. -/
theorem State.concluded_open {t : State} {boundary external heard : Bool} (isOpen : t.eventOpen = true)
    (goes : t.eventOpen = true → boundary = true → t.endCause = none) :
    Noted t (t.concluded o boundary external heard) := by
  cases boundary with
  | false =>
    rw [State.concluded_of_plain isOpen rfl]
    exact .refl t
  | true =>
    rw [State.concluded_of_going isOpen (goes isOpen rfl)]
    exact (State.allocate_noted _ _ fun s => s.refusalsBetween_noted o).ite (.refl t)

theorem Noted.not_clear {t u : State} (h : Noted t u) (isOpen : t.eventOpen = true) : u.detector.shut := by
  intro clear
  have opened := h.eventOpen.trans isOpen
  rw [State.eventOpen, clear] at opened
  cases opened

/-- R6 to R9: where an instant opens and ends no event, its tracker is as its own handling left it. -/
theorem State.instant_tracker_of_same (takes : s.takesSample o) (same : (s.instant x o).eventOpen = s.eventOpen) :
    (s.instant x o).tracker = (s.halved x o).tracker := by
  have opened := State.atRecords_open (x := x) takes
  have goes : s.goesOn x o := by
    by_contra ends
    have isOpen := ends
    unfold State.goesOn at isOpen
    push Not at isOpen
    rw [opened] at isOpen
    rw [State.instant_closed ends, isOpen.1] at same
    cases same
  have passes := State.finish_passes (k := .any) (s.detected x o) x o fun _ _ => trivial
  have detector : (s.detected x o).detector = ((s.atRecords x o).concluded o (s.boundaryAt x o)
      ((s.tracked x o).externalWeighed o) (s.requestHeard x o)).detector := by
    rw [State.detected_eq]
    exact (State.clearInjected_if_detector _ _).1
  have tracker : (s.detected x o).tracker = ((s.atRecords x o).concluded o (s.boundaryAt x o)
      ((s.tracked x o).externalWeighed o) (s.requestHeard x o)).tracker := by
    rw [State.detected_eq]
    exact (State.clearInjected_if_detector _ _).2
  cases isOpen : s.eventOpen with
  | true =>
    rw [isOpen] at opened
    have noted := State.concluded_open (o := o) (external := (s.tracked x o).externalWeighed o)
      (heard := s.requestHeard x o) opened goes
    have clear : (s.atRecords x o).detector.state ≠ .clear := by
      intro e
      rw [State.eventOpen, e] at opened
      cases opened
    have course := passes.course_of_shut (by rw [detector]; exact Noted.not_clear noted opened)
    rw [State.instant_eq, course.tracker.1, tracker, State.concluded_tracker clear goes, State.atRecords_tracker]
  | false =>
    have course := passes.course_of_closed (same.trans isOpen)
    have closed : State.eventOpen ((s.atRecords x o).concluded o (s.boundaryAt x o)
        ((s.tracked x o).externalWeighed o) (s.requestHeard x o)) = false := by
      rw [State.eventOpen, ← detector]
      exact course.eventOpen.symm.trans (same.trans isOpen)
    rw [State.instant_eq, course.tracker.1, tracker, ← State.atRecords_tracker]
    by_cases clear : (s.atRecords x o).detector.state = .clear
    · rw [State.concluded_of_clear clear] at closed ⊢
      split at closed
      · rw [State.onset_eventOpen _ _ _ fun s => s.refusalsBetween_noted o] at closed
        cases closed
      · rfl
    · exact State.concluded_tracker clear goes

/-! ## What is measured of the tracker, and its reports -/

theorem State.instant_tracker (takes : s.takesSample o) :
    (s.instant x o).tracker.index = (s.trackerAfter x).index ∧ (s.instant x o).tracker.prevA = (s.trackerAfter x).prevA ∧
      (s.instant x o).tracker.remembered = (s.trackerAfter x).remembered ∧
      (s.instant x o).tracker.boundarySpacing = (s.trackerAfter x).declare.boundarySpacing ∧
      (s.instant x o).tracker.boundaryDeclared = (s.trackerAfter x).declare.boundaryDeclared := by
  have left := s.instant_halved x o
  simp only [State.measured, Prod.mk.injEq] at left
  obtain ⟨-, -, -, -, -, ⟨index, prevA, remembered, spacing, declared⟩, -⟩ := left
  rw [State.halved_tracker takes] at index prevA remembered spacing declared
  have kept (t : Tracker) : t.declare.index = t.index ∧ t.declare.prevA = t.prevA ∧ t.declare.remembered = t.remembered := by
    unfold Tracker.declare
    split <;> exact ⟨rfl, rfl, rfl⟩
  obtain ⟨a, b, c⟩ := kept (s.trackerAfter x)
  exact ⟨index.trans a, prevA.trans b, remembered.trans c, spacing, declared⟩

/-- The reports of an instant once its tracker has handled the sample set. -/
theorem State.tracked_grows (s : State) (x : SampleInput) (o : Orders) : Grows (s.tracked x o) (s.instant x o) := by
  have halved : (s.halved x o).link = (s.tracked x o).link := by
    cases boundary : s.boundaryAt x o with
    | false => rw [State.halved_of_none s x o boundary]
    | true => rw [State.halved_of_boundary s x o boundary]; rfl
  have arrives := (s.atDetector_stays x o .any fun _ _ => trivial).grows
  unfold State.Grows at arrives ⊢
  rw [halved] at arrives
  exact (arrives.trans (State.detect_stays (k := .any) _ x o trivial _ _ _).grows).trans
    (State.finish_stays (k := .any) _ x o trivial (fun _ _ => trivial) fun _ _ => trivial).grows

theorem State.prepare_grows (s : State) (x : SampleInput) (o : Orders) : Grows s (s.prepare x o) := by
  obtain ⟨l, prepared, grows⟩ := s.prepare_eq x o
  have taken : (s.sampleTaken x o).link = (s.closeInstant o).link := by
    unfold State.sampleTaken
    rw [State.takeSample_out]
    rfl
  rw [taken] at grows
  unfold State.Grows
  rw [prepared]
  exact (s.closeInstant_grows o).trans grows

/-- R12: what the tracker's own handling changes is reported by the instant's end. -/
theorem State.instant_carries_outcome (takes : s.takesSample o) {c : TrackerCause}
    (outcome : s.tracker.outcome (SampleSet.ofInput x).bus.a = some c) :
    s.link.carries (s.instant x o).link (.tracker (s.trackerAfter x).state c) := by
  obtain ⟨-, settled, hold, lock⟩ := takes
  have prepared := State.prepare_seen settled x o
  simp only [State.seen, Prod.mk.injEq] at prepared
  have posted : (s.prepare x o).link.carries (s.tracked x o).link (.tracker (s.trackerAfter x).state c) := by
    unfold State.tracked State.track
    simp only [State.holdsFirst, State.locksFirst, hold, lock, Bool.false_and, Bool.false_eq_true, if_false, prepared.1,
      outcome]
    exact Link.carries_post _ _
  have grows : Grows (s.prepare x o) (s.tracked x o) := by
    obtain ⟨t, k, l, e, grows⟩ := (s.prepare x o).track_eq (SampleSet.ofInput x) o
    unfold State.Grows State.tracked
    rw [e]
    exact grows
  exact (s.prepare_grows x o).carries_after ((s.tracked_grows x o).carries_before posted grows)

end

end Sys2Proof.Machine
end

section
/-! SUPPORT. The tracker's own handling of a sample set by its state (R6 to R9), and its boundary (R13). With these O14 and
O15. -/

namespace Sys2Proof.Machine

open Sys2Proof

section

variable {t : Tracker} {a : Int}

/-- R6: a positive-going crossing. -/
theorem Tracker.crossing_iff : t.crossing a = true ↔ ∃ p, t.prevA = some p ∧ p < 0 ∧ 0 ≤ a := by
  unfold Tracker.crossing
  split
  · next p e => simp [e]
  · next e => simp [e]

theorem inWindow_iff (k : Nat) : inWindow k = true ↔ 93 ≤ k ∨ k ≤ 3 := by
  simp [inWindow]

/-- R7: the crossing that locks the tracker on. -/
theorem Tracker.outcome_of_seeking (state : t.state = .seeking) : t.outcome a = some .lockedOn ↔
    t.crossing a = true ∧ t.remembered = true ∧ 93 ≤ min (t.spacing + 1) 255 ∧ min (t.spacing + 1) 255 ≤ 99 := by
  unfold Tracker.outcome
  simp only [state, Tracker.advance]
  split <;> simp_all

/-! ## The handling, case by case -/

theorem Tracker.handle_of_holding (state : t.state = .holding) : t.handle a = t.advance a := by
  simp only [Tracker.handle, state]

theorem Tracker.handle_of_lockOn (state : t.state = .seeking) (crosses : t.crossing a = true)
    (on : t.outcome a = some .lockedOn) :
    t.handle a = { t.advance a with state := .locked, index := 0, miss := 0, spacing := 0 } := by
  simp only [Tracker.handle, state, crosses, on, if_true]

theorem Tracker.handle_of_remembered (state : t.state = .seeking) (crosses : t.crossing a = true)
    (on : t.outcome a ≠ some .lockedOn) :
    t.handle a = { t.advance a with index := 0, spacing := 0, remembered := true } := by
  simp only [Tracker.handle, state, crosses, on, if_true, if_false]

theorem Tracker.handle_of_seeking (state : t.state = .seeking) (crosses : t.crossing a = false) :
    t.handle a = t.advance a := by
  simp only [Tracker.handle, state, crosses, Bool.false_eq_true, if_false]

theorem Tracker.handle_of_window (state : t.state = .locked) (crosses : t.crossing a = true)
    (window : inWindow t.candidate = true) :
    t.handle a = { t.advance a with index := 0, miss := 0, spacing := 0 } := by
  simp only [Tracker.handle, state, crosses, Tracker.advance, window, if_true]

theorem Tracker.handle_of_misses (state : t.state = .locked) (crosses : t.crossing a = true)
    (window : inWindow t.candidate = false) (miss : 1 ≤ t.miss) : t.handle a =
      { t.advance a with state := .seeking, index := 0, miss := 0, spacing := 0, remembered := true } := by
  simp only [Tracker.handle, state, crosses, Tracker.advance, window, miss, if_true, Bool.false_eq_true, if_false]

theorem Tracker.handle_of_miss (state : t.state = .locked) (crosses : t.crossing a = true)
    (window : inWindow t.candidate = false) (miss : ¬ 1 ≤ t.miss) :
    t.handle a = { t.advance a with miss := t.miss + 1, spacing := 0 } := by
  simp only [Tracker.handle, state, crosses, Tracker.advance, window, miss, if_true, Bool.false_eq_true, if_false]

theorem Tracker.handle_of_silence (state : t.state = .locked) (crosses : t.crossing a = false)
    (silent : 144 ≤ min (t.spacing + 1) 255) :
    t.handle a = { t.advance a with state := .seeking, miss := 0, remembered := false } := by
  simp only [Tracker.handle, state, crosses, Tracker.advance, silent, if_true, Bool.false_eq_true, if_false]

theorem Tracker.handle_of_locked (state : t.state = .locked) (crosses : t.crossing a = false)
    (heard : ¬ 144 ≤ min (t.spacing + 1) 255) : t.handle a = t.advance a := by
  simp only [Tracker.handle, state, crosses, Tracker.advance, heard, Bool.false_eq_true, if_false]

/-- What every handling makes of the sample remembered, the boundary counts and the index. -/
theorem Tracker.handle_fields (t : Tracker) (a : Int) : (t.handle a).prevA = some a ∧
    (t.handle a).boundarySpacing = min (t.boundarySpacing + 1) 255 ∧
    (t.handle a).boundaryDeclared = t.boundaryDeclared ∧
    (t.handle a).index = if t.crossing a = true ∧
        (t.state = .seeking ∨ t.state = .locked ∧ (inWindow t.candidate = true ∨ 1 ≤ t.miss)) then 0 else t.candidate := by
  cases state : t.state with
  | holding =>
    rw [Tracker.handle_of_holding state]
    exact ⟨rfl, rfl, rfl, by simp [Tracker.advance]⟩
  | seeking =>
    cases crosses : t.crossing a with
    | false =>
      rw [Tracker.handle_of_seeking state crosses]
      exact ⟨rfl, rfl, rfl, by simp [Tracker.advance]⟩
    | true =>
      by_cases on : t.outcome a = some .lockedOn
      · rw [Tracker.handle_of_lockOn state crosses on]
        exact ⟨rfl, rfl, rfl, by simp⟩
      · rw [Tracker.handle_of_remembered state crosses on]
        exact ⟨rfl, rfl, rfl, by simp⟩
  | locked =>
    cases crosses : t.crossing a with
    | false =>
      by_cases silent : 144 ≤ min (t.spacing + 1) 255
      · rw [Tracker.handle_of_silence state crosses silent]
        exact ⟨rfl, rfl, rfl, by simp [Tracker.advance]⟩
      · rw [Tracker.handle_of_locked state crosses silent]
        exact ⟨rfl, rfl, rfl, by simp [Tracker.advance]⟩
    | true =>
      cases window : inWindow t.candidate with
      | true =>
        rw [Tracker.handle_of_window state crosses window]
        exact ⟨rfl, rfl, rfl, by simp⟩
      | false =>
        by_cases miss : 1 ≤ t.miss
        · rw [Tracker.handle_of_misses state crosses window miss]
          exact ⟨rfl, rfl, rfl, by simp [miss]⟩
        · rw [Tracker.handle_of_miss state crosses window miss]
          exact ⟨rfl, rfl, rfl, by simp [miss, Tracker.advance]⟩

/-! ## Boundaries -/

theorem Tracker.boundary_iff : t.boundary.isSome = true ↔
    (t.index = 0 ∨ t.index = 48) ∧ (t.boundaryDeclared = false ∨ 45 ≤ t.boundarySpacing) := by
  unfold Tracker.boundary
  split
  · next h => simpa using h
  · next h => simpa using h

theorem Tracker.declare_eq : t.declare =
    if t.boundary.isSome then { t with boundarySpacing := 0, boundaryDeclared := true } else t := by
  unfold Tracker.declare
  cases t.boundary <;> rfl

/-- A boundary declared is none of the tracker's state and counts. -/
theorem Tracker.declare_keeps (t : Tracker) : t.declare.state = t.state ∧ t.declare.miss = t.miss ∧
    t.declare.spacing = t.spacing ∧ t.declare.remembered = t.remembered ∧ t.declare.index = t.index := by
  rw [Tracker.declare_eq]
  split <;> exact ⟨rfl, rfl, rfl, rfl, rfl⟩

end

/-- Settles O14. The handling's cases (`Tracker.handle_fields`, `handle_of_*`) are what the instant leaves measured of the
tracker (`instant_tracker`), and its state and counts where no event opens or ends (`instant_tracker_of_same`). -/
theorem trackerIndexFollowsTheCrossings : Obligations.TrackerIndexFollowsTheCrossings := by
  intro s x o takes q a k d n crossing window locksOn
  have crosses_iff : q.crossing a = true ↔ crossing := Tracker.crossing_iff
  have window_iff : inWindow q.candidate = true ↔ window := inWindow_iff k
  have on_iff (state : q.state = .seeking) (crosses : crossing) : q.outcome a = some .lockedOn ↔ locksOn := by
    rw [Tracker.outcome_of_seeking state, crosses_iff]
    exact ⟨fun h => ⟨state, h.2⟩, fun h => ⟨crosses, h.2⟩⟩
  obtain ⟨prevA, spacing, declared, index⟩ := q.handle_fields a
  obtain ⟨index', prevA', -, spacing', declared'⟩ := State.instant_tracker (x := x) takes
  have zero_iff : (q.crossing a = true ∧ (q.state = .seeking ∨ q.state = .locked ∧
      (inWindow q.candidate = true ∨ 1 ≤ q.miss))) ↔
      (crossing ∧ (q.state = .seeking ∨ q.state = .locked ∧ (window ∨ 1 ≤ q.miss))) := by
    rw [crosses_iff, window_iff]
  have boundary_iff : s.boundaryAfter x = true ↔
      ((s.instant x o).tracker.index = 0 ∨ (s.instant x o).tracker.index = 48) ∧ (q.boundaryDeclared = false ∨ 45 ≤ n) := by
    rw [State.boundaryAfter, Tracker.boundary_iff, ← index']
    change _ ∧ ((q.handle a).boundaryDeclared = false ∨ 45 ≤ (q.handle a).boundarySpacing) ↔ _
    rw [spacing, declared]
  refine ⟨s.instant x o, exec_sampleSet_of_sampling takes.1 x o, prevA'.trans prevA, fun h => ?_, fun h => ?_,
    fun crosses on => ?_, fun same => ?_, boundary_iff, ?_, ?_⟩
  · exact index'.trans (index.trans (if_pos (zero_iff.mpr h)))
  · exact index'.trans (index.trans (if_neg (zero_iff.not.mpr h)))
  · have outcome := (on_iff on.1 crosses).mpr on
    have report := State.instant_carries_outcome takes outcome
    rwa [State.trackerAfter, Tracker.handle_of_lockOn on.1 (crosses_iff.mpr crosses) outcome] at report
  · have tracker := State.instant_tracker_of_same takes same
    rw [State.halved_tracker takes] at tracker
    obtain ⟨state', miss', count', remembered', -⟩ := (s.trackerAfter x).declare_keeps
    rw [← tracker] at state' miss' count' remembered'
    rw [state', miss', count', remembered', show s.trackerAfter x = q.handle a from rfl]
    refine ⟨fun crosses => ⟨fun on => ?_, fun state off => ?_, fun state inside => ?_, fun state outside first => ?_⟩,
      fun flat stands => ?_, fun state => ?_⟩
    · rw [Tracker.handle_of_lockOn on.1 (crosses_iff.mpr crosses) ((on_iff on.1 crosses).mpr on)]
      exact ⟨rfl, rfl, rfl⟩
    · rw [Tracker.handle_of_remembered state (crosses_iff.mpr crosses) ((on_iff state crosses).not.mpr off)]
      exact ⟨state, rfl, rfl⟩
    · rw [Tracker.handle_of_window state (crosses_iff.mpr crosses) (window_iff.mpr inside)]
      exact ⟨state, rfl, rfl⟩
    · have off : inWindow q.candidate = false := by rw [Bool.eq_false_iff]; exact window_iff.not.mpr outside
      rw [Tracker.handle_of_miss state (crosses_iff.mpr crosses) off (by omega)]
      exact ⟨state, by rw [first], rfl⟩
    · have none : q.crossing a = false := by rw [Bool.eq_false_iff]; exact crosses_iff.not.mpr flat
      have runsOn : q.handle a = q.advance a := stands.elim (fun state => Tracker.handle_of_seeking state none)
        fun ⟨state, heard⟩ => Tracker.handle_of_locked state none (not_le.mpr heard)
      rw [runsOn]
      exact ⟨rfl, rfl, rfl, rfl⟩
    · rw [Tracker.handle_of_holding state]
      exact ⟨state, rfl, rfl⟩
  · rw [spacing', Tracker.declare_eq, ← State.boundaryAfter]
    cases s.boundaryAfter x with
    | true => rfl
    | false => exact spacing
  · rw [declared', Tracker.declare_eq, ← State.boundaryAfter]
    cases s.boundaryAfter x with
    | true => exact (Bool.or_true _).symm
    | false => exact declared.trans (Bool.or_false _).symm

/-- R8, R9, R12: an instant whose tracker goes to SEEKING by its own handling, with its report. -/
theorem State.instant_of_lostLock {s : State} {x : SampleInput} {o : Orders} (takes : s.takesSample o)
    (seeking : (s.trackerAfter x).state = .seeking) :
    (s.instant x o).tracker = (s.trackerAfter x).declare := by
  have state : (s.halved x o).tracker.state = .seeking := by
    rw [State.halved_tracker takes, (Tracker.declare_keeps _).1, seeking]
  rw [State.instant_tracker_of_seeking state, State.halved_tracker takes]

theorem State.trackerOutcome_eq {s : State} {o : Orders} (takes : s.takesSample o) (x : SampleInput) :
    s.trackerOutcome x o = s.tracker.outcome (SampleSet.ofInput x).bus.a := by
  obtain ⟨-, settled, hold, -⟩ := takes
  have prepared := State.prepare_seen settled x o
  simp only [State.seen, Prod.mk.injEq] at prepared
  simp [State.trackerOutcome, State.holdsFirst, hold, prepared.1]

/-- Settles O15. The second miss and the silence are outcomes of the tracker's own handling, which leaves it in SEEKING, where
no onset or end of the instant moves it (`instant_of_lostLock`). -/
theorem missesAndSilenceReturnTrackerToSeeking : Obligations.MissesAndSilenceReturnTrackerToSeeking := by
  refine ⟨fun s x o p takes state prev below above low high miss => ?_, fun s x o takes state flat long => ?_⟩
  · have crosses : s.tracker.crossing (SampleSet.ofInput x).bus.a = true := Tracker.crossing_iff.mpr ⟨p, prev, below, above⟩
    have window : inWindow s.tracker.candidate = false := by
      rw [Bool.eq_false_iff, ne_eq, inWindow_iff, Tracker.candidate]
      omega
    have handled : s.trackerAfter x = _ := Tracker.handle_of_misses state crosses window miss
    have outcome : s.tracker.outcome (SampleSet.ofInput x).bus.a = some .misses := by
      simp only [Tracker.outcome, state, crosses, Tracker.advance, window, miss, if_true, Bool.false_eq_true, if_false]
    have tracker := State.instant_of_lostLock (x := x) takes (by rw [handled])
    have report := State.instant_carries_outcome takes outcome
    obtain ⟨state', miss', count', remembered', index'⟩ := (s.trackerAfter x).declare_keeps
    rw [handled] at state' miss' count' remembered' index' report
    refine ⟨s.instant x o, ?_, exec_sampleSet_of_sampling takes.1 x o, ?_⟩
    · change execTrackerMisses x o s = _
      simp [execTrackerMisses, State.instantIf, State.trackerOutcome_eq takes, outcome, takes.1]
    · rw [tracker, handled]
      exact ⟨state', index', miss', count', remembered', report⟩
  · have none : s.tracker.crossing (SampleSet.ofInput x).bus.a = false := by
      rw [Bool.eq_false_iff, ne_eq, Tracker.crossing_iff]
      rintro ⟨p, prev, below, above⟩
      have := flat p prev
      omega
    have silent : 144 ≤ min (s.tracker.spacing + 1) 255 := by omega
    have handled : s.trackerAfter x = _ := Tracker.handle_of_silence state none silent
    have outcome : s.tracker.outcome (SampleSet.ofInput x).bus.a = some .silence := by
      simp only [Tracker.outcome, state, none, Tracker.advance, silent, if_true, Bool.false_eq_true, if_false]
    have tracker := State.instant_of_lostLock (x := x) takes (by rw [handled])
    have report := State.instant_carries_outcome takes outcome
    obtain ⟨state', miss', -, remembered', index'⟩ := (s.trackerAfter x).declare_keeps
    rw [handled] at state' miss' remembered' index' report
    refine ⟨s.instant x o, ?_, exec_sampleSet_of_sampling takes.1 x o, ?_⟩
    · change execTrackerSilence x o s = _
      simp [execTrackerSilence, State.instantIf, State.trackerOutcome_eq takes, outcome, takes.1]
    · rw [tracker, handled]
      exact ⟨state', index', miss', remembered', report⟩

end Sys2Proof.Machine
end

section
/-! SUPPORT. The store's states of an instant (R68 to R70), formed before the detector's step or after it; with them O17. -/

namespace Sys2Proof.Machine

open Sys2Proof
open State (Course Grows Runs Stays Noted Passes)

/-! ## The levels -/

theorem warnThreshold_eq {g : Globals} (h : g.storeWarnSel ≤ 7) :
    g.warnThreshold = g.storeRated * (55 + 5 * g.storeWarnSel) / 100 := by
  rw [Globals.warnThreshold, warnPercent, min_eq_left h]

theorem Globals.warningNext_of_clear (g : Globals) (v : Nat) : g.warningNext false v = true ↔ v < g.warnThreshold := by
  simp [Globals.warningNext]

theorem Globals.warningNext_of_set (g : Globals) (v : Nat) : g.warningNext true v = false ↔ g.warnClear ≤ v := by
  simp [Globals.warningNext]

theorem Globals.overNext_of_clear (g : Globals) (v : Nat) : g.overNext false v = true ↔ g.storeMax < v := by
  simp [Globals.overNext]

theorem Globals.overNext_of_set (g : Globals) (v : Nat) : g.overNext true v = false ↔ v ≤ g.storeMax - 10 := by
  simp [Globals.overNext]

theorem State.chargerNext_iff (s : State) (v : Nat) (ov : Bool) : s.chargerNext v ov = true ↔
    s.eventOpen = false ∧ s.store.delay = 0 ∧ v < s.inForce.globals.storeRated ∧ ov = false ∧ s.loader.op = .running := by
  simp [State.chargerNext, and_assoc]

/-! ## The state that the store's states are formed in -/

/-- The store with its recharge delay set aside. -/
def Store.butDelay (st : Store) : Store := { st with delay := 0 }

/-- The store's states of an instant from `s` to `t`, at store voltage `v`, are formed in `u`. -/
structure State.Forms (s t u : State) (v : Nat) (g : Globals) : Prop where
  globals : u.inForce.globals = g
  op : u.loader.op = s.loader.op
  before : u.store.warning = s.store.warning ∧ u.store.overVoltage = s.store.overVoltage
  volts : u.store.volts = some v
  formed : t.store.butDelay = (u.storeFormed v).butDelay
  reports : ∀ k, warningReport s.store.warning t.store.warning = some k ∨
      overReport s.store.overVoltage t.store.overVoltage = some k →
    s.link.carries t.link (.store k (some v) t.store.quanta t.store.charger)

section

variable {s : State} {x : SampleInput} {o : Orders}

theorem State.halved_butDelay : (s.halved x o).store.butDelay = (s.tracked x o).store.butDelay := by
  cases boundary : s.boundaryAt x o with
  | false => rw [State.halved_of_none s x o boundary]
  | true => rw [State.halved_of_boundary s x o boundary]; rfl

/-- Nothing in the detector's step but the end of an event moves the store, and that moves its recharge delay alone. -/
theorem State.detected_butDelay : (s.detected x o).store.butDelay = (s.tracked x o).store.butDelay := by
  rw [← State.halved_butDelay]
  by_cases goes : s.goesOn x o
  · rw [State.detected_store goes]
  · unfold State.goesOn at goes
    push Not at goes
    obtain ⟨isOpen, boundary, cause⟩ := goes
    obtain ⟨e, cause⟩ := Option.ne_none_iff_exists'.mp cause
    have ended := ((s.atRecords x o).ended_runs (k := .any) e).store
    have out := (s.atRecords x o).endEvent_out e
    rw [State.atRecords_store] at ended
    rw [State.detected_eq, boundary, State.concluded_of_end isOpen cause]
    generalize (s.atRecords x o).ended e = u at ended out
    rw [← ended, out]
    rfl

theorem State.tracked_store : (s.tracked x o).store =
    if o.storeEarly then (s.sampleTaken x o).storeFormed (SampleSet.ofInput x).store else (s.sampleTaken x o).store := by
  obtain ⟨t, c, l, tracked, -⟩ := s.tracked_eq x o
  rw [tracked]

theorem State.sampleTaken_loader (takes : s.takesSample o) : (s.sampleTaken x o).loader = s.loader ∧
    (s.sampleTaken x o).eventOpen = s.eventOpen := by
  obtain ⟨m, g, st, l, out, -⟩ := State.sampleTaken_out (o := o) takes.2.1 x
  generalize (s.sampleTaken x o).lines = ls at out
  rw [out]
  exact ⟨rfl, rfl⟩

/-- The state that late store states are formed in. -/
def State.atStore (s : State) (x : SampleInput) (o : Orders) : State := ((s.detected x o).middle o).recordsAt x o .last

theorem State.instant_atStore : s.instant x o = ((s.atStore x o).storeLate x o).ending o := rfl

theorem State.atStore_stays : Stays .any (s.detected x o) (s.atStore x o) :=
  (State.middle_runs (k := .any) _ o trivial fun _ _ => trivial).stays.trans (State.recordsAt_stays _ x o _)

theorem State.atStore_store : (s.atStore x o).store = (s.detected x o).store := by
  obtain ⟨g, q, e⟩ := ((s.detected x o).middle o).recordsAt_eq x o .last
  rw [State.atStore, e, ← (State.middle_runs (k := .any) (s.detected x o) o trivial fun _ _ => trivial).store]

theorem State.ending_store (t : State) : (t.ending o).store = t.store :=
  (State.ending_runs (k := .any) t o trivial fun _ _ => trivial).store

theorem State.sampleTaken_grows (s : State) (x : SampleInput) (o : Orders) : Grows s (s.sampleTaken x o) := by
  have taken : (s.sampleTaken x o).link = (s.closeInstant o).link := by
    unfold State.sampleTaken
    rw [State.takeSample_out]
    rfl
  unfold State.Grows
  rw [taken]
  exact s.closeInstant_grows o

theorem State.prepared_grows (s : State) (x : SampleInput) (o : Orders) : Grows (s.prepare x o) (s.instant x o) := by
  obtain ⟨t, c, m, tracked, grows⟩ := (s.prepare x o).track_eq (SampleSet.ofInput x) o
  refine State.Grows.trans ?_ (s.tracked_grows x o)
  unfold State.Grows State.tracked
  rw [tracked]
  exact grows

/-- R72: the reports of store states formed early. -/
theorem State.instant_carries_early (early : o.storeEarly = true) {u : State} (measured : s.sampleTaken x o = u)
    {k : StoreCause} (change : warningReport u.store.warning (u.storeFormed (SampleSet.ofInput x).store).warning = some k ∨
      overReport u.store.overVoltage (u.storeFormed (SampleSet.ofInput x).store).overVoltage = some k) :
    s.link.carries (s.instant x o).link
      (.store k u.store.volts u.store.quanta (u.storeFormed (SampleSet.ofInput x).store).charger) := by
  obtain ⟨l, updated, grows, reports⟩ := u.updateStore_out (SampleSet.ofInput x).store
  have prepared : (s.prepare x o).link = l := by rw [State.prepare_of_early early, measured, updated]
  have onwards := s.prepared_grows x o
  have arrives := s.sampleTaken_grows x o
  unfold State.Grows at onwards arrives
  rw [prepared] at onwards
  rw [measured] at arrives
  exact arrives.carries_after (onwards.carries_before (reports k change) grows)

/-- R70: store states formed before the detector's step. -/
theorem State.forms_early (takes : s.takesSample o) (early : o.storeEarly = true) :
    s.Forms (s.instant x o) (s.sampleTaken x o) (SampleSet.ofInput x).store (s.globalsAt o) := by
  have store := s.sampleTaken_store x o
  have formed : (s.instant x o).store.butDelay =
      ((s.sampleTaken x o).storeFormed (SampleSet.ofInput x).store).butDelay := by
    rw [State.instant_atStore, State.ending_store, State.storeLate, if_pos early, State.atStore_store,
      State.detected_butDelay, State.tracked_store, if_pos early]
  have globals := s.sampleTaken_globals x o
  have loader := congrArg Loader.op (State.sampleTaken_loader (x := x) takes).1
  obtain ⟨u, measured⟩ : ∃ u, s.sampleTaken x o = u := ⟨_, rfl⟩
  have reports (k : StoreCause) := State.instant_carries_early (k := k) early measured
  rw [measured] at store formed globals loader ⊢
  have fields := formed
  simp only [Store.butDelay, Store.mk.injEq] at fields
  obtain ⟨-, -, quanta, warning, past, charger, -⟩ := fields
  have volts : u.store.volts = some (SampleSet.ofInput x).store := by rw [store]
  have before : u.store.warning = s.store.warning ∧ u.store.overVoltage = s.store.overVoltage := by
    rw [store]
    exact ⟨rfl, rfl⟩
  refine ⟨globals, loader, before, volts, formed, fun k change => ?_⟩
  rw [quanta, charger, ← volts]
  rw [warning, past, ← before.1, ← before.2] at change
  exact reports k change

/-- R70: store states formed after the detector's step. -/
theorem State.forms_late (takes : s.takesSample o) (late : o.storeEarly = false) :
    s.Forms (s.instant x o) (s.atStore x o) (SampleSet.ofInput x).store (s.globalsAt o) := by
  have measured := s.sampleTaken_store x o
  have store : (s.atStore x o).store.butDelay = (s.sampleTaken x o).store.butDelay := by
    rw [State.atStore_store, State.detected_butDelay, State.tracked_store, late]
    rfl
  rw [measured] at store
  simp only [Store.butDelay, Store.mk.injEq] at store
  obtain ⟨volts, -, quanta, warning, past, -, -⟩ := store
  obtain ⟨l, updated, grows, reports⟩ := (s.atStore x o).updateStore_out (SampleSet.ofInput x).store
  have formed : (s.instant x o).store = (s.atStore x o).storeFormed (SampleSet.ofInput x).store := by
    rw [State.instant_atStore, State.ending_store, State.storeLate, late, if_neg Bool.false_ne_true, updated]
  have arrives := State.detect_stays (k := .any) (s.atDetector x o) x o trivial (s.boundaryAt x o)
    ((s.tracked x o).externalWeighed o) (s.requestHeard x o)
  have stays : Stays .any (s.halved x o) (s.atStore x o) :=
    ((s.atDetector_stays x o .any fun _ _ => trivial).trans arrives).trans State.atStore_stays
  have inForce : (s.atStore x o).inForce = (s.halved x o).inForce := (congrArg State.inForce stays.rest :)
  have loader : (s.atStore x o).loader = (s.halved x o).loader := (congrArg State.loader stays.rest :)
  have halved : (s.halved x o).loader = s.loader := (congrArg State.loader (State.halved_rest (o := o) takes.2.1 x) :)
  refine ⟨?_, congrArg Loader.op (loader.trans halved), ⟨warning, past⟩, volts, congrArg Store.butDelay formed, fun k change => ?_⟩
  · rw [inForce, (s.halved_read x o).1, s.sampleTaken_globals x o]
  · have posted := reports k (by rw [warning, past]; rw [formed] at change; exact change)
    have onwards := (State.ending_runs (k := .any) ((s.atStore x o).storeLate x o) o trivial fun _ _ => trivial).grows
    rw [formed, ← volts]
    unfold State.Grows at onwards
    have stored : ((s.atStore x o).storeLate x o).link = l := by
      rw [State.storeLate, late, if_neg Bool.false_ne_true, updated]
    rw [stored] at onwards
    exact ((State.halved_grows takes.2.1 x).trans stays.grows).carries_after (onwards.carries_before posted grows)

/-- With no acceptance placed after the store's states, no event opens after them. -/
theorem State.ending_eventOpen {t : State} (none : ∀ l, o.line.get l ≠ .last) : (t.ending o).eventOpen = t.eventOpen := by
  have lines (t : State) : forLines (fun l s => if o.line.get l = .last then s.acceptLine false o.leaveLate l else s) t = t :=
    List.foldl_fixed' (fun l => if_neg (none l)) _
  have placed (t : State) : Course .any t (t.takePlaced o .last) := by
    have expiries := State.placedExpiries_course (k := .any) o (p := .last) (fun _ _ => trivial) o.leaveLate t
    have same : t.takePlaced o .last = forFeeders (fun f s => if o.expiry.get f = .last then s.expire o.leaveLate f else s)
        (forLines (fun l s => if o.line.get l = .last then s.acceptLine false o.leaveLate l else s) t) := rfl
    rw [same, lines]
    exact expiries
  exact (((((t.evaluateAt_course o .stored).trans (placed _)).trans (State.evaluateAt_course _ o _)).trans
    (State.settleTimers_course _ _)).trans (State.settleChoice_course _ _)).eventOpen

end

/-- Settles O17. The store's states are those formed early or late in the instant (`forms_early`, `forms_late`), which
nothing after them moves. -/
theorem storeStatesFollowTheirLevels : Obligations.StoreStatesFollowTheirLevels := by
  intro s x o takes v g threshold selector floor
  have loader : (s.instant x o).loader = s.loader := (s.instant_within x o).frame.fixed.2.2.1
  obtain ⟨u, forms, early, late⟩ : ∃ u, s.Forms (s.instant x o) u v g ∧
      (o.storeEarly = true → u.eventOpen = s.eventOpen ∧ u.store.delay = s.store.delay) ∧
      (o.storeEarly = false → (s.instant x o).store.delay = u.store.delay ∧
        ((∀ l, o.line.get l ≠ .last) → (s.instant x o).eventOpen = u.eventOpen)) := by
    cases order : o.storeEarly with
    | true =>
      have store := s.sampleTaken_store x o
      refine ⟨_, State.forms_early takes order, fun _ => ⟨(State.sampleTaken_loader takes).2, ?_⟩, nofun⟩
      rw [store]
    | false =>
      refine ⟨_, State.forms_late takes order, nofun, fun _ => ⟨?_, fun none => ?_⟩⟩
      · rw [State.instant_eq, State.finish_delay, State.atStore_store]
      · rw [State.instant_atStore, State.ending_eventOpen none]
        exact (State.storeLate_course (k := .any) (s.atStore x o) x o).eventOpen
  obtain ⟨globals, op, ⟨warning, past⟩, volts, formed, reports⟩ := forms
  simp only [Store.butDelay, Store.mk.injEq, State.storeFormed] at formed
  obtain ⟨-, -, -, warning', past', charger', -⟩ := formed
  rw [globals, warning] at warning'
  rw [globals, past] at past' charger'
  rw [← past'] at charger'
  have charger := u.chargerNext_iff v (s.instant x o).store.overVoltage
  rw [← charger', globals, op] at charger
  refine ⟨s.instant x o, exec_sampleSet_of_sampling takes.1 x o, fun clear => ?_, fun set => ?_, fun clear => ?_, fun set => ?_,
    fun asserted => ?_, fun order => ?_, fun order none => ?_, fun clear set => ?_, fun set clear => ?_, fun clear set => ?_,
    fun set clear => ?_⟩
  · rw [warning', clear, Globals.warningNext_of_clear, warnThreshold_eq selector]
  · rw [warning', set, Globals.warningNext_of_set, Globals.warnClear, warnThreshold_eq selector]
  · rw [past', clear, Globals.overNext_of_clear]
  · rw [past', set, Globals.overNext_of_set]
  · obtain ⟨closed, delay, low, off, running⟩ := charger.mp asserted
    refine ⟨?_, low, off, by rw [loader, running]⟩
    cases order : o.storeEarly with
    | true =>
      obtain ⟨opened, before⟩ := early order
      rw [State.instant_delay takes (State.goesOn_of_closed takes (opened.symm.trans closed)), ← before, delay]
      exact ite_self 0
    | false => rw [(late order).1, delay]
  · rw [charger, (early order).1, (early order).2]
  · rw [charger, (late order).1, (late order).2 none]
  · exact reports .warningSet (.inl (by rw [clear, set]; rfl))
  · exact reports .warningClear (.inl (by rw [clear, set]; rfl))
  · exact reports .overvoltageSet (.inr (by rw [clear, set]; rfl))
  · exact reports .overvoltageClear (.inr (by rw [clear, set]; rfl))

end Sys2Proof.Machine
end

section
/-! SUPPORT. An expiry taken, by the state and phase it meets (R98, R99, R103, R104, R109), and the expiries as commands of
their own. -/

namespace Sys2Proof.Machine

open Sys2Proof
open State (Course Grows Runs Stays SeqOnly)

/-! ## One sequencer -/

/-- R99, R103: a sequencer whose BYPASS timer expires. -/
def Sequencer.bypassExpired (q : Sequencer) (g : Globals) (opened : Bool) : Sequencer :=
  if q.state = .injecting then q.released g .bypassStuck opened
  else if q.state = .releasing ∧ q.phase = some .closing then q.faulted g .bypassStuck .closing none opened
  else { q with timer := none }

/-- R104, R109: a sequencer whose STOP timer expires. -/
def Sequencer.stopExpired (q : Sequencer) (g : Globals) (opened : Bool) : Sequencer :=
  if q.state = .releasing ∧ q.phase = some .stopping then q.faulted g .stopTimeout .stopping none opened
  else if q.state = .faulted ∧ q.phase = some .stopping then { q with timer := none, followOn := some .stopTimeout }
  else { q with timer := none }

/-- R98, R99, R103, R104, R109: a sequencer whose timer of a kind expires. -/
def Sequencer.expiredAs (q : Sequencer) (k : TimerKind) (g : Globals) (opened : Bool) : Sequencer :=
  match k with
  | .arm =>
    if q.state = .arming then q.faulted g .armTimeout .stopping (some .stop) opened else { q with timer := none }
  | .bypass => q.bypassExpired g opened
  | .handover =>
    if q.phase = some .handingOver then { q with phase := some .stopping, timer := g.startTimer .stop }
    else { q with timer := none }
  | .stop => q.stopExpired g opened

/-- R93: a sequencer whose expiry, if one is due, is taken. -/
def Sequencer.expired (q : Sequencer) (g : Globals) (opened : Bool) : Sequencer :=
  q.timer.elim q fun t => if t.remaining = 0 then q.expiredAs t.kind g opened else q

theorem Sequencer.expired_of_none {q : Sequencer} (none : q.timer = none) (g : Globals) (opened : Bool) :
    q.expired g opened = q := by rw [Sequencer.expired, none, Option.elim_none]

theorem Sequencer.expired_of_some {q : Sequencer} {t : Timer} (timer : q.timer = some t) (g : Globals) (opened : Bool) :
    q.expired g opened = if t.remaining = 0 then q.expiredAs t.kind g opened else q := by
  rw [Sequencer.expired, timer, Option.elim_some]

/-- A timer's expiry stops it or starts one anew. -/
theorem Sequencer.expiredAs_timer (q : Sequencer) (k : TimerKind) (g : Globals) (opened : Bool) :
    (q.expiredAs k g opened).timer = none ∨ ∃ j, (q.expiredAs k g opened).timer = g.startTimer j := by
  cases k with
  | arm =>
    unfold Sequencer.expiredAs
    dsimp only
    split
    · exact .inr ⟨.stop, rfl⟩
    · exact .inl rfl
  | bypass =>
    change (q.bypassExpired g opened).timer = none ∨ ∃ j, (q.bypassExpired g opened).timer = g.startTimer j
    unfold Sequencer.bypassExpired
    split_ifs
    · exact .inr ⟨.bypass, rfl⟩
    · exact .inl rfl
    · exact .inl rfl
  | handover =>
    unfold Sequencer.expiredAs
    dsimp only
    split
    · exact .inr ⟨.stop, rfl⟩
    · exact .inl rfl
  | stop =>
    change (q.stopExpired g opened).timer = none ∨ _
    unfold Sequencer.stopExpired
    split_ifs <;> exact .inl rfl

theorem Sequencer.due_iff {q : Sequencer} : q.due ↔ ∃ t, q.timer = some t ∧ t.remaining = 0 := by
  unfold Sequencer.due Sequencer.count
  constructor
  · rintro ⟨k, e⟩
    obtain ⟨t, timer, e⟩ := Option.map_eq_some_iff.mp e
    exact ⟨t, timer, (Prod.mk.inj e).2⟩
  · rintro ⟨t, timer, zero⟩
    exact ⟨t.kind, by rw [timer, ← zero]; rfl⟩

/-- With timeouts of 1 or more, no expiry is due once one has been taken. -/
theorem Sequencer.expired_not_due {q : Sequencer} {g : Globals} (timeouts : ∀ j, 1 ≤ g.timeout j) (opened : Bool) :
    ¬ (q.expired g opened).due := by
  rw [Sequencer.due_iff]
  rintro ⟨t, timer, zero⟩
  cases before : q.timer with
  | some u =>
    rw [Sequencer.expired_of_some before] at timer
    split at timer
    · rcases q.expiredAs_timer u.kind g opened with none | ⟨j, started⟩
      · rw [none] at timer
        cases timer
      · rw [started] at timer
        cases timer
        have := timeouts j
        change g.timeout j = 0 at zero
        omega
    · next running =>
      rw [before] at timer
      cases timer
      exact running zero
  | none =>
    rw [Sequencer.expired_of_none before, before] at timer
    cases timer

/-! ## An expiry at its feeder's sequencer -/

section

variable (s : State) (lv : Leave) (f : Feeder)

theorem State.stopTimer_seq_self : (s.stopTimer f).seq.get f = { s.seq.get f with timer := none } := Six.get_set_self _ _ _

theorem State.armExpiry_seq_self : (s.armExpiry lv f).seq.get f = (s.seq.get f).expiredAs .arm s.globals s.eventOpen := by
  unfold State.armExpiry Sequencer.expiredAs
  dsimp only
  split
  · exact State.fault_seq_self _ _ _ _ _ _
  · exact s.stopTimer_seq_self f

theorem State.bypassExpiry_of_closing {s : State} {f : Feeder} (state : (s.seq.get f).state = .releasing)
    (phase : (s.seq.get f).phase = some .closing) (lv : Leave) :
    s.bypassExpiry lv f = s.fault lv f .bypassStuck .closing none := by simp [State.bypassExpiry, state, phase]

theorem State.stopExpiry_of_releasing {s : State} {f : Feeder} (state : (s.seq.get f).state = .releasing)
    (phase : (s.seq.get f).phase = some .stopping) (lv : Leave) :
    s.stopExpiry lv f = s.fault lv f .stopTimeout .stopping none := by simp [State.stopExpiry, state, phase]

theorem State.bypassExpiry_seq_self :
    (s.bypassExpiry lv f).seq.get f = (s.seq.get f).bypassExpired s.globals s.eventOpen := by
  unfold Sequencer.bypassExpired
  split_ifs with injecting closing
  · rw [State.bypassExpiry_of_injecting injecting, State.release_seq_self (State.participant_of_injecting injecting)]
  · rw [State.bypassExpiry_of_closing closing.1 closing.2, State.fault_seq_self]
  · unfold State.bypassExpiry
    split
    · next e => exact absurd e injecting
    · next e e' => exact absurd ⟨e, e'⟩ closing
    · exact s.stopTimer_seq_self f

theorem State.handoverExpiry_seq_self :
    (s.handoverExpiry f).seq.get f = (s.seq.get f).expiredAs .handover s.globals s.eventOpen := by
  unfold State.handoverExpiry Sequencer.expiredAs
  dsimp only
  split
  · exact Six.get_set_self _ _ _
  · exact s.stopTimer_seq_self f

theorem State.stopExpiry_seq_self : (s.stopExpiry lv f).seq.get f = (s.seq.get f).stopExpired s.globals s.eventOpen := by
  unfold Sequencer.stopExpired
  split_ifs with stopping faulted
  · rw [State.stopExpiry_of_releasing stopping.1 stopping.2, State.fault_seq_self]
  · simp [State.stopExpiry, State.followOn, State.stopTimer, State.postFeederFault, faulted]
  · unfold State.stopExpiry
    split
    · next e e' => exact absurd ⟨e, e'⟩ stopping
    · next e e' => exact absurd ⟨e, e'⟩ faulted
    · exact s.stopTimer_seq_self f

/-- R93: an expiry taken, at its feeder's sequencer. -/
theorem State.expire_seq_self : (s.expire lv f).seq.get f = (s.seq.get f).expired s.globals s.eventOpen := by
  unfold State.expire
  split
  · next t timer =>
    rw [Sequencer.expired_of_some timer]
    split
    · cases t.kind with
      | arm => exact s.armExpiry_seq_self lv f
      | bypass => exact s.bypassExpiry_seq_self lv f
      | handover => exact s.handoverExpiry_seq_self f
      | stop => exact s.stopExpiry_seq_self lv f
    · rfl
  · next none => rw [Sequencer.expired_of_none none]

end

end Sys2Proof.Machine
end

section
/-! SUPPORT. BYPASS_TIMER_EXPIRY, HANDOVER_EXPIRY and STOP_TIMER_EXPIRY as commands of their own (R99, R103, R104, R109). -/

namespace Sys2Proof.Machine

open Sys2Proof
open State (SeqOnly)

section

variable {s : State} {f : Feeder}

theorem exec_handoverExpiry_of_due (due : s.expiryDue f .handover = true) :
    exec (.handoverExpiry f) s = .next (s.handoverExpiry f) := by
  change execHandoverExpiry f s = _
  simp [execHandoverExpiry, due]

theorem exec_stopTimerExpiry_of_due (due : s.expiryDue f .stop = true) (lv : Leave) :
    exec (.stopTimerExpiry ⟨f, lv⟩) s = .next (s.asEvent lv.choice fun s => s.stopExpiry .nothing f) := by
  change execStopTimerExpiry ⟨f, lv⟩ s = _
  simp [execStopTimerExpiry, due]

/-- R99: the BYPASS timer in INJECTING releases its feeder, with what follows for its group. -/
theorem exec_bypassTimerExpiry_of_injecting (due : s.expiryDue f .bypass = true)
    (injecting : (s.seq.get f).state = .injecting) (lv : Leave) :
    ∃ t, exec (.bypassTimerExpiry f lv) s = .next t ∧ t.butCourse = s.butCourse ∧
      t.seq.get f = (s.seq.get f).released s.globals .bypassStuck s.eventOpen ∧
      (s.spared lv f → (∀ h, h ≠ f → t.seq.get h = s.seq.get h) ∧
        (lv.choice = false → s.link.choiceOpen = false → t.link = s.link.post
          (.feederState f .releasing (some .closing) (s.seq.get f).mode (some .bypassStuck)))) := by
  obtain ⟨l, eq, -, same⟩ := s.asEvent_eq lv.choice fun s => s.bypassExpiry lv f
  have engaged : State.participant { s with link := l } f = true := State.participant_of_injecting injecting
  rw [State.bypassExpiry_of_injecting (s := { s with link := l }) injecting] at eq
  refine ⟨_, exec_bypassTimerExpiry_of_due due lv, ?_⟩
  rw [eq, State.settleChoice_butCourse, State.settleChoice_seq]
  refine ⟨(State.release_seqOnly { s with link := l } lv f .bypassStuck).butCourse, State.release_seq_self engaged,
    fun spared => ?_⟩
  have released := State.release_of_spared (c := .bypassStuck) engaged spared
  rw [State.releaseAlone_eq engaged] at released
  have seq : (State.release { s with link := l } lv f .bypassStuck).seq = _ := (congrArg State.seq released :)
  have link : (State.release { s with link := l } lv f .bypassStuck).link = _ := (congrArg State.link released :)
  refine ⟨fun h other => ?_, fun now closed => ?_⟩
  · rw [seq]
    exact Six.get_set_ne _ _ other
  · rw [now] at same ⊢
    rw [same rfl] at link ⊢
    exact State.settleChoice_of_posted (rs := [_]) link closed

theorem State.stopExpiry_of_faulted (state : (s.seq.get f).state = .faulted)
    (phase : (s.seq.get f).phase = some .stopping) (lv : Leave) : s.stopExpiry lv f = { s with
      seq := s.seq.set f { s.seq.get f with timer := none, followOn := some .stopTimeout }
      link := s.link.post (.feederFault f .stopTimeout true none (s.port.get f).status s.openNumber) } := by
  have twice : (s.seq.set f { s.seq.get f with timer := none }).set f
      { s.seq.get f with timer := none, followOn := some .stopTimeout } =
      s.seq.set f { s.seq.get f with timer := none, followOn := some .stopTimeout } := Six.set_set _ _ _ _
  simp only [State.stopExpiry, state, phase, State.stopTimer, State.followOn, State.setSeq, Six.get_set_self,
    State.postFeederFault, State.post]
  rw [← state, ← phase, twice]
  rfl

/-- R103, R104: an expiry that faults a feeder in RELEASING, as a command of its own. -/
theorem State.asEvent_of_fault {lv : Leave} {c : Cause} {ph : SeqPhase} {event : State → State}
    (releasing : (s.seq.get f).state = .releasing)
    (h : ∀ l, ∃ lv, event { s with link := l } = State.fault { s with link := l } lv f c ph none) :
    State.butLink (s.asEvent lv.choice event) = State.butLink { s with
      seq := s.seq.set f { s.seq.get f with state := .faulted, phase := some ph, faultCause := some c, timer := none } } ∧
    (lv.choice = false → s.link.choiceOpen = false → (s.asEvent lv.choice event).link =
      s.link.posted [.feederState f .faulted (some ph) (s.seq.get f).mode (some c),
        .feederFault f c false (some .releasing) (s.port.get f).status s.openNumber]) := by
  obtain ⟨l, eq, -, same⟩ := s.asEvent_eq lv.choice event
  obtain ⟨lv', faulted⟩ := h l
  have out : State.participant { s with link := l } f = false := by simp [State.participant, releasing, FeederState.engaged]
  rw [faulted, State.fault_of_idle out, State.faultAlone_eq, if_neg (by rw [out]; exact nofun)] at eq
  have own : (s.seq.get f).faulted s.globals c ph none s.eventOpen =
      { s.seq.get f with state := .faulted, phase := some ph, faultCause := some c, timer := none } := by
    simp [Sequencer.faulted, releasing, FeederState.engaged]
  have reports : s.faultReports f c ph = [.feederState f .faulted (some ph) (s.seq.get f).mode (some c),
      .feederFault f c false (some .releasing) (s.port.get f).status s.openNumber] := by
    rw [State.faultReports, releasing]
  refine ⟨?_, fun now closed => ?_⟩
  · rw [eq, ← own]
    cases lv.choice <;> rfl
  · rw [now] at eq same
    rw [now, eq, ← reports]
    cases same rfl
    exact State.settleChoice_of_posted rfl closed

end

end Sys2Proof.Machine
end

section
/-! SUPPORT. A sample instant around the expiry of one feeder, which its orders place in it (R73, R93): before the expiry and
after it nothing takes an expiry of that feeder. With this O30. -/

namespace Sys2Proof.Machine

open Sys2Proof
open State (Runs Stays SeqOnly)

/-! ## A fold around one of its members -/

/-- A fold over a list runs up to a member of it, that member's step, and on. -/
theorem foldl_around {α : Type} {R : State → State → Prop} (refl : ∀ s, R s s) (trans : ∀ {a b c}, R a b → R b c → R a c)
    {step : State → α → State} {b : α} {l : List α} (mem : b ∈ l) (nodup : l.Nodup)
    (others : ∀ a, a ≠ b → ∀ s, R s (step s a)) (s : State) : ∃ v, R s v ∧ R (step v b) (l.foldl step s) := by
  obtain ⟨before, after, rfl⟩ := List.append_of_mem mem
  rw [List.nodup_append, List.nodup_cons] at nodup
  obtain ⟨-, ⟨fresh, -⟩, apart⟩ := nodup
  have run (k : List α) (free : b ∉ k) (s : State) : R s (k.foldl step s) := by
    induction k generalizing s with
    | nil => exact refl s
    | cons a k ih =>
      rw [List.mem_cons, not_or] at free
      exact trans (others a (Ne.symm free.1) s) (ih free.2 _)
  refine ⟨before.foldl step s, run before (fun h => apart b h b (List.mem_cons_self) rfl) s, ?_⟩
  rw [List.foldl_append, List.foldl_cons]
  exact run after fresh _

/-! ## The instant around an expiry -/

/-- Within an instant the expiries of all feeders but one may be taken. -/
def allBut (f : Feeder) : Taken := .aged fun g => decide (g ≠ f)

section

variable {o : Orders} {f : Feeder}

theorem allBut_grants (f : Feeder) : (allBut f).grants := trivial

theorem allBut_expires {g : Feeder} (other : g ≠ f) : (allBut f).expires g := decide_eq_true other

theorem allBut_expires_elsewhere {p q : Place} (placed : o.expiry.get f = p) (ne : q ≠ p) :
    ∀ g, o.expiry.get g = q → (allBut f).expires g := fun g e =>
  allBut_expires fun same => ne (by rw [← e, same, placed])

/-- The expiries of one place, around that of one feeder. -/
theorem State.takePlaced_around (s : State) {p : Place} (placed : o.expiry.get f = p) :
    ∃ v lv, Runs (allBut f) s v ∧ Runs (allBut f) (v.expire lv f) (s.takePlaced o p) := by
  unfold State.takePlaced
  have lines := Runs.forLines (k := allBut f)
    (step := fun l s => if o.line.get l = p then s.acceptLine (p == .first) (if p = .first then o.leave else o.leaveLate) l else s)
    (fun l s => (State.acceptLine_runs (.inr (allBut_grants f)) s _ l).ite (.refl s)) s
  obtain ⟨v, before, after⟩ := foldl_around Runs.refl Runs.trans (b := f) (l := Feeder.list)
    (step := fun s f => if o.expiry.get f = p then s.expire (if p = .first then o.leave else o.leaveLate) f else s)
    (Feeder.mem_list f) Feeder.list_nodup
    (fun g other s => (s.expire_runs _ (allBut_expires other)).ite (.refl s)) _
  rw [if_pos placed] at after
  exact ⟨v, _, lines.trans before, after⟩

end

section

variable (s : State) (x : SampleInput) {o : Orders} {f : Feeder}

theorem State.detected_stays_of {k : Taken} (grants : k.grants) (first : ∀ g, o.expiry.get g = .first → k.expires g) :
    Stays k (s.halved x o) (s.detected x o) := by
  have arrives := State.atDetector_stays s x o k first
  exact arrives.trans (State.detect_stays _ x o grants _ _ _)

/-- R93: where the orders place a feeder's expiry in the instant, the instant goes on to that expiry and on from it. -/
theorem State.instant_around (placed : o.expiry.get f ≠ .apart) :
    ∃ v lv, Stays (allBut f) (s.halved x o) v ∧ Stays (allBut f) (v.expire lv f) (s.instant x o) := by
  rw [State.instant_eq]
  cases place : o.expiry.get f with
  | apart => exact absurd place placed
  | first =>
    obtain ⟨v, lv, before, after⟩ :=
      State.takePlaced_around (State.recordsAt (State.evaluateAt (s.halved x o) o .tracked) x o .first) place
    refine ⟨v, lv, ?_, ?_⟩
    · exact ((State.evaluateAt_runs _ o _).stays.trans (State.recordsAt_stays _ x o _)).trans before.stays
    · have arrives : Stays (allBut f) (v.expire lv f) (s.atDetector x o) := by
        rw [State.atDetector_eq, State.beforeDetector_eq]
        exact (after.stays.trans (State.recordsAt_stays _ x o _)).trans (State.evaluateAt_runs _ o _).stays
      exact (arrives.trans (State.detect_stays _ x o (allBut_grants f) _ _ _)).trans
        (State.finish_stays _ x o (allBut_grants f) (allBut_expires_elsewhere place (by decide))
          (allBut_expires_elsewhere place (by decide)))
  | middle =>
    have arrives := State.detected_stays_of s x (k := allBut f) (allBut_grants f) (allBut_expires_elsewhere place (by decide))
    rw [State.finish_eq]
    generalize s.detected x o = d at *
    obtain ⟨v, lv, before, after⟩ :=
      State.takePlaced_around (State.evaluateAt (d.settleGroups o.leaveLate) o .detected) place
    refine ⟨v, lv, (arrives.trans ((d.settleGroups_runs _).trans (State.evaluateAt_runs _ o _)).stays).trans before.stays, ?_⟩
    exact ((after.stays.trans (State.recordsAt_stays _ x o _)).trans (State.storeLate_stays _ x o)).trans
      (State.ending_runs _ o (allBut_grants f) (allBut_expires_elsewhere place (by decide))).stays
  | last =>
    have arrives := State.detected_stays_of s x (k := allBut f) (allBut_grants f) (allBut_expires_elsewhere place (by decide))
    rw [State.finish_eq]
    generalize s.detected x o = d at *
    have late := ((State.middle_runs d o (allBut_grants f) (allBut_expires_elsewhere place (by decide))).stays.trans
      (State.recordsAt_stays _ x o .last)).trans (State.storeLate_stays _ x o)
    generalize State.storeLate (State.recordsAt (d.middle o) x o .last) x o = e at *
    obtain ⟨v, lv, before, after⟩ := State.takePlaced_around (e.evaluateAt o .stored) place
    refine ⟨v, lv, (arrives.trans late).trans ((e.evaluateAt_runs o _).trans before).stays, ?_⟩
    exact (after.trans (((State.evaluateAt_runs _ o _).trans (State.settleTimers_runs _ _)).trans
      (State.settleChoice_runs _ _))).stays

/-- R93: the timers of an instant over have lost their marks. -/
theorem State.instant_timer {t : Timer} (timer : ((s.instant x o).seq.get f).timer = some t) : t.fresh = false := by
  rw [State.instant_eq, State.finish_eq, State.ending, State.settleChoice_seq] at timer
  simp only [State.settleTimers, Six.get_of, Bool.false_eq_true, if_false] at timer
  obtain ⟨u, -, rfl⟩ := Option.map_eq_some_iff.mp timer
  rfl

end

/-! ## One sequencer through such an instant -/

/-- R93: the state or phase that a timer guards. -/
def Sequencer.guarded (q : Sequencer) (k : TimerKind) : Prop :=
  k = .arm ∧ q.state = .arming ∨ k = .bypass ∧ q.state = .injecting ∨
    k = .bypass ∧ q.state = .releasing ∧ q.phase = some .closing ∨ k = .handover ∧ q.phase = some .handingOver ∨
    k = .stop ∧ q.state = .releasing ∧ q.phase = some .stopping

namespace Sequencer

variable {g : Globals} {expired opened : Bool} {q v r : Sequencer} {k : TimerKind} {m : Nat}

theorem Stands.guarded (h : q.Stands v) (on : q.guarded k) : v.guarded k := by
  obtain ⟨state, phase, -⟩ := h
  unfold Sequencer.guarded
  rwa [state, phase]

/-- An expiry takes its feeder out of the state or phase that the timer guards. -/
theorem stage_lt_expiredAs (on : q.guarded k) : q.stage < (q.expiredAs k g opened).stage := by
  have bound := phaseStage_le q.phase
  rcases on with ⟨rfl, state⟩ | ⟨rfl, state⟩ | ⟨rfl, state, phase⟩ | ⟨rfl, phase⟩ | ⟨rfl, state, phase⟩
  · simp only [expiredAs, state, if_true, stage, faulted, FeederState.stage]
    omega
  · simp only [expiredAs, bypassExpired, state, if_true, stage, released, FeederState.stage]
    omega
  · simp only [expiredAs, bypassExpired, state, phase, reduceCtorEq, if_false, and_self, if_true, stage, faulted,
      FeederState.stage, phaseStage]
    omega
  · simp only [expiredAs, phase, if_true, stage, phaseStage]
    omega
  · simp only [expiredAs, stopExpired, state, phase, and_self, if_true, stage, faulted, FeederState.stage, phaseStage]
    omega

theorem Ages.stage_le (h : Ages g expired q r) (run : q.running) : q.stage ≤ r.stage := by
  rcases h.goesOn run with more | ⟨state, phase, -⟩ | ⟨-, -, state, phase⟩
  · exact more.le
  · exact (stage_eq state phase).ge
  · exact (stage_eq state phase).ge

/-- A sequencer that keeps state and phase keeps its timer's count, where no expiry of it is taken. -/
theorem Ages.count_of_same (h : Ages g expired q r) (run : q.running) (state : r.state = q.state)
    (phase : r.phase = q.phase) (undue : expired = true → ¬ q.due) : r.count = q.count := by
  rcases h.goesOn run with more | stands | ⟨may, due, -, -⟩
  · exact absurd (stage_eq state phase) more.ne'
  · exact stands.2.2
  · exact absurd due (undue may)

/-- With timeouts of 1 or more an instant leaves no expiry due where none was. -/
theorem Ages.not_due (h : Ages g expired q r) (timeouts : ∀ j, 1 ≤ g.timeout j) (none : ¬ q.due) : ¬ r.due := by
  rintro ⟨k, due⟩
  rcases h.timer with e | e | ⟨j, e⟩
  · exact none ⟨k, e ▸ due⟩
  · rw [e] at due
    cases due
  · rw [e] at due
    have zero : g.timeout j = 0 := congrArg Prod.snd (Option.some.inj due)
    have := timeouts j
    omega

theorem timer_of_count (h : q.count = some (k, m)) : ∃ t, q.timer = some t ∧ t.kind = k ∧ t.remaining = m := by
  obtain ⟨t, timer, e⟩ := Option.map_eq_some_iff.mp h
  exact ⟨t, timer, congrArg Prod.fst e, congrArg Prod.snd e⟩

theorem expired_of_count (h : q.count = some (k, 0)) (g : Globals) (opened : Bool) :
    q.expired g opened = q.expiredAs k g opened := by
  obtain ⟨t, timer, rfl, zero⟩ := timer_of_count h
  rw [expired_of_some timer, if_pos zero]

/-- R93: an expiry taken in the instant, of a timer that guards the feeder's state or phase, ends that. -/
theorem stage_lt_of_expired (due : q.count = some (k, 0)) (run : q.running) (on : q.guarded k) (before : Ages g false q v)
    (taken : Ages g true v (v.expired g opened)) (after : Ages g false (v.expired g opened) r) : q.stage < r.stage := by
  have toward {a b : Sequencer} {e : Bool} (less : q.stage < a.stage) (h : Ages g e a b) : q.stage < b.stage :=
    less.trans_le (h.stage_le (running_of_stage_lt run less))
  rcases before.goesOn run with more | stands | ⟨may, -⟩
  · exact toward (toward more taken) after
  · refine toward ?_ after
    rw [expired_of_count (stands.2.2.trans due), ← stage_eq stands.1 stands.2.1]
    exact stage_lt_expiredAs (stands.guarded on)
  · cases may

/-- R109: the STOP timer's expiry in FAULTED leaves the follow-on cause. -/
theorem followOn_of_expired (due : q.count = some (.stop, 0)) (state : q.state = .faulted) (phase : q.phase = some .stopping)
    (before : Ages g false q v) (after : Ages g false (v.expired g opened) r) :
    r.timer = none ∧ r.followOn = some .stopTimeout := by
  obtain ⟨stands, -⟩ := (before.faulted state).resolve_right fun h => nomatch h.1
  have own : v.expired g opened = { v with timer := none, followOn := some .stopTimeout } := by
    rw [expired_of_count (stands.2.2.trans due)]
    simp [expiredAs, stopExpired, stands.1, stands.2.1, state, phase]
  rw [own] at after
  obtain ⟨⟨-, -, count⟩, follow⟩ := (after.faulted (stands.1.trans state)).resolve_right fun h => nomatch h.1
  exact ⟨Option.map_eq_none_iff.mp count, follow⟩

/-- R93: the count of a timer after a sample set. -/
theorem ticked_count {fresh started : Bool} (timer : q.timer = some ⟨k, m, fresh⟩) :
    (q.ticked started).count = some (k, if fresh = true ∧ started = true then m else m - 1) := by
  cases fresh <;> cases started <;> simp [count, ticked, timer, Timer.tick]

end Sequencer

/-! ## The sample set -/

section

variable {s : State} {x : SampleInput} {o : Orders} {f : Feeder}

theorem State.halved_seq_get (settled : s.settled) (f : Feeder) :
    (s.halved x o).seq.get f = (s.seq.get f).ticked (o.started.get f) := by
  rw [State.halved_seq settled, Six.get_of]

theorem State.halved_globals (settled : s.settled) : (s.halved x o).globals = s.globals :=
  (congrArg State.globals (State.halved_rest (o := o) settled x) :)

/-- What an instant makes of a sequencer, by whether the orders place its expiry. -/
theorem State.instant_ages (settled : s.settled) (f : Feeder) : Sequencer.Ages s.globals (decide (o.expiry.get f ≠ .apart))
    ((s.seq.get f).ticked (o.started.get f)) ((s.instant x o).seq.get f) := by
  have placed (p : Place) (ne : p ≠ .apart) (g : Feeder) (e : o.expiry.get g = p) :
      (Taken.aged fun g => decide (o.expiry.get g ≠ .apart)).expires g := decide_eq_true (e ▸ ne)
  have arrives := State.detected_stays_of s x (o := o) (k := .aged fun g => decide (o.expiry.get g ≠ .apart)) trivial
    (placed _ (by decide))
  have leaves := State.finish_stays (k := .aged fun g => decide (o.expiry.get g ≠ .apart)) (s.detected x o) x o trivial
    (placed _ (by decide)) (placed _ (by decide))
  have aged := (arrives.trans leaves).seq f
  rw [State.halved_seq_get settled, State.halved_globals settled] at aged
  exact aged

/-- What an instant makes of a sequencer whose expiry it takes. -/
theorem State.instant_ages_around (settled : s.settled) (placed : o.expiry.get f ≠ .apart) : ∃ v opened,
    Sequencer.Ages s.globals false ((s.seq.get f).ticked (o.started.get f)) v ∧
      Sequencer.Ages s.globals true v (v.expired s.globals opened) ∧
      Sequencer.Ages s.globals false (v.expired s.globals opened) ((s.instant x o).seq.get f) := by
  obtain ⟨v, lv, before, after⟩ := State.instant_around s x placed
  have taken := State.expire_runs (k := .aged fun _ => true) (f := f) v lv rfl
  have globals : v.globals = s.globals := before.globals.trans (State.halved_globals settled)
  have globals' : (v.expire lv f).globals = s.globals := taken.globals.trans globals
  have a := before.seq f
  have b := taken.seq f
  have c := after.seq f
  rw [State.halved_seq_get settled, State.halved_globals settled] at a
  rw [State.expire_seq_self, globals] at b
  rw [State.expire_seq_self, globals, globals'] at c
  simp only [allBut, Taken.allows, ne_eq, not_true_eq_false, decide_false] at a b c
  exact ⟨_, _, a, b, c⟩

/-- R93: a timer running at a sample set. -/
theorem State.instant_counts {k : TimerKind} {n : Nat} {fresh : Bool} (settled : s.settled)
    (timer : (s.seq.get f).timer = some ⟨k, n, fresh⟩) (run : (s.seq.get f).running) :
    let q := s.seq.get f
    let m := if fresh = true ∧ o.started.get f = true then n else n - 1
    let r := (s.instant x o).seq.get f
    let stays := r.state = q.state ∧ r.phase = q.phase
    (stays → 1 ≤ m → r.timer = some ⟨k, m, false⟩) ∧
      (stays → m = 0 → o.expiry.get f = .apart → (s.instant x o).expiryDue f k = true) ∧
      (m = 0 → o.expiry.get f ≠ .apart → (∀ j, 1 ≤ s.globals.timeout j) → (s.instant x o).anyExpiryDue f = false ∧
        (q.guarded k → ¬ stays) ∧
        (k = .stop ∧ q.state = .faulted ∧ q.phase = some .stopping → r.timer = none ∧ r.followOn = some .stopTimeout)) := by
  intro q m r stays
  have ages := State.instant_ages (x := x) (o := o) settled f
  have count : (q.ticked (o.started.get f)).count = some (k, m) := Sequencer.ticked_count timer
  refine ⟨fun ⟨state, phase⟩ one => ?_, fun ⟨state, phase⟩ zero apart => ?_, fun zero placed timeouts => ?_⟩
  · have undue : ¬ (q.ticked (o.started.get f)).due := by
      rintro ⟨j, due⟩
      rw [count] at due
      have zero : m = 0 := congrArg Prod.snd (Option.some.inj due)
      omega
    obtain ⟨t, running, rfl, left⟩ :=
      Sequencer.timer_of_count ((ages.count_of_same run state phase fun _ => undue).trans count)
    have unmarked := State.instant_timer s x running
    rw [running, ← left, ← unmarked]
  · have same := (ages.count_of_same run state phase fun placed => absurd apart (of_decide_eq_true placed)).trans count
    obtain ⟨t, running, rfl, left⟩ := Sequencer.timer_of_count same
    simp only [State.expiryDue, running, left, zero, beq_self_eq_true, Bool.and_self]
  · rw [zero] at count
    obtain ⟨v, opened, before, taken, after⟩ := State.instant_ages_around (x := x) settled placed
    refine ⟨?_, fun on ⟨state, phase⟩ => ?_, fun ⟨stop, state, phase⟩ => ?_⟩
    · have undue := after.not_due timeouts (Sequencer.expired_not_due timeouts opened)
      rw [Sequencer.due_iff] at undue
      unfold State.anyExpiryDue
      split
      · next t running => exact beq_false_of_ne fun zero => undue ⟨t, running, zero⟩
      · rfl
    · have less := Sequencer.stage_lt_of_expired count run on before taken after
      exact absurd (Sequencer.stage_eq state phase) less.ne'
    · subst stop
      exact Sequencer.followOn_of_expired count state phase before after

end

/-- Settles O30. Where the orders place an expiry in the instant, the instant is cut there: no event before it or after it
takes that feeder's expiry, and none leads back to an earlier state or phase. -/
theorem timerExpiriesFollowThePhase : Obligations.TimerExpiriesFollowThePhase := by
  refine ⟨fun s x o f k n fresh sampling settled timer => ?_, fun s f lv due => ⟨fun injecting => ?_,
    fun releasing closing => ?_⟩, fun s f => ⟨fun due handing => ?_, fun due stopping lv => ⟨fun releasing => ?_,
      fun faulted => ?_⟩⟩⟩
  · intro q state
    refine ⟨_, exec_sampleSet_of_sampling sampling x o, State.instant_counts settled timer ?_⟩
    change 1 ≤ q.state.stage
    rcases state with e | e | e | e <;> rw [e] <;> decide
  · exact exec_bypassTimerExpiry_of_injecting due injecting lv
  · obtain ⟨but, link⟩ := State.asEvent_of_fault (lv := lv) (event := fun s => s.bypassExpiry lv f) releasing
      fun l => ⟨lv, State.bypassExpiry_of_closing (s := { s with link := l }) releasing closing lv⟩
    refine ⟨_, exec_bypassTimerExpiry_of_due due lv, ?_, (congrArg State.groups but :), (congrArg State.detector but :),
      (congrArg State.seq but :), link⟩
    exact (congrArg State.butCourse but :)
  · rw [exec_handoverExpiry_of_due due]
    simp only [State.handoverExpiry, handing, if_true]
    rfl
  · obtain ⟨but, link⟩ := State.asEvent_of_fault (lv := lv) (event := fun s => s.stopExpiry .nothing f) releasing
      fun l => ⟨.nothing, State.stopExpiry_of_releasing (s := { s with link := l }) releasing stopping _⟩
    refine ⟨_, exec_stopTimerExpiry_of_due due lv, ?_, link⟩
    rw [but, ← stopping]
  · obtain ⟨l, eq, -, same⟩ := s.asEvent_eq lv.choice fun s => s.stopExpiry .nothing f
    rw [State.stopExpiry_of_faulted (s := { s with link := l }) faulted stopping] at eq
    refine ⟨_, exec_stopTimerExpiry_of_due due lv, ?_, fun now closed => ?_⟩
    · rw [eq]
      cases lv.choice <;> rfl
    · rw [now] at eq same ⊢
      rw [eq]
      cases same rfl
      exact State.settleChoice_of_posted (rs := [_]) rfl closed

end Sys2Proof.Machine
end

section
/-! SUPPORT. The signal lines through a sample instant: an input line is read once and accepted where the orders say; an
output line is driven at its code's stage (R153, R154, R160). -/

namespace Sys2Proof.Machine

open Sys2Proof
open State (SeqOnly Allots)

/-! ## One line -/

/-- R153: a line whose acceptance, if one is due, is taken. -/
def LineState.accept (y : LineState) : LineState := if y.acceptanceDue then { y with debounced := y.sampled } else y

namespace LineState

variable {y : LineState}

theorem accept_binding (y : LineState) : y.accept.binding = y.binding := by
  unfold accept
  split <;> rfl

theorem acceptanceDue_of_output (h : y.binding.isOutput = true) : y.acceptanceDue = false := by simp [acceptanceDue, h]

theorem accept_of_output (h : y.binding.isOutput = true) : y.accept = y := by
  simp [accept, acceptanceDue_of_output h]

/-- An acceptance taken leaves none due. -/
theorem accept_accept (y : LineState) : y.accept.accept = y.accept := by
  have taken : LineState.acceptanceDue { y with debounced := y.sampled } = false := by simp [acceptanceDue]
  by_cases due : y.acceptanceDue = true
  · have accepted : y.accept = { y with debounced := y.sampled } := if_pos due
    rw [accepted]
    exact if_neg (by rw [taken]; exact nofun)
  · have stands : y.accept = y := if_neg due
    rw [stands, stands]

end LineState

/-! ## The lines between two states -/

/-- From `s` to `t` the lines whose stage is listed are driven, and those whose place is listed have their acceptances
taken. -/
structure State.Lined (o : Orders) (stages : List Stage) (places : List Place) (s t : State) : Prop where
  binding : ∀ l, (t.lines.get l).binding = (s.lines.get l).binding
  input : ∀ l, (s.lines.get l).binding.isOutput = false →
    t.lines.get l = if o.line.get l ∈ places then (s.lines.get l).accept else s.lines.get l
  output : ∃ v : EventCode → Bool, ∀ l, (s.lines.get l).binding.isOutput = true → t.lines.get l =
    if stageOf o.output (s.lines.get l).binding ∈ stages.map some
    then { s.lines.get l with driven := some (v (s.lines.get l).binding) } else s.lines.get l

open State (Lined)

namespace State.Lined

variable {o : Orders} {ps qs : List Stage} {as bs : List Place} {s t u : State}

theorem of_lines (h : t.lines = s.lines) : Lined o [] [] s t :=
  ⟨fun l => by rw [h], fun l _ => by rw [h]; simp, ⟨fun _ => false, fun l _ => by rw [h]; simp⟩⟩

theorem trans (a : Lined o ps as s t) (b : Lined o qs bs t u) : Lined o (ps ++ qs) (as ++ bs) s u where
  binding l := (b.binding l).trans (a.binding l)
  input l inward := by
    rw [b.input l ((a.binding l).symm ▸ inward), a.input l inward]
    by_cases first : o.line.get l ∈ as <;> by_cases second : o.line.get l ∈ bs <;>
      simp [first, second, LineState.accept_accept]
  output := by
    obtain ⟨v, before⟩ := a.output
    obtain ⟨w, after⟩ := b.output
    refine ⟨fun c => if stageOf o.output c ∈ qs.map some then w c else v c, fun l outward => ?_⟩
    rw [after l ((a.binding l).symm ▸ outward), a.binding l, before l outward]
    by_cases first : stageOf o.output (s.lines.get l).binding ∈ ps.map some <;>
      by_cases second : stageOf o.output (s.lines.get l).binding ∈ qs.map some <;> simp only [first, second, if_true,
        if_false, List.map_append, List.mem_append, or_true, or_false]

end State.Lined

/-! ## The stages -/

section

variable (s : State) (x : SampleInput) (o : Orders)

theorem State.evaluateAt_line (p : Stage) (l : Line) : (s.evaluateAt o p).lines.get l =
    if (s.lines.get l).binding.isOutput = true ∧ stageOf o.output (s.lines.get l).binding = some p
    then { s.lines.get l with driven := some (s.condition (s.lines.get l).binding) } else s.lines.get l := by
  simp only [State.evaluateAt, State.evaluateOutputs, Twelve.get_of, Bool.and_eq_true, beq_iff_eq]

theorem State.evaluateAt_lined (p : Stage) : Lined o [p] [] s (s.evaluateAt o p) where
  binding l := by
    rw [s.evaluateAt_line]
    split <;> rfl
  input l inward := by
    rw [s.evaluateAt_line, if_neg (by rw [inward]; exact fun h => nomatch h.1), if_neg List.not_mem_nil]
  output := ⟨s.condition, fun l outward => by
    rw [s.evaluateAt_line]
    simp [outward]⟩

theorem State.externalTrigger_lines : s.externalTrigger.lines = s.lines := by
  unfold State.externalTrigger State.onset
  have asked : State.lines (if true = true ∧ s.tracker.state = .locked then
      s.trackerTo s.tracker.requestHolding .eventOnset else s) = s.lines := by
    split <;> rfl
  split
  · dsimp only
    split
    · exact (congrArg State.lines (State.allocate_allots _ _ (between := id) Allots.refl) :).trans asked
    · exact asked
  · rfl

theorem State.hold_lines (lv : Leave) (f : Feeder) (op : HoldOp) : (s.hold lv f op).lines = s.lines :=
  (congrArg State.lines (s.hold_seqOnly lv f op).rest :)

theorem State.switchBank_lines (b : Bank) : (s.switchBank b).lines = s.lines := by
  unfold State.switchBank
  split <;> rfl

/-- R153: an acceptance moves its own line alone. -/
theorem State.acceptLine_lines (weighed : Bool) (lv : Leave) (l : Line) :
    (s.acceptLine weighed lv l).lines = if (s.lines.get l).acceptanceDue then
      s.lines.set l { s.lines.get l with debounced := (s.lines.get l).sampled } else s.lines := by
  unfold State.acceptLine
  dsimp only
  split
  · split
    · split
      · exact State.hold_lines _ _ _ _
      · rfl
    · split
      · exact State.externalTrigger_lines _
      · rfl
    · split
      · exact State.switchBank_lines _ _
      · rfl
    · rfl
  · rfl

theorem State.acceptLine_line_self (weighed : Bool) (lv : Leave) (l : Line) :
    (s.acceptLine weighed lv l).lines.get l = (s.lines.get l).accept := by
  rw [State.acceptLine_lines, LineState.accept]
  split
  · exact Twelve.get_set_self _ _ _
  · rfl

theorem State.acceptLine_line_other (weighed : Bool) (lv : Leave) {l k : Line} (ne : k ≠ l) :
    (s.acceptLine weighed lv l).lines.get k = s.lines.get k := by
  rw [State.acceptLine_lines]
  split
  · exact Twelve.get_set_ne _ _ ne
  · rfl

theorem Line.mem_list (l : Line) : l ∈ Line.list := by cases l <;> decide

theorem Line.list_nodup : Line.list.Nodup := by decide

theorem State.takePlaced_line (p : Place) (l : Line) : (s.takePlaced o p).lines.get l =
    if o.line.get l = p then (s.lines.get l).accept else s.lines.get l := by
  unfold State.takePlaced
  have expiries (t : State) (lv : Leave) :
      State.lines (forFeeders (fun f s => if o.expiry.get f = p then s.expire lv f else s) t) = t.lines := by
    refine foldl_keeps (P := fun u => u.lines = t.lines) (fun f u h => ?_) _ t rfl
    dsimp only
    split
    · exact (congrArg State.lines (u.expire_seqOnly lv f).rest :).trans h
    · exact h
  dsimp only
  rw [expiries]
  refine (foldl_view (view := fun s => s.lines.get l) (f := l)
    (own := fun y => if o.line.get l = p then y.accept else y) (fun k t ne => ?_) (fun t => ?_) Line.list Line.list_nodup
    s).trans (if_pos (Line.mem_list l))
  · split
    · exact t.acceptLine_line_other _ _ ne.symm
    · rfl
  · split
    · exact t.acceptLine_line_self _ _ l
    · rfl

theorem State.takePlaced_lined (p : Place) : Lined o [] [p] s (s.takePlaced o p) where
  binding l := by
    rw [s.takePlaced_line]
    split
    · exact LineState.accept_binding _
    · rfl
  input l _ := by rw [s.takePlaced_line]; simp
  output := ⟨fun _ => false, fun l outward => by
    rw [s.takePlaced_line, LineState.accept_of_output outward]
    simp⟩

theorem State.recordsAt_lines (p : RecordPlace) : (s.recordsAt x o p).lines = s.lines := by
  obtain ⟨g, q, e⟩ := s.recordsAt_eq x o p
  rw [e]

theorem State.storeLate_lines : (s.storeLate x o).lines = s.lines := by
  unfold State.storeLate
  obtain ⟨l, e, -⟩ := s.updateStore_out (SampleSet.ofInput x).store
  rw [e]
  split <;> rfl

end

/-! ## The output codes' conditions (R160) -/

/-- A code's condition reads the feeders' and ports' states, the event, the store's states, the operating state, the
tracker's state and the groups. -/
theorem State.condition_of_same {s t : State} (seq : ∀ f, (t.seq.get f).state = (s.seq.get f).state)
    (port : ∀ f, (t.port.get f).state = (s.port.get f).state) (detector : t.detector.state = s.detector.state)
    (store : t.store = s.store) (loader : t.loader = s.loader) (tracker : t.tracker = s.tracker)
    (groups : t.groups = s.groups) (c : EventCode) : t.condition c = s.condition c := by
  cases c <;> simp only [State.condition, State.eventOpen, State.faultSummary, seq, port, detector, store, loader, tracker,
    groups]

/-! ## The detector's step -/

section

variable (s : State) (x : SampleInput) (o : Orders)

theorem State.updateEntry_lines (f : Feeder) (c : Entry → Entry) : (s.updateEntry f c).lines = s.lines :=
  (congrArg State.lines (s.updateEntry_seqOnly f c).rest :)

theorem State.closeBudgets_lines : s.closeBudgets.lines = s.lines := by
  unfold State.closeBudgets
  refine foldl_keeps (P := fun u => u.lines = s.lines) (fun f u h => ?_) _ s rfl
  dsimp only
  split
  · split
    · exact (u.updateEntry_lines f _).trans h
    · exact h
  · exact h

theorem State.stepping_lines (boundary : Bool) : (s.stepping boundary).lines = s.lines := by
  have minima (s : State) : s.updateMinima.lines = s.lines := by unfold State.updateMinima; split <;> rfl
  have level (s : State) : s.levelTest.lines = s.lines := by
    unfold State.levelTest
    split
    · split <;> rfl
    · split <;> rfl
    · rfl
    · rfl
  have facts (s : State) : s.addFacts.lines = s.lines := by unfold State.addFacts; split <;> rfl
  have counted (s : State) : s.countBoundary.lines = s.lines := by
    have judged : s.judge.lines = s.lines := by unfold State.judge; split <;> rfl
    exact judged
  unfold State.stepping
  split
  · split
    · rw [counted, State.closeBudgets_lines, facts, level, minima]
    · rw [level, minima]
  · rfl

theorem State.onset_lines (c : OnsetCause) (heard : Bool) {between : State → State} (hb : ∀ s, Allots s (between s)) :
    (s.onset c heard between).lines = s.lines := by
  have asked : State.lines (if heard = true ∧ s.tracker.state = .locked then
      s.trackerTo s.tracker.requestHolding .eventOnset else s) = s.lines := by
    split <;> rfl
  unfold State.onset
  dsimp only
  split
  · exact (congrArg State.lines (State.allocate_allots _ _ hb) :).trans asked
  · exact asked

theorem State.endEvent_lines (e : EndCause) : (s.endEvent e).lines = s.lines := by
  have notified : (s.notified e).lines = s.lines := (congrArg State.lines (s.notified_seqOnly e).rest :)
  have record : ((s.notified e).closeRecord e).lines = (s.notified e).lines := by
    unfold State.closeRecord
    split <;> rfl
  have holding (t : State) : t.endHolding.lines = t.lines := by
    unfold State.endHolding
    split <;> rfl
  have settled (t : State) : t.settleEnd.lines = t.lines := holding t
  rw [State.endEvent_eq, settled, record, notified]

theorem State.concluded_lines (boundary external heard : Bool) : (s.concluded o boundary external heard).lines = s.lines := by
  unfold State.concluded
  split
  · split
    · exact s.onset_lines _ _ fun s => s.refusalsBetween_allots o
    · rfl
  · split
    · split
      · exact s.endEvent_lines _
      · split
        · exact (congrArg State.lines (s.allocate_allots _ fun s => s.refusalsBetween_allots o) :)
        · rfl
    · rfl
  · split
    · split
      · exact s.endEvent_lines _
      · split
        · exact (congrArg State.lines (s.allocate_allots _ fun s => s.refusalsBetween_allots o) :)
        · rfl
    · rfl
  · unfold State.lockoutStep
    split
    · split <;> rfl
    · rfl

theorem State.detect_lines (boundary external heard : Bool) :
    (s.detect x o boundary external heard).lines = s.lines := by
  rw [State.detect_eq]
  have step := (State.concluded_lines ((s.stepping boundary).recordsAt x o .stepped) o boundary external heard).trans
    ((State.recordsAt_lines _ x o .stepped).trans (s.stepping_lines boundary))
  dsimp only
  split
  · exact step
  · exact step

theorem State.settleChoice_out (left : Bool) : ∃ m, s.settleChoice left = { s with link := m } := by
  cases left <;> exact ⟨_, rfl⟩

/-- The lines of an instant once they are read, to the last evaluation of the outputs. -/
theorem State.instant_lined : ∃ u, (s.instant x o).lines = (u.evaluateAt o .last).lines ∧
    (∀ c, (s.instant x o).condition c = u.condition c) ∧
    Lined o [.tracked, .placed, .detected, .stored] [.first, .middle, .last] (s.halved x o) u := by
  have arrives : Lined o [.tracked, .placed] [.first] (s.halved x o) (s.atDetector x o) := by
    rw [State.atDetector_eq, State.beforeDetector_eq]
    exact ((((State.evaluateAt_lined _ o .tracked).trans (.of_lines (State.recordsAt_lines _ x o _))).trans
      (State.takePlaced_lined _ o .first)).trans (.of_lines (State.recordsAt_lines _ x o _))).trans
        (State.evaluateAt_lined _ o .placed)
  have settles (t : State) : (t.settleGroups o.leaveLate).lines = t.lines :=
    (congrArg State.lines (t.settleGroups_seqOnly o.leaveLate).rest :)
  have detected : Lined o [.tracked, .placed] [.first] (s.halved x o) (s.detected x o) :=
    arrives.trans (.of_lines (State.detect_lines _ x o _ _ _))
  rw [State.instant_eq, State.finish_eq]
  generalize s.detected x o = d at *
  generalize late : State.storeLate ((d.middle o).recordsAt x o .last) x o = e
  have middle : Lined o [.tracked, .placed, .detected] [.first, .middle] (s.halved x o) e := by
    rw [← late]
    exact (((detected.trans (.of_lines (settles d))).trans (State.evaluateAt_lined _ o .detected)).trans
      (State.takePlaced_lined _ o .middle)).trans
        (.of_lines ((State.storeLate_lines _ x o).trans (State.recordsAt_lines _ x o .last)))
  have placed := (middle.trans (e.evaluateAt_lined o .stored)).trans (State.takePlaced_lined _ o .last)
  rw [State.ending]
  generalize (e.evaluateAt o .stored).takePlaced o .last = u at *
  obtain ⟨m, out⟩ := ((u.evaluateAt o .last).settleTimers fun _ => false).settleChoice_out o.choiceLeft
  refine ⟨u, ?_, fun c => ?_, placed⟩
  · rw [out]
    rfl
  · rw [out]
    exact State.condition_of_same (fun f => (State.settleTimers_seq (k := .any) _ _ f).1) (fun _ => rfl) rfl rfl rfl rfl rfl c

end

end Sys2Proof.Machine
end

section
/-! SUPPORT. LINE_ACCEPTED by the line's binding (R153, R156, R158, R159), and O36. -/

namespace Sys2Proof.Machine

open Sys2Proof
open State (Lined Noted)

/-! ## The lines read by a sample set -/

/-- R153: the run count of an input line once a level is read. -/
def LineState.runAfter (y : LineState) (level : Bool) : Nat := if y.sampled = some level then min (y.run.getD 0 + 1) 4 else 1

section

variable {y : LineState} {level : Bool}

theorem LineState.read_of_output (h : y.binding.isOutput = true) : y.read level = y := if_pos h

theorem LineState.read_of_input (h : y.binding.isOutput = false) :
    y.read level = ⟨y.binding, some level, some (y.runAfter level), y.debounced, y.driven⟩ := by
  obtain ⟨c, sampled, run, debounced, driven⟩ := y
  unfold LineState.read LineState.runAfter
  rw [if_neg (by rw [h]; exact nofun)]
  split
  · next same =>
    cases same
    rfl
  · rfl

theorem LineState.acceptanceDue_iff (sampled : y.sampled = some level) :
    y.acceptanceDue = true ↔ y.binding.isOutput = false ∧ y.run = some 4 ∧ y.debounced ≠ some level := by
  simp only [LineState.acceptanceDue, sampled, Bool.and_eq_true, Bool.not_eq_true', beq_iff_eq, Option.isSome_some,
    and_true, bne_iff_ne, ne_eq, eq_comm (a := some level), and_assoc]

end

section

variable {s : State} {x : SampleInput} {o : Orders}

/-- R153: the lines once a sample set has been read and the outputs of the first stage driven. -/
theorem State.halved_line (settled : s.settled) (l : Line) : (s.halved x o).lines.get l =
    if (s.lines.get l).binding.isOutput = true ∧ stageOf o.output (s.lines.get l).binding = some .start
    then { s.lines.get l with driven := some (s.condition (s.lines.get l).binding) }
    else (s.lines.get l).read (x.levels.get l) := by
  obtain ⟨m, closed⟩ := State.closeInstant_of_settled settled o
  have taken : (s.sampleTaken x o).lines = (((s.closeInstant o).takeSample x o).evaluateAt o .start).lines := rfl
  have lines : (s.halved x o).lines = (s.sampleTaken x o).lines := by
    obtain ⟨_, _, _, _, _, _, out, -⟩ := State.halved_out (o := o) settled x
    generalize (s.sampleTaken x o).lines = ls at out ⊢
    rw [out]
  have binding : ((s.lines.get l).read (x.levels.get l)).binding = (s.lines.get l).binding := by
    unfold LineState.read
    split
    · rfl
    · split <;> rfl
  have condition (c : EventCode) : ((s.closeInstant o).takeSample x o).condition c = s.condition c := by
    have seq (f : Feeder) : (((s.closeInstant o).takeSample x o).seq.get f).state = (s.seq.get f).state := by
      rw [State.takeSample_out, closed]
      simp only [Six.get_of, Sequencer.ticked]
    have port (f : Feeder) : (((s.closeInstant o).takeSample x o).port.get f).state = (s.port.get f).state := by
      rw [State.takeSample_out, closed]
      simp only [Six.get_of, Port.sampled]
    refine State.condition_of_same seq port ?_ ?_ ?_ ?_ ?_ c
    all_goals rw [State.takeSample_out, closed]
  rw [lines, taken, State.evaluateAt_line, condition]
  have read : ((s.closeInstant o).takeSample x o).lines.get l = (s.lines.get l).read (x.levels.get l) := by
    rw [State.takeSample_out, closed]
    simp only [Twelve.get_of]
  rw [read, binding]
  split
  · next h => rw [LineState.read_of_output h.1]
  · rfl

theorem EventCode.stageOf_of_output {c : EventCode} (h : c.isOutput = true) (v : OutputStages) :
    ∃ p, stageOf v c = some p := by
  cases c
  case none | hold | extTrigger | bankSelect => cases h
  all_goals exact ⟨_, rfl⟩

/-- R153: an input line after a sample set. -/
theorem State.instant_input (settled : s.settled) {l : Line} (inward : (s.lines.get l).binding.isOutput = false) :
    (s.instant x o).lines.get l = if o.line.get l = .apart then (s.lines.get l).read (x.levels.get l)
      else ((s.lines.get l).read (x.levels.get l)).accept := by
  obtain ⟨u, lines, -, lined⟩ := s.instant_lined x o
  have start := State.halved_line (x := x) (o := o) settled l
  rw [if_neg (by rw [inward]; exact fun h => nomatch h.1)] at start
  have binding : ((s.halved x o).lines.get l).binding.isOutput = false := by
    rw [start, LineState.read_of_input inward]
    exact inward
  rw [lines, State.evaluateAt_line, if_neg (by rw [lined.binding, binding]; exact fun h => nomatch h.1),
    lined.input l binding, start]
  cases o.line.get l <;> rfl

/-- R154, R160: an output line after a sample set, driven at its code's stage. -/
theorem State.instant_output (settled : s.settled) : ∃ v : EventCode → Bool,
    (∀ l, (s.lines.get l).binding.isOutput = true →
      (s.instant x o).lines.get l = { s.lines.get l with driven := some (v (s.lines.get l).binding) }) ∧
    (∀ c, c.isOutput = true → stageOf o.output c = some .start → v c = s.condition c) ∧
    ∀ c, c.isOutput = true → stageOf o.output c = some .last → v c = (s.instant x o).condition c := by
  obtain ⟨u, lines, condition, lined⟩ := s.instant_lined x o
  obtain ⟨w, driven⟩ := lined.output
  refine ⟨fun c => match stageOf o.output c with
    | some .start => s.condition c
    | some .last => u.condition c
    | _ => w c, fun l outward => ?_, fun c _ start => by simp only [start],
    fun c _ last => by simp only [last, condition]⟩
  have start := State.halved_line (x := x) (o := o) settled l
  rw [LineState.read_of_output outward] at start
  have binding : ((s.halved x o).lines.get l).binding = (s.lines.get l).binding := by
    rw [start]
    split <;> rfl
  have later := driven l (by rw [binding]; exact outward)
  rw [binding] at later
  rw [lines, State.evaluateAt_line, lined.binding, binding, later, start]
  obtain ⟨p, stage⟩ := EventCode.stageOf_of_output outward o.output
  simp only [outward, stage, true_and]
  cases p <;> rfl

end

/-! ## An acceptance by its binding -/

section

variable {s : State} {l : Line} {level : Bool} {lv : Leave}

/-- R153: the part with a line's level accepted. -/
def State.accepted (s : State) (l : Line) : State :=
  s.setLine l { s.lines.get l with debounced := (s.lines.get l).sampled }

section

variable (due : (s.lines.get l).acceptanceDue = true)
include due

theorem State.acceptLine_of_none (bound : (s.lines.get l).binding = .none) : s.acceptLine false lv l = s.accepted l := by
  simp only [State.acceptLine, State.accepted, due, if_true, bound]

theorem State.acceptLine_of_holdOp {f : Feeder} (bound : (s.lines.get l).binding = .hold f) :
    s.acceptLine false lv l = (lineHoldOp (s.lines.get l).debounced ((s.lines.get l).sampled.getD false)).elim (s.accepted l)
      fun op => (s.accepted l).hold lv f op := by
  unfold State.acceptLine State.accepted
  simp only [due, if_true, bound]
  cases lineHoldOp (s.lines.get l).debounced ((s.lines.get l).sampled.getD false) <;> rfl

theorem State.acceptLine_of_trigger (bound : (s.lines.get l).binding = .extTrigger) : s.acceptLine false lv l =
    if (s.lines.get l).debounced = some true then (s.accepted l).externalTrigger else s.accepted l := by
  unfold State.acceptLine State.accepted LineState.triggers
  simp only [due, if_true, bound, Bool.and_eq_true, beq_iff_eq, Bool.not_false, and_true, true_and]

theorem State.acceptLine_of_bank (bound : (s.lines.get l).binding = .bankSelect) : s.acceptLine false lv l =
    if (s.lines.get l).debounced.isSome then
      (s.accepted l).switchBank (if (s.lines.get l).sampled.getD false then .b1 else .b0)
    else s.accepted l := by
  unfold State.acceptLine State.accepted
  simp only [due, if_true, bound]
  cases (s.lines.get l).debounced <;> rfl

end

/-- An event of its own that leaves of the state all but its lines, its link and, as said, its classes. -/
theorem State.asEvent_only {left : Bool} {event : State → State} {ks : ClassTable}
    (h : ∀ k, ∃ ls, event { s with link := k } = { s with lines := ls, classes := ks, link := k }) :
    s.asEvent left event = { s with
      lines := (s.asEvent left event).lines, classes := ks, link := (s.asEvent left event).link } := by
  obtain ⟨k, eq, -, -⟩ := s.asEvent_eq left event
  obtain ⟨ls, same⟩ := h k
  obtain ⟨m, settled⟩ := State.settleChoice_out { s with lines := ls, classes := ks, link := k } left
  rw [eq, same, settled]

theorem State.externalTrigger_of_barred (h : s.detector.state ≠ .clear ∨ s.detector.clearedNow = true) :
    s.externalTrigger = s := by
  unfold State.externalTrigger
  refine if_neg fun ⟨clear, now⟩ => ?_
  rcases h with h | h
  · exact h clear
  · simp [h] at now

/-- R153: what an acceptance taken as an event of its own leaves, but for what its binding makes of it. -/
theorem State.asEvent_acceptLine (due : (s.lines.get l).acceptanceDue = true) (sampled : (s.lines.get l).sampled = some level) :
    (s.asEvent lv.choice fun s => s.acceptLine false lv l).lines =
      s.lines.set l { s.lines.get l with debounced := some level } := by
  obtain ⟨k, eq, -, -⟩ := s.asEvent_eq lv.choice fun s => s.acceptLine false lv l
  have due' : ((State.lines { s with link := k }).get l).acceptanceDue = true := due
  rw [eq, State.settleChoice_lines, State.acceptLine_lines, if_pos due', ← sampled]

/-- An acceptance that does nothing more. -/
theorem State.asEvent_of_accepted (h : ∀ k, State.acceptLine { s with link := k } false lv l = State.accepted { s with link := k } l) :
    (s.asEvent lv.choice fun s => s.acceptLine false lv l) = { s with
      lines := (s.asEvent lv.choice fun s => s.acceptLine false lv l).lines
      classes := s.classes
      link := (s.asEvent lv.choice fun s => s.acceptLine false lv l).link } :=
  State.asEvent_only fun k => ⟨_, h k⟩

/-- R156: an accepted HOLD level, by the hold operation it is. -/
theorem State.asEvent_hold {f : Feeder} {op : HoldOp} (due : (s.lines.get l).acceptanceDue = true)
    (bound : (s.lines.get l).binding = .hold f)
    (is : lineHoldOp (s.lines.get l).debounced ((s.lines.get l).sampled.getD false) = some op) :
    (s.asEvent lv.choice fun s => s.acceptLine false lv l).holds = s.holds.set f (op.apply (s.holds.get f)) := by
  obtain ⟨k, eq, -, -⟩ := s.asEvent_eq lv.choice fun s => s.acceptLine false lv l
  rw [State.acceptLine_of_holdOp (s := { s with link := k }) due bound, is] at eq
  rw [eq, State.settleChoice_holds]
  exact (congrArg State.holds (State.hold_seqOnly _ lv f op).rest :)

/-- R22, R158: an accepted falling edge on an EXT_TRIGGER line opens an event from CLEAR. -/
theorem State.asEvent_trigger (due : (s.lines.get l).acceptanceDue = true) (bound : (s.lines.get l).binding = .extTrigger)
    (fell : (s.lines.get l).debounced = some true) (clear : s.detector.state = .clear) (later : s.detector.clearedNow = false) :
    let t := s.asEvent lv.choice fun s => s.acceptLine false lv l
    t.detector.state = .active ∧ t.detector.record.map (·.cause) = some .external := by
  obtain ⟨k, eq, -, -⟩ := s.asEvent_eq lv.choice fun s => s.acceptLine false lv l
  rw [State.acceptLine_of_trigger (s := { s with link := k }) due bound, if_pos fell] at eq
  have onset : (State.accepted { s with link := k } l).externalTrigger =
      (State.accepted { s with link := k } l).onset .external true id :=
    if_pos ⟨clear, by rw [Bool.not_eq_true]; exact later⟩
  have noted := State.onset_noted (State.accepted { s with link := k } l) .external true (between := id) Noted.refl
  rw [onset] at eq
  obtain ⟨c, -, record⟩ := noted.record
  have state := noted.same.1
  generalize State.onset (State.accepted { s with link := k } l) .external true id = u at *
  obtain ⟨m, out⟩ := u.settleChoice_out lv.choice
  intro t
  have detector : t.detector = u.detector := by
    change (s.asEvent lv.choice fun s => s.acceptLine false lv l).detector = _
    rw [eq, out]
  rw [detector]
  exact ⟨state, by rw [record]; rfl⟩

end

theorem exec_lineAccepted_of_not_due {s : State} {l : Line} (due : (s.lines.get l).acceptanceDue = false) (lv : Leave) :
    exec (.lineAccepted ⟨l, lv⟩) s = .next s := by
  change execLineAccepted ⟨l, lv⟩ s = _
  simp [execLineAccepted, due]

/-- R156: a count taken from a low level, within its bound. -/
theorem HoldOp.take_apply (c : Nat) : HoldOp.take.apply c = min (c + 1) 255 := by
  change (if c < 255 then c + 1 else 255) = _
  split <;> omega

/-- R160: the conditions of the output codes. -/
theorem State.conditions (s : State) :
    (∀ f, s.condition (.feederInjecting f) = true ↔ (s.seq.get f).state = .injecting) ∧
    (s.condition .eventActive = true ↔ s.detector.state = .active ∨ s.detector.state = .dwell) ∧
    s.condition .storeWarning = s.store.warning ∧ s.condition .chargerEnable = s.store.charger ∧
    (s.condition .ready = true ↔ s.loader.op = .running) ∧
    (s.condition .faultSummary = true ↔ s.store.overVoltage = true ∨
      ∃ f, (s.seq.get f).state = .faulted ∨ (s.port.get f).state = .lost) ∧
    (s.condition .trackerLocked = true ↔ s.tracker.state = .locked ∨ s.tracker.state = .holding) ∧
    ∀ g, s.condition (.groupActive g) = true ↔ (s.groups.get g).state = .active := by
  refine ⟨fun f => beq_iff_eq, DetectorState.eventOpen_iff _, rfl, rfl, beq_iff_eq, ?_, ?_, fun g => beq_iff_eq⟩
  · have any (p : Feeder → Bool) : (Feeder.list.any p = true) ↔ ∃ f, p f = true := by
      rw [List.any_eq_true]
      exact ⟨fun ⟨f, _, h⟩ => ⟨f, h⟩, fun ⟨f, h⟩ => ⟨f, f.mem_list, h⟩⟩
    simp only [State.condition, State.faultSummary, Bool.or_eq_true, any, beq_iff_eq, exists_or]
    exact or_comm
  · change (s.tracker.state != .seeking) = true ↔ _
    cases s.tracker.state <;> decide

/-- Settles O36. A line is read once, its acceptance taken at most once, an output driven at its code's stage alone; and an
acceptance as a command of its own, by the line's binding. -/
theorem acceptedLevelActsByItsBinding : Obligations.AcceptedLevelActsByItsBinding := by
  refine ⟨fun s x o l takes => ?_, State.conditions, fun s l level lv sampled => ?_⟩
  · intro y level run
    obtain ⟨v, driven, start, last⟩ := State.instant_output (x := x) (o := o) takes.2.1
    refine ⟨_, exec_sampleSet_of_sampling takes.1 x o, fun inward => ?_, fun outward => ?_⟩
    · have line := State.instant_input (x := x) (o := o) takes.2.1 inward
      have read : y.read level = ⟨y.binding, some level, some run, y.debounced, y.driven⟩ :=
        LineState.read_of_input inward
      have due : (y.read level).acceptanceDue = true ↔ run = 4 ∧ y.debounced ≠ some level := by
        rw [LineState.acceptanceDue_iff (level := level) (by rw [read]), read]
        simp [inward]
      change _ = if _ then y.read level else (y.read level).accept at line
      refine ⟨fun ⟨four, differs⟩ placed => ?_, fun stands => ?_⟩
      · rw [line, if_neg placed, LineState.accept, if_pos (due.mpr ⟨four, differs⟩), read]
      · rw [line, LineState.accept, ← read]
        rcases stands with none | apart
        · rw [if_neg (mt due.mp none), ite_self]
        · rw [if_pos apart]
    · exact ⟨fun stage => by rw [driven l outward, start _ outward stage],
        fun stage => by rw [driven l outward, last _ outward stage], ⟨_, driven l outward⟩,
        fun k same => by rw [driven l outward, driven k (same ▸ outward), same]⟩
  · intro x
    refine ⟨LineState.acceptanceDue_iff sampled, fun idle => exec_lineAccepted_of_not_due idle lv, fun due => ?_⟩
    have opOf : lineHoldOp x.debounced (x.sampled.getD false) = lineHoldOp x.debounced level := by rw [sampled]; rfl
    refine ⟨_, exec_lineAccepted_of_due due lv, State.asEvent_acceptLine due sampled, ?_⟩
    intro only bank
    refine ⟨fun bound => ?_, fun f bound low => ?_, fun f bound high fell => ?_, fun f bound high first => ?_,
      fun bound first => ?_, fun bound later closed => ?_, fun bound later opened => ?_,
      fun bound fell clear now => State.asEvent_trigger due bound fell clear now, fun bound rose => ?_,
      fun bound barred => ?_⟩
    · exact State.asEvent_of_accepted fun k => State.acceptLine_of_none (s := { s with link := k }) due bound
    · rw [← HoldOp.take_apply]
      refine State.asEvent_hold (op := .take) due bound (opOf.trans ?_)
      rw [low]
      cases x.debounced <;> rfl
    · refine State.asEvent_hold (op := .drop) due bound (opOf.trans ?_)
      rw [high, fell]
      rfl
    · refine State.asEvent_of_accepted fun k => (State.acceptLine_of_holdOp (s := { s with link := k }) due bound).trans ?_
      have none : lineHoldOp x.debounced (x.sampled.getD false) = none := by rw [opOf, high, first]; rfl
      change (lineHoldOp x.debounced (x.sampled.getD false)).elim _ _ = _
      rw [none, Option.elim_none]
    · refine State.asEvent_of_accepted fun k => (State.acceptLine_of_bank (s := { s with link := k }) due bound).trans ?_
      exact if_neg (by change ¬ x.debounced.isSome = true; rw [first]; exact nofun)
    · refine State.asEvent_only fun k => ⟨(s.accepted l).lines, (State.acceptLine_of_bank (s := { s with link := k }) due bound).trans ?_⟩
      refine (if_pos (Option.isSome_iff_ne_none.mpr later)).trans ?_
      change State.switchBank _ (if x.sampled.getD false then .b1 else .b0) = _
      rw [sampled, State.switchBank, if_neg (by change ¬ s.eventOpen = true; rw [closed]; exact nofun)]
      rfl
    · refine State.asEvent_only fun k => ⟨(s.accepted l).lines, (State.acceptLine_of_bank (s := { s with link := k }) due bound).trans ?_⟩
      refine (if_pos (Option.isSome_iff_ne_none.mpr later)).trans ?_
      change State.switchBank _ (if x.sampled.getD false then .b1 else .b0) = _
      rw [sampled, State.switchBank, if_pos (by exact opened)]
      rfl
    · exact State.asEvent_of_accepted fun k =>
        (State.acceptLine_of_trigger (s := { s with link := k }) due bound).trans (if_neg rose)
    · refine State.asEvent_of_accepted fun k => (State.acceptLine_of_trigger (s := { s with link := k }) due bound).trans ?_
      rw [State.externalTrigger_of_barred (s := State.accepted { s with link := k } l) barred, ite_self]

end Sys2Proof.Machine
end

section
/-! SUPPORT. A sample instant whose acceptances and expiries are left to commands of their own (`quiet`): around the
detector's step it moves ports, generators, lines, the store's states and the reports alone. And what the instant measures,
as the detector meets it. -/

namespace Sys2Proof.Machine

open Sys2Proof
open State (Late Stays Noted Course Grows)

/-! ## A quiet instant -/

/-- No refusal and no GROUP_ABANDON request is on its way. -/
def State.calm (s : State) : Prop := s.refusals = [] ∧ s.groupRequests = FeederSet.empty

/-- A sequencer whose timer has lost its mark. -/
def Sequencer.unmarked (q : Sequencer) : Sequencer := { q with timer := q.timer.map fun t => { t with fresh := false } }

section

variable {s : State} {o : Orders}

theorem State.settled.calm (h : s.settled) : s.calm := ⟨h.2.1, h.1⟩

theorem State.takePlaced_of_quiet (s : State) (h : quiet o) {p : Place} (placed : p ≠ .apart) : s.takePlaced o p = s := by
  obtain ⟨lines, expiries⟩ := h
  unfold State.takePlaced
  have no (q : Place) (apart : q = .apart) : q ≠ p := fun e => placed (e ▸ apart)
  simp only [if_neg (no _ (lines _)), if_neg (no _ (expiries _))]
  rfl

theorem State.takeRefusals_of_calm (h : s.calm) : s.takeRefusals = s := by
  obtain ⟨refusals, -⟩ := h
  unfold State.takeRefusals
  rw [refusals, List.foldl_nil, ← refusals]

theorem State.takeGroupRequests_of_calm (h : s.calm) : s.takeGroupRequests = s := by
  obtain ⟨-, requests⟩ := h
  have none : ∀ f, FeederSet.empty.get f = false := fun f => by cases f <;> rfl
  unfold State.takeGroupRequests
  simp only [requests, none, Bool.false_eq_true, if_false]
  rw [← requests]
  rfl

theorem State.settleGroups_of_calm (h : s.calm) (lv : Leave) : s.settleGroups lv = s := by
  unfold State.settleGroups
  rw [State.takeRefusals_of_calm h, State.takeGroupRequests_of_calm h]
  simp

/-- Before the detector's step a quiet instant drives outputs and sends records. -/
theorem State.beforeDetector_of_quiet (s : State) (x : SampleInput) (h : quiet o) :
    ∃ ls g p, s.beforeDetector x o = { s with lines := ls, gen := g, port := p } := by
  rw [State.beforeDetector_eq, State.takePlaced_of_quiet _ h (by decide)]
  obtain ⟨g, p, first⟩ := (s.evaluateAt o .tracked).recordsAt_eq x o .first
  rw [first]
  obtain ⟨g', p', second⟩ := State.recordsAt_eq { s.evaluateAt o .tracked with gen := g, port := p } x o .placed
  rw [second]
  exact ⟨_, _, _, rfl⟩

/-- After the detector's step a quiet instant drives outputs, sends records and forms the store's states. -/
theorem State.finish_of_quiet (x : SampleInput) (h : quiet o) (calm : s.calm) : ∃ ls g p st l, s.finish x o = { s with
    lines := ls, gen := g, port := p, store := st, link := l, seq := Six.of fun f => (s.seq.get f).unmarked } := by
  have outputs (t : State) (q : Stage) : ∃ ls, t.evaluateAt o q = { t with lines := ls } := ⟨_, rfl⟩
  rw [State.finish_eq, State.middle, State.ending, State.settleGroups_of_calm calm, State.takePlaced_of_quiet _ h (by decide),
    State.takePlaced_of_quiet _ h (by decide)]
  obtain ⟨ls, driven⟩ := outputs s .detected
  rw [driven]
  obtain ⟨g, p, records⟩ := State.recordsAt_eq { s with lines := ls } x o .last
  rw [records]
  obtain ⟨st, l, formed⟩ : ∃ st l, State.storeLate { s with lines := ls, gen := g, port := p } x o =
      { s with lines := ls, gen := g, port := p, store := st, link := l } := by
    unfold State.storeLate
    split
    · exact ⟨_, _, rfl⟩
    · obtain ⟨l, out, -⟩ := State.updateStore_out { s with lines := ls, gen := g, port := p } (SampleSet.ofInput x).store
      exact ⟨_, l, out⟩
  rw [formed]
  obtain ⟨ls', driven'⟩ := outputs { s with lines := ls, gen := g, port := p, store := st, link := l } .stored
  rw [driven']
  obtain ⟨ls'', driven''⟩ := outputs { s with lines := ls', gen := g, port := p, store := st, link := l } .last
  rw [driven'']
  obtain ⟨m, chosen⟩ := State.settleChoice_out (State.settleTimers
    { s with lines := ls'', gen := g, port := p, store := st, link := l } fun _ => false) o.choiceLeft
  rw [chosen]
  exact ⟨ls'', g, p, st, m, rfl⟩

end

/-! ## What the detector meets -/

section

variable (s : State) (x : SampleInput) (o : Orders)

theorem State.stepping_late (boundary : Bool) : Late s (s.stepping boundary) := by
  have tested : Late s s.updateMinima.levelTest := s.updateMinima_late.trans (State.levelTest_late _)
  have counted (t : State) : Late t t.addFacts.closeBudgets.countBoundary :=
    (t.addFacts_late.trans (State.closeBudgets_late _)).trans (State.countBoundary_late _)
  unfold State.stepping
  exact ((tested.trans (counted _)).ite tested).ite (.refl s)

theorem State.atRecords_late : Late (s.halved x o) (s.atRecords x o) := by
  have arrives : Late (s.halved x o) (s.atDetector x o) := by
    rw [State.atDetector_eq]
    exact State.beforeDetector_late _ x o
  exact (arrives.trans (State.stepping_late _ _)).trans (State.recordsAt_late _ x o .stepped)

theorem State.atRecords_measured : (s.atRecords x o).measured = (s.instant x o).measured :=
  (s.atRecords_late x o).measured.trans (s.instant_halved x o).symm

theorem State.atRecords_reading : (s.atRecords x o).reading = (s.magsAfter x o).map readingOf := by
  have same : (s.atRecords x o).magnitude = (s.instant x o).magnitude :=
    (congrArg (fun m => m.2.2.1) (s.atRecords_measured x o) :)
  rw [State.reading, same]
  exact s.instant_reading x o

theorem State.atRecords_vret : (s.atRecords x o).vret = s.vretAfter x o := by
  unfold State.vret State.vretAfter
  rw [State.atRecords_reading, Option.map_map]
  rfl

theorem State.atRecords_inForce : (s.atRecords x o).inForce = (s.halved x o).inForce :=
  (congrArg Prod.fst (s.atRecords_late x o).measured :)

theorem State.halved_globalsInForce : (s.halved x o).inForce.globals = s.globalsAt o := by
  rw [(s.halved_read x o).1, State.sampleTaken_globals]

/-- R19, R20: the comparator of an instant. -/
theorem State.atRecords_comparator : (s.atRecords x o).comparator = (s.tracked x o).comparator := by
  have halved : (s.halved x o).comparator = (s.tracked x o).comparator := by
    cases boundary : s.boundaryAt x o with
    | false => rw [State.halved_of_none s x o boundary]
    | true => rw [State.halved_of_boundary s x o boundary]; rfl
  exact ((congrArg (fun m => m.2.2.2.1) (s.atRecords_late x o).measured :)).trans halved

theorem State.instant_comparator : (s.instant x o).comparator = (s.tracked x o).comparator := by
  rw [← State.atRecords_comparator]
  exact (congrArg (fun m => m.2.2.2.1) (s.atRecords_measured x o).symm :)

end

section

variable {s : State} {o : Orders} (x : SampleInput)

theorem State.prepare_comparator (settled : s.settled) : (s.prepare x o).comparator = s.comparator := by
  obtain ⟨l, prepared, -⟩ := s.prepare_eq x o
  obtain ⟨m, g, st, l', taken, -⟩ := State.sampleTaken_out (o := o) settled x
  rw [prepared]
  generalize (s.sampleTaken x o).lines = ls at taken
  rw [taken]

theorem State.tracked_comparator (takes : s.takesSample o) : (s.tracked x o).comparator = s.comparatorAfter x o := by
  have before := State.prepare_comparator (o := o) x takes.2.1
  have seen := State.prepare_seen takes.2.1 x o
  simp only [State.seen, Prod.mk.injEq] at seen
  obtain ⟨tracker, -, -, globals⟩ := seen
  unfold State.tracked State.track
  simp only [State.holdsFirst, State.locksFirst, takes.2.2.1, takes.2.2.2, Bool.false_and, Bool.false_eq_true, if_false,
    State.trackerTo]
  have next : (s.prepare x o).comparator.next (s.prepare x o).inForce.globals
      ((s.prepare x o).tracker.handle (SampleSet.ofInput x).bus.a).state
      ((s.prepare x o).tracker.handle (SampleSet.ofInput x).bus.a).index (SampleSet.ofInput x).bus =
      s.comparatorAfter x o := by
    rw [before, tracker, globals]
    rfl
  split <;> exact next

end

end Sys2Proof.Machine
end

section
/-! SUPPORT. The onset of an instant (R19 to R23, R37, R39): the comparator, the record and its reports. With this O20. -/

namespace Sys2Proof.Machine

open Sys2Proof
open State (Late Stays Noted Course Grows Allots)

/-! ## The comparator (R19, R20) -/

section

variable (c : Comparator) (g : Globals) (st : TrackerState) (k : Nat) (bus : Tri Int)

theorem Comparator.next_run (p : Phase) : (c.next g st k bus).run.get p =
    if (st = .locked ∧ g.fastFraction ≠ 0) ∧ g.fastThreshold < deviation g k p (bus.get p)
    then min (c.run.get p + 1) 8 else 0 := by
  by_cases works : st = .locked ∧ g.fastFraction ≠ 0
  · have run : (c.next g st k bus).run = Tri.of (runNext g k bus c.run) := if_pos works
    rw [run, Tri.get_of, runNext]
    exact if_congr ⟨fun far => ⟨works, far⟩, And.right⟩ rfl rfl
  · have run : (c.next g st k bus).run = Tri.all 0 := if_neg works
    rw [run, if_neg fun h => works h.1]
    cases p <;> rfl

theorem Comparator.trips_iff : (c.next g st k bus).trips = true ↔ ∃ p, g.fastConfirm ≤ (c.next g st k bus).run.get p := by
  unfold Comparator.trips
  rw [List.any_eq_true]
  constructor
  · rintro ⟨p, -, h⟩
    refine ⟨p, ?_⟩
    simpa only [Comparator.next, Tri.get_of, decide_eq_true_eq] using h
  · rintro ⟨p, h⟩
    refine ⟨p, by cases p <;> decide, ?_⟩
    simpa only [Comparator.next, Tri.get_of, decide_eq_true_eq] using h

end

/-! ## The onset taken -/

/-- R23, R37: the detector with an event opened. -/
def State.opened (s : State) (c : OnsetCause) (m : Compensability) : State :=
  { s with detector := { s.detector with
      state := .active, t := 0, dwell := 0, record := some (s.newRecord c m)
      nextNumber := nextEventNumber s.detector.nextNumber } }

theorem below_iff (v : Option Nat) (level : Nat) : below v level = true ↔ ∃ n, v = some n ∧ n < level := by
  cases v <;> simp [below]

section

variable {s : State} {c : OnsetCause} {heard : Bool} {between : State → State}

theorem State.onsetCause_of_low {external : Bool} (low : below s.vret s.inForce.globals.onsetLevel = true) :
    s.onsetCause false external = some .rms := by
  simp [State.onsetCause, low]

/-- R10, R23: the onset's request for HOLDING, where it is heard. -/
def State.asked (s : State) (heard : Bool) : State :=
  if heard = true ∧ s.tracker.state = .locked then s.trackerTo s.tracker.requestHolding .eventOnset else s

theorem State.onset_eq : s.onset c heard between =
    let m := compensability s.loader.op (heard && s.tracker.state != .seeking)
    let t := (s.asked heard).openRecord c m
    if m = .compensable then t.allocate (.onset c) between else t := rfl

theorem State.asked_eq (s : State) (heard : Bool) : ∃ t l, s.asked heard = { s with tracker := t, link := l } ∧
    Link.Grows s.link l ∧ (heard = true → s.tracker.state = .locked → s.link.carries l (.tracker .holding .eventOnset)) := by
  unfold State.asked
  split
  · next h =>
    refine ⟨_, _, rfl, s.link.post_grows _, fun _ _ => ?_⟩
    have held : s.tracker.requestHolding.state = .holding := by simp [Tracker.requestHolding, h.2]
    exact held ▸ s.link.carries_post _
  · next h => exact ⟨_, _, rfl, .refl _, fun a b => absurd ⟨a, b⟩ h⟩

/-- R12, R46: the reports of an onset: the request's, then EVENT_ONSET, then those of the allocation point. -/
theorem State.onset_carries (hb : ∀ s, State.Runs .any s (between s)) :
    s.link.carries (s.onset c heard between).link
      (s.newRecord c (compensability s.loader.op (heard && s.tracker.state != .seeking))).onsetReport ∧
    (heard = true → s.tracker.state = .locked →
      s.link.carries (s.onset c heard between).link (.tracker .holding .eventOnset)) := by
  obtain ⟨t, l, same, grows, posted⟩ := s.asked_eq heard
  rw [State.onset_eq, same]
  dsimp only
  generalize compensability s.loader.op (heard && s.tracker.state != .seeking) = m
  have onset : l.carries (State.openRecord { s with tracker := t, link := l } c m).link (s.newRecord c m).onsetReport :=
    l.carries_post _
  have opens : Link.Grows l (State.openRecord { s with tracker := t, link := l } c m).link := l.post_grows _
  have points : Grows (State.openRecord { s with tracker := t, link := l } c m) (if m = .compensable then
      (State.openRecord { s with tracker := t, link := l } c m).allocate (.onset c) between
      else State.openRecord { s with tracker := t, link := l } c m) := by
    split
    · exact (State.allocate_runs (k := .any) trivial _ _ hb).grows
    · exact Grows.refl _
  generalize State.openRecord { s with tracker := t, link := l } c m = u at *
  exact ⟨grows.carries_after (points.carries_before onset opens),
    fun heard locked => (opens.trans points).carries_before (posted heard locked) grows⟩

end

/-! ## The instant that opens an event -/

section

variable {s : State} {x : SampleInput} {o : Orders}

/-- R37, R39: the feeders of the outcome list at an instant's onset. -/
theorem State.atRecords_offline (settled : s.settled) (f : Feeder) :
    ((s.atRecords x o).seq.get f).state = .offline ↔ (s.seq.get f).state = .offline := by
  have halved : ((s.halved x o).seq.get f).state = (s.seq.get f).state := by
    rw [State.halved_seq_get settled]
    rfl
  have arrives := (State.atDetector_stays s x o (.aged fun _ => true) fun _ _ => rfl).trans
    (((s.atDetector x o).stepping_runs (s.boundaryAt x o)).stays.trans (State.recordsAt_stays _ x o .stepped))
  rw [← halved]
  exact ⟨fun h => by_contra fun n => (arrives.seq f).present n h, (s.atRecords_late x o).within.frame.offline f⟩

/-- The detector's records of an instant with no event open find the detector in CLEAR as it was. -/
theorem State.atRecords_clear (settled : s.settled) (clear : s.detector.state = .clear) :
    (s.atRecords x o).detector.state = .clear ∧ (s.atRecords x o).detector.nextNumber = s.detector.nextNumber ∧
      (s.atRecords x o).detector.table = s.detector.table := by
  have noted := (s.atDetector_course x o .any fun _ _ => trivial).noted
  have detector : (s.atRecords x o).detector = (s.atDetector x o).detector := by
    have closed : (s.atDetector x o).eventOpen = false := by
      rw [noted.eventOpen, State.eventOpen, State.halved_detector settled, clear]
      rfl
    rw [State.atRecords_detector, State.stepping_of_closed closed]
  rw [detector]
  obtain ⟨state, -, -, number, table, -⟩ := noted.same
  rw [state, number, table, State.halved_detector settled]
  exact ⟨clear, rfl, rfl⟩

/-- R23: what an instant's onset leaves, to the instant's end. -/
theorem State.instant_opens {c : OnsetCause} (clear : (s.atRecords x o).detector.state = .clear)
    (cause : (s.atRecords x o).onsetCause (s.atRecords x o).comparator.trips ((s.tracked x o).externalWeighed o) = some c) :
    let w := s.atRecords x o
    let m := compensability w.loader.op (s.requestHeard x o && w.tracker.state != .seeking)
    Noted (w.opened c m) (s.instant x o) ∧ (s.instant x o).tracker = (w.asked (s.requestHeard x o)).tracker ∧
      w.link.carries (s.instant x o).link (w.newRecord c m).onsetReport ∧
      (s.requestHeard x o = true → w.tracker.state = .locked →
        w.link.carries (s.instant x o).link (.tracker .holding .eventOnset)) := by
  intro w m
  have detected : ∃ t, s.detected x o = t ∧ t.detector = (w.onset c (s.requestHeard x o) fun s => s.refusalsBetween o).detector ∧
      t.tracker = (w.onset c (s.requestHeard x o) fun s => s.refusalsBetween o).tracker ∧
      t.link = (w.onset c (s.requestHeard x o) fun s => s.refusalsBetween o).link := by
    refine ⟨_, rfl, ?_⟩
    rw [State.detected_eq, State.concluded_of_onset clear cause]
    dsimp only
    split <;> exact ⟨rfl, rfl, rfl⟩
  obtain ⟨t, eq, detector, tracker, link⟩ := detected
  have noted := w.onset_noted c (s.requestHeard x o) (between := fun s => s.refusalsBetween o)
    fun s => s.refusalsBetween_noted o
  obtain ⟨report, asked⟩ := State.onset_carries (s := w) (c := c) (heard := s.requestHeard x o)
    (between := fun s => s.refusalsBetween o) fun s => s.refusalsBetween_runs o
  have moved := w.onset_tracker c (s.requestHeard x o) (between := fun s => s.refusalsBetween o)
    fun s => s.refusalsBetween_allots o
  have asks : (w.asked (s.requestHeard x o)).tracker =
      if s.requestHeard x o = true ∧ w.tracker.state = .locked then w.tracker.requestHolding else w.tracker := by
    unfold State.asked
    split <;> rfl
  have opened : Noted (w.opened c m) t := by
    obtain ⟨e, kept, same⟩ := noted
    exact ⟨e, kept, detector.trans same⟩
  have shut : t.detector.shut := by
    intro clear
    rw [opened.same.1] at clear
    cases clear
  have opens : Link.Grows w.link (w.onset c (s.requestHeard x o) fun s => s.refusalsBetween o).link :=
    (State.onset_runs (k := .any) trivial w c (s.requestHeard x o) fun s => s.refusalsBetween_runs o).grows
  have later := State.finish_stays (k := .any) t x o trivial (fun _ _ => trivial) fun _ _ => trivial
  have course := (State.finish_passes (k := .any) t x o fun _ _ => trivial).course_of_shut shut
  rw [State.instant_eq, eq]
  refine ⟨opened.trans course.noted, ?_, ?_, fun heard locked => ?_⟩
  · rw [course.tracker.1, tracker, moved, asks]
  · exact later.grows.carries_before (link ▸ report) (link ▸ opens)
  · exact later.grows.carries_before (link ▸ asked heard locked) (link ▸ opens)

/-! ## The instant's onset in the terms of the state before it -/

theorem State.atRecords_loader (settled : s.settled) : (s.atRecords x o).loader = s.loader := by
  obtain ⟨-, -, loader, -⟩ := (s.atRecords_late x o).within.frame.fixed
  exact loader.trans (congrArg State.loader (State.halved_rest (o := o) settled x) :)

theorem State.halved_declares : (s.halved x o).tracker = (s.tracked x o).tracker.declare := by
  cases boundary : s.boundaryAt x o with
  | false =>
    rw [State.halved_of_none s x o boundary]
    unfold State.boundaryAt at boundary
    rw [Option.isSome_eq_false_iff, Option.isNone_iff_eq_none] at boundary
    rw [Tracker.declare, boundary]
  | true =>
    rw [State.halved_of_boundary s x o boundary]
    rfl

theorem State.outcomeList_feeders (settled : s.settled) {listed : Feeder → Bool}
    (h : ∀ f, listed f = true ↔ (s.seq.get f).state ≠ .offline) :
    (s.atRecords x o).outcomeList = (Feeder.list.filter listed).map Entry.start := by
  unfold State.outcomeList
  congr 1
  refine List.filter_congr fun f _ => ?_
  rw [Bool.eq_iff_iff, bne_iff_ne, h]
  exact not_congr (State.atRecords_offline settled f)

/-- A quiet instant meets its detector with the sequencers, groups and requests as the sample set left them. -/
theorem State.atRecords_of_quiet (settled : s.settled) (q : quiet o) (closed : s.eventOpen = false) :
    ∃ ls g p, s.atRecords x o = { s.halved x o with lines := ls, gen := g, port := p } := by
  obtain ⟨ls, g, p, before⟩ := (s.halved x o).beforeDetector_of_quiet x q
  have shut : (s.atDetector x o).eventOpen = false := by
    rw [(s.atDetector_course x o .any fun _ _ => trivial).eventOpen, State.eventOpen, State.halved_detector settled]
    exact closed
  rw [State.atRecords, State.stepping_of_closed shut, State.atDetector_eq, before]
  obtain ⟨g', p', records⟩ := State.recordsAt_eq { s.halved x o with lines := ls, gen := g, port := p } x o .stepped
  rw [records]
  exact ⟨ls, g', p', rfl⟩

theorem State.halved_calm (settled : s.settled) : (s.halved x o).calm := by
  have rest := State.halved_rest (o := o) settled x
  have refusals : (s.halved x o).refusals = s.refusals := (congrArg State.refusals rest :)
  have requests : (s.halved x o).groupRequests = s.groupRequests := (congrArg State.groupRequests rest :)
  exact ⟨refusals.trans settled.calm.1, requests.trans settled.calm.2⟩

/-- R40: where an instant's onset is no allocation point and nothing else is taken, its entries stand as they start. -/
theorem State.instant_opens_blank {c : OnsetCause} (settled : s.settled) (q : quiet o) (clear : s.detector.state = .clear)
    (cause : (s.atRecords x o).onsetCause (s.atRecords x o).comparator.trips ((s.tracked x o).externalWeighed o) = some c)
    (blank : compensability (s.atRecords x o).loader.op (s.requestHeard x o && (s.atRecords x o).tracker.state != .seeking) ≠
      .compensable) :
    (s.instant x o).detector = ((s.atRecords x o).opened c
      (compensability (s.atRecords x o).loader.op (s.requestHeard x o && (s.atRecords x o).tracker.state != .seeking))).detector := by
  have closed : s.eventOpen = false := by rw [State.eventOpen, clear]; rfl
  have clear' := (State.atRecords_clear (x := x) (o := o) settled clear).1
  obtain ⟨ls, g, p, met⟩ := State.atRecords_of_quiet (x := x) settled q closed
  have calm : (s.atRecords x o).calm := by
    rw [met]
    exact State.halved_calm (x := x) (o := o) settled
  have eq := State.detected_eq s x o
  rw [State.concluded_of_onset clear' cause, State.onset_eq] at eq
  dsimp only at eq
  rw [if_neg blank] at eq
  obtain ⟨t, l, asks, -⟩ := (s.atRecords x o).asked_eq (s.requestHeard x o)
  rw [asks] at eq
  rw [State.instant_eq]
  generalize s.atRecords x o = w at *
  generalize compensability w.loader.op (s.requestHeard x o && w.tracker.state != .seeking) = m at *
  have detected : (s.detected x o).calm ∧ (s.detected x o).detector = (w.opened c m).detector := by
    rw [eq]
    split <;> exact ⟨calm, rfl⟩
  obtain ⟨ls', g', p', st', l', finished⟩ := State.finish_of_quiet (s := s.detected x o) x q detected.1
  rw [finished]
  exact detected.2

end

/-- R22, R23, R37, R39: an instant at which a trip or a low V_ret opens an event. -/
theorem State.instant_onset {s : State} {x : SampleInput} {o : Orders} (takes : s.takesSample o) (clear : s.detector.state = .clear)
    {c : OnsetCause} (cause : (s.atRecords x o).onsetCause (s.comparatorAfter x o).trips ((s.tracked x o).externalWeighed o) = some c) :
    let entered : Bool := (s.trackerAfter x).state != .seeking
    let m := compensability s.loader.op entered
    Noted ((s.atRecords x o).opened c m) (s.instant x o) ∧
      (s.instant x o).tracker.state = (if (s.trackerAfter x).state = .locked then .holding else (s.trackerAfter x).state) ∧
      s.link.carries (s.instant x o).link ((s.atRecords x o).newRecord c m).onsetReport ∧
      ((s.trackerAfter x).state = .locked → s.link.carries (s.instant x o).link (.tracker .holding .eventOnset)) ∧
      (quiet o → m ≠ .compensable → (s.instant x o).detector = ((s.atRecords x o).opened c m).detector) := by
  intro entered m
  have heard : s.requestHeard x o = true := by simp [State.requestHeard, takes.2.2.1]
  have state : (s.atRecords x o).tracker.state = (s.trackerAfter x).state := by
    rw [State.atRecords_tracker, State.halved_tracker takes, (Tracker.declare_keeps _).1]
  have trips : (s.atRecords x o).comparator.trips = (s.comparatorAfter x o).trips := by
    rw [State.atRecords_comparator, State.tracked_comparator x takes]
  have clear' := (State.atRecords_clear (x := x) (o := o) takes.2.1 clear).1
  have grows : Grows s (s.atRecords x o) := by
    refine Link.Grows.trans (State.halved_grows (o := o) takes.2.1 x) ?_
    exact ((State.atDetector_stays s x o .any fun _ _ => trivial).trans
      (((s.atDetector x o).stepping_runs (s.boundaryAt x o)).stays.trans (State.recordsAt_stays _ x o .stepped))).grows
  rw [← trips] at cause
  have blank := State.instant_opens_blank (x := x) (c := c) takes.2.1 (clear := clear) (cause := cause)
  obtain ⟨noted, tracker, report, asked⟩ := State.instant_opens clear' cause
  rw [heard, state, State.atRecords_loader takes.2.1, Bool.true_and] at noted report blank
  rw [heard, state] at asked
  rw [heard] at tracker
  refine ⟨noted, ?_, grows.carries_after report, fun locked => grows.carries_after (asked rfl locked), blank⟩
  rw [tracker, State.asked, ← state]
  by_cases locked : (s.atRecords x o).tracker.state = .locked
  · rw [if_pos locked, if_pos ⟨rfl, locked⟩]
    simp [State.trackerTo, Tracker.requestHolding, locked]
  · rw [if_neg locked, if_neg fun h => locked h.2]

/-- R10: an onset by V_ret whose request for HOLDING is taken before the tracker's own handling of the sample set. -/
theorem State.instant_held_first {s : State} {x : SampleInput} {o : Orders} (settled : s.settled)
    (first : o.holdingFirst = true) (clear : s.detector.state = .clear)
    (low : below (s.vretAfter x o) (s.globalsAt o).onsetLevel = true) :
    (s.tracker.state = .locked → (s.tracked x o).tracker = { s.tracker.advance (SampleSet.ofInput x).bus.a with state := .holding } ∧
      s.requestHeard x o = true) ∧
    (s.tracker.state = .seeking → (s.tracked x o).tracker = s.trackerAfter x ∧ s.requestHeard x o = false) := by
  have seen := State.prepare_seen settled x o
  simp only [State.seen, Prod.mk.injEq] at seen
  obtain ⟨tracker, detector, vret, globals⟩ := seen
  have cause (trip external : Bool) : ((s.prepare x o).onsetCause trip external).isSome = true := by
    unfold State.onsetCause
    rw [vret, globals, low]
    cases trip <;> rfl
  constructor
  · intro locked
    have holds : (s.prepare x o).holdsFirst (SampleSet.ofInput x) o = true := by
      simp [State.holdsFirst, first, tracker, locked, detector, clear, cause]
    refine ⟨?_, by simp [State.requestHeard, tracker, locked]⟩
    unfold State.tracked State.track
    rw [← tracker]
    simp only [holds, if_true]
    rfl
  · intro seeking
    have holds : (s.prepare x o).holdsFirst (SampleSet.ofInput x) o = false := by
      simp [State.holdsFirst, tracker, seeking]
    have locks : (s.prepare x o).locksFirst (SampleSet.ofInput x) o = false := by
      simp [State.locksFirst, tracker, seeking]
    refine ⟨?_, by simp [State.requestHeard, first, tracker, seeking]⟩
    unfold State.tracked State.track State.trackerAfter
    rw [← tracker]
    simp only [holds, locks, Bool.false_eq_true, if_false]
    split <;> rfl

theorem compensability_of_idle {op : OpState} (h : op ≠ .running) (entered : Bool) :
    compensability op entered = .notRunning := by
  cases op
  case running => exact absurd rfl h
  all_goals rfl

theorem compensability_of_running (entered : Bool) :
    compensability .running entered = if entered then .compensable else .trackerNotLocked := rfl

/-- Settles O20. The instant's onset is taken at the state its records are sent from (`instant_opens`), and nothing later in
the instant moves the new record but its entries, nor the tracker. -/
theorem onsetOpensAnEvent : Obligations.OnsetOpensAnEvent := by
  refine ⟨fun s x o takes => ?_, fun s x o takes clear => ?_, fun s x o v sampling settled first clear vret low => ?_⟩
  · intro g q far
    refine ⟨_, exec_sampleSet_of_sampling takes.1 x o, ?_⟩
    rw [State.instant_comparator, State.tracked_comparator x takes, State.comparatorAfter]
    refine ⟨fun p => ⟨fun locked works past => ?_, fun idle => ?_⟩, Comparator.trips_iff _ _ _ _ _⟩
    · rw [Comparator.next_run]
      exact if_pos ⟨⟨locked, works⟩, past⟩
    · rw [Comparator.next_run]
      refine if_neg fun ⟨⟨locked, works⟩, past⟩ => ?_
      rcases idle with h | h | h
      · exact h locked
      · exact works h
      · exact h past
  · intro trips entered listed opens
    have lowIff : below (s.atRecords x o).vret (s.atRecords x o).inForce.globals.onsetLevel = true ↔
        ∃ v, s.vretAfter x o = some v ∧ v < (s.globalsAt o).onsetLevel := by
      rw [State.atRecords_vret, State.atRecords_inForce, State.halved_globalsInForce, below_iff]
    obtain ⟨c, cause, fast, rms⟩ : ∃ c, (s.atRecords x o).onsetCause (s.comparatorAfter x o).trips
        ((s.tracked x o).externalWeighed o) = some c ∧ (trips → c = .fast) ∧ (¬ trips → c = .rms) := by
      by_cases trip : trips
      · exact ⟨.fast, by rw [show (s.comparatorAfter x o).trips = true from trip]; rfl, fun _ => rfl, fun n => absurd trip n⟩
      · refine ⟨.rms, ?_, fun h => absurd h trip, fun _ => rfl⟩
        rw [show (s.comparatorAfter x o).trips = false from Bool.not_eq_true _ ▸ trip]
        exact State.onsetCause_of_low (lowIff.mpr (opens.resolve_left trip))
    obtain ⟨noted, tracker, report, asked, blank⟩ := State.instant_onset takes clear cause
    obtain ⟨number, table⟩ := (State.atRecords_clear (x := x) (o := o) takes.2.1 clear).2
    obtain ⟨state, time, -, next, table', -⟩ := noted.same
    obtain ⟨e, kept, record⟩ := noted.record
    have quanta : (s.atRecords x o).store.quanta = (s.instant x o).store.quanta :=
      (congrArg (fun m => m.2.2.2.2.1.2.2) (s.atRecords_measured x o) :)
    have volts : (s.atRecords x o).store.volts = some (SampleSet.ofInput x).store := by
      rw [State.atRecords_store]
      exact (congrArg Prod.fst (s.halved_read x o).2.2 :)
    have start : (s.atRecords x o).outcomeList = listed.map Entry.start :=
      State.outcomeList_feeders takes.2.1 fun f => by simp
    have feeders : ((s.atRecords x o).outcomeList.map e).map (·.feeder) = listed := by
      have same : ∀ y, (e y).feeder = y.feeder := fun y => congrArg Prod.fst (kept y)
      rw [start, List.map_map, List.map_map]
      have each : ((fun y : Entry => y.feeder) ∘ e) ∘ Entry.start = id := funext fun f => same (Entry.start f)
      rw [each, List.map_id]
    have newest (n : Nat) : nextEventNumber n = if n = 65535 then 1 else n + 1 := rfl
    refine ⟨s.instant x o, _, exec_sampleSet_of_sampling takes.1 x o, fun trip => ?_, state, time, record, number,
      ?_, fast, rms, fun idle => compensability_of_idle idle _, fun running yes => ?_, fun running no => ?_,
      s.atRecords_reading x o, rfl, ?_, rfl, quanta, rfl, rfl, rfl, feeders, fun other q => ?_, table'.trans table,
      fun yes => ?_, fun no => ?_, ?_, asked⟩
    · change execFastTrip x o s = _
      rw [execFastTrip, State.instantIf, takes.1, State.tracked_comparator x takes, show (s.comparatorAfter x o).trips = true from trip]
      rfl
    · rw [next]
      rfl
    · rw [State.newRecord, running, compensability_of_running, if_pos (bne_iff_ne.mpr yes)]
    · rw [State.newRecord, running, compensability_of_running, if_neg (mt bne_iff_ne.mp no)]
    · rw [State.newRecord, volts]
      rfl
    · have same := blank q other
      rw [same] at record
      have entries := congrArg Record.entries (Option.some.inj record)
      rw [← entries]
      exact start
    · rw [tracker]
      cases after : (s.trackerAfter x).state
      · exact absurd after yes
      · rfl
      · rfl
    · rw [tracker, not_not.mp no]
      rfl
    · have length : ((s.atRecords x o).outcomeList.map e).length = (s.atRecords x o).outcomeList.length := List.length_map _
      simp only [State.newRecord, length]
      exact report
  · have clear' := (State.atRecords_clear (x := x) (o := o) settled clear).1
    have below : below (s.vretAfter x o) (s.globalsAt o).onsetLevel = true := (below_iff _ _).mpr ⟨v, vret, low⟩
    obtain ⟨c, cause⟩ : ∃ c, (s.atRecords x o).onsetCause (s.atRecords x o).comparator.trips
        ((s.tracked x o).externalWeighed o) = some c := by
      rw [← Option.isSome_iff_exists, State.onsetCause, State.atRecords_vret, State.atRecords_inForce,
        State.halved_globalsInForce, below]
      split <;> rfl
    obtain ⟨noted, tracker, -⟩ := State.instant_opens clear' cause
    obtain ⟨e, -, record⟩ := noted.record
    obtain ⟨locks, seeks⟩ := State.instant_held_first settled first clear below
    refine ⟨_, _, exec_sampleSet_of_sampling sampling x o, record, fun locked => ?_, fun seeking => ?_⟩
    · obtain ⟨held, heard⟩ := locks locked
      obtain ⟨state, miss, -, -, index⟩ := (s.tracked x o).tracker.declare_keeps
      rw [← State.halved_declares, ← State.atRecords_tracker] at state index miss
      rw [held] at state index miss
      have same : (s.instant x o).tracker = (s.atRecords x o).tracker := by
        rw [tracker, State.asked, if_neg fun h => by rw [state] at h; exact absurd h.2 nofun]
      rw [same]
      refine ⟨state, index, miss, fun running => ?_⟩
      rw [State.newRecord, State.atRecords_loader settled, running, heard, state]
      rfl
    · obtain ⟨held, heard⟩ := seeks seeking
      have same : (s.instant x o).tracker = (s.atRecords x o).tracker := by
        rw [tracker, State.asked, heard, if_neg fun h => absurd h.1 nofun]
      rw [same, State.atRecords_tracker, State.halved_declares, (Tracker.declare_keeps _).1, held]
      refine ⟨rfl, fun running => ?_⟩
      rw [State.newRecord, State.atRecords_loader settled, running, heard]
      rfl

end Sys2Proof.Machine
end

section
/-! SUPPORT. What a boundary writes into the open record (R38, R41, R43, R62, R89), entry by entry. -/

namespace Sys2Proof.Machine

open Sys2Proof
open State (Noted)

/-! ## Entries written in turn -/

namespace Detector

variable (d : Detector)

theorem mapEntries_mapEntries (a b : Entry → Entry) : (d.mapEntries a).mapEntries b = d.mapEntries (b ∘ a) := by
  rcases d with ⟨_, _, _, - | r, _, _, _⟩
  · rfl
  · simp [mapEntries, List.map_map]

theorem mapEntries_of_same {a : Entry → Entry} (h : ∀ e, a e = e) : d.mapEntries a = d := by
  have same : a = id := funext h
  rcases d with ⟨_, _, _, - | r, _, _, _⟩
  · rfl
  · simp [mapEntries, same]

theorem mapEntry_eq (f : Feeder) (c : Entry → Entry) :
    d.mapEntry f c = d.mapEntries fun e => if e.feeder = f then c e else e := rfl

end Detector

/-- Steps that each write into one feeder's entry, where `writes` says so, write into each listed feeder's entry once. -/
theorem foldl_notes {step : State → Feeder → State} {writes : Feeder → State → Bool} {c : Feeder → Entry → Entry}
    (detector : ∀ f s, (step s f).detector = if writes f s then s.detector.mapEntry f (c f) else s.detector)
    (apart : ∀ f h s, h ≠ f → writes f (step s h) = writes f s) (feeder : ∀ f e, (c f e).feeder = e.feeder) {l : List Feeder}
    (nodup : l.Nodup) (s : State) : (l.foldl step s).detector = s.detector.mapEntries fun e =>
      if e.feeder ∈ l ∧ writes e.feeder s = true then c e.feeder e else e := by
  induction l generalizing s with
  | nil => exact (s.detector.mapEntries_of_same fun e => by simp).symm
  | cons h l ih =>
    obtain ⟨fresh, nodup⟩ := List.nodup_cons.mp nodup
    rw [List.foldl_cons, ih nodup, detector]
    have rest (e : Entry) : (if e.feeder ∈ l ∧ writes e.feeder (step s h) = true then c e.feeder e else e) =
        if e.feeder ∈ l ∧ writes e.feeder s = true then c e.feeder e else e := by
      by_cases listed : e.feeder ∈ l
      · rw [apart e.feeder h s fun same => fresh (same ▸ listed)]
      · rw [if_neg fun a => listed a.1, if_neg fun a => listed a.1]
    simp only [rest]
    split
    · next may =>
      rw [Detector.mapEntry_eq, Detector.mapEntries_mapEntries]
      congr 1
      funext e
      by_cases same : e.feeder = h
      · simp only [Function.comp_apply, feeder, same, fresh, false_and, if_false, List.mem_cons, true_or, may,
          and_self, if_true]
      · simp only [Function.comp_apply, List.mem_cons, same, false_or, if_false]
    · next may =>
      congr 1
      funext e
      by_cases same : e.feeder = h
      · simp only [same, fresh, if_false, List.mem_cons, may, and_false, Bool.false_eq_true]
      · simp only [List.mem_cons, same, false_or]

/-- R89: the half-cycle just closed exceeded the feeder's share of a measured budget. -/
def State.overdrew (s : State) (f : Feeder) : Bool :=
  (s.arbiter.budgets.get f).any fun b => b.overdrawn (s.gen.get f).closedQ

/-- R41, R89: an overdraw written into its feeder's entry. -/
def State.overdrawn (s : State) (e : Entry) : Entry :=
  if s.overdrew e.feeder then { e with overdraw := e.overdraw + 1 } else e

/-- R89: one feeder's budget closed. -/
def State.closeBudget (s : State) (f : Feeder) : State :=
  if s.overdrew f then { s with detector := s.detector.mapEntry f fun e => { e with overdraw := e.overdraw + 1 } } else s

theorem State.closeBudgets_eq (s : State) : s.closeBudgets = { Feeder.list.foldl State.closeBudget s with
    arbiter := { (Feeder.list.foldl State.closeBudget s).arbiter with budgets := Six.all none } } := by
  unfold State.closeBudgets forFeeders
  refine congrArg (fun step => { Feeder.list.foldl step s with
    arbiter := { (Feeder.list.foldl step s).arbiter with budgets := Six.all none } }) (funext₂ fun t f => ?_)
  simp only [State.closeBudget, State.overdrew, ← State.updateEntry_eq]
  cases t.arbiter.budgets.get f <;> rfl

theorem State.closeBudgets_out (s : State) : s.closeBudgets = { s with
    detector := s.detector.mapEntries s.overdrawn
    arbiter := { s.arbiter with budgets := Six.all none } } := by
  have closed (t : State) (f : Feeder) : ∃ d, t.closeBudget f = { t with detector := d } := by
    unfold State.closeBudget
    split <;> exact ⟨_, rfl⟩
  have rest : ∃ d, Feeder.list.foldl State.closeBudget s = { s with detector := d } :=
    foldl_keeps (P := fun t => ∃ d, t = { s with detector := d }) (fun f t ⟨d, e⟩ => by
      obtain ⟨d', e'⟩ := closed t f
      exact ⟨d', by rw [e', e]⟩) _ s ⟨s.detector, rfl⟩
  have detector := foldl_notes (step := State.closeBudget) (writes := fun f t => t.overdrew f)
    (c := fun _ e => { e with overdraw := e.overdraw + 1 }) (fun f t => by unfold State.closeBudget; split <;> rfl)
    (fun f h t _ => by
      obtain ⟨d, e⟩ := closed t h
      rw [e]
      rfl) (fun _ _ => rfl) Feeder.list_nodup s
  obtain ⟨d, rest⟩ := rest
  have written : d = s.detector.mapEntries s.overdrawn := by
    rw [rest] at detector
    refine detector.trans ?_
    congr 1
    funext e
    simp only [Feeder.mem_list, true_and]
    rfl
  rw [State.closeBudgets_eq, rest, written]

/-! ## The boundary of an open event -/

/-- R43: the verdict written into an entry. -/
def State.judged (s : State) (e : Entry) : Entry :=
  e.judge (s.magnitude.delivered.map fun d => d.get e.feeder) (s.floorNow e.feeder) s.detector.t

/-- R41, R43, R89: what a boundary of an open event writes into an entry. -/
def State.halfCycled (s : State) (e : Entry) : Entry :=
  s.judged (s.overdrawn (e.addFacts (s.seq.get e.feeder).injected (s.gen.get e.feeder)))

/-- R38: what every sample of an open event writes into its record. -/
def State.sampledRecord (s : State) (r : Record) : Record :=
  { r with minimum := minReading r.minimum s.reading, storeMin := min r.storeMin (s.store.volts.getD r.storeMin) }

/-- R41, R62, R100: a record with a half-cycle's facts. -/
def State.withFacts (s : State) (r : Record) : Record :=
  { r with
    total := r.total + (r.entries.map fun e => (s.gen.get e.feeder).closedQ).sum
    entries := r.entries.map fun e => e.addFacts (s.seq.get e.feeder).injected (s.gen.get e.feeder) }

/-- R41, R43, R62, R89: a record with a boundary's facts, overdraws and verdicts. -/
def State.closedHalf (s : State) (r : Record) : Record :=
  { r with
    total := r.total + (r.entries.map fun e => (s.gen.get e.feeder).closedQ).sum
    entries := r.entries.map s.halfCycled }

theorem State.levelTest_out (s : State) : ∃ st n, s.levelTest = { s with detector := { s.detector with state := st, dwell := n } } := by
  unfold State.levelTest
  split
  · split <;> exact ⟨_, _, rfl⟩
  · split <;> exact ⟨_, _, rfl⟩
  · exact ⟨_, _, rfl⟩
  · exact ⟨_, _, rfl⟩

/-- R24, R25: whether a boundary counts towards the dwell, the level having been tested. -/
def State.countsDwell (s : State) : Bool := s.detector.state = .dwell && atOrAbove s.vret s.inForce.globals.recoveryLevel

theorem State.updateMinima_out (s : State) :
    s.updateMinima = { s with detector := { s.detector with record := s.detector.record.map s.sampledRecord } } := by
  unfold State.updateMinima
  split
  · next r e =>
    rw [e]
    rfl
  · next e => rw [e, Option.map_none, ← e]

/-- The level test reads nothing of the record, and keeps it. -/
theorem State.levelTest_record (s : State) (ρ : Option Record) :
    State.levelTest { s with detector := { s.detector with record := ρ } } = { s with detector := { s.detector with
      state := s.levelTest.detector.state, dwell := s.levelTest.detector.dwell, record := ρ } } := by
  have vret : State.vret { s with detector := { s.detector with record := ρ } } = s.vret := rfl
  unfold State.levelTest
  rw [vret]
  cases s.detector.state
  case active => dsimp only; split <;> rfl
  case dwell => dsimp only; split <;> rfl
  all_goals rfl

theorem State.addFacts_out (s : State) :
    s.addFacts = { s with detector := { s.detector with record := s.detector.record.map s.withFacts } } := by
  unfold State.addFacts
  split
  · next r e =>
    rw [e]
    rfl
  · next e => rw [e, Option.map_none, ← e]

theorem State.judge_out (s : State) : s.judge = { s with detector := s.detector.mapEntries s.judged } := by
  unfold State.judge Detector.mapEntries
  split
  · next r e =>
    rw [e]
    rfl
  · next e => rw [e, Option.map_none, ← e]

/-- R24, R41, R43: the facts, the closed budgets, the verdicts and t of a boundary. -/
theorem State.countBoundary_out (s : State) : s.addFacts.closeBudgets.countBoundary.detector = { s.detector with
    t := s.detector.t + 1, dwell := if s.countsDwell then s.detector.dwell + 1 else s.detector.dwell
    record := s.detector.record.map s.closedHalf } := by
  rw [State.addFacts_out]
  generalize facts : s.detector.record.map s.withFacts = ρ
  have closed : State.closeBudgets { s with detector := { s.detector with record := ρ } } = { s with
      detector := Detector.mapEntries { s.detector with record := ρ } s.overdrawn
      arbiter := { s.arbiter with budgets := Six.all none } } := State.closeBudgets_out _
  rw [closed]
  generalize written : Detector.mapEntries { s.detector with record := ρ } s.overdrawn = d
  have judged : State.judge { s with detector := d, arbiter := { s.arbiter with budgets := Six.all none } } = { s with
      detector := d.mapEntries (State.judged { s with detector := d })
      arbiter := { s.arbiter with budgets := Six.all none } } := State.judge_out _
  have same : State.judged { s with detector := d } = s.judged := by
    rw [← written]
    rfl
  rw [State.countBoundary, judged, same, ← written, ← facts]
  have entries (a b c : Entry → Entry) (l : List Entry) : ((l.map a).map b).map c = l.map (c ∘ b ∘ a) := by simp
  cases s.detector.record with
  | none => rfl
  | some r =>
    simp only [Detector.mapEntries, Option.map_some, State.withFacts, entries]
    rfl

/-- R24, R25, R38, R41, R43: the detector's step of an open event up to its records. -/
theorem State.stepping_detector {s : State} (isOpen : s.eventOpen = true) (boundary : Bool) :
    (s.stepping boundary).detector = { s.detector with
      state := s.levelTest.detector.state
      dwell := if boundary && s.levelTest.countsDwell then s.levelTest.detector.dwell + 1 else s.levelTest.detector.dwell
      t := if boundary then s.detector.t + 1 else s.detector.t
      record := s.detector.record.map fun r => if boundary then s.closedHalf (s.sampledRecord r) else s.sampledRecord r } := by
  unfold State.stepping
  rw [if_pos isOpen, State.updateMinima_out, State.levelTest_record]
  cases boundary with
  | false => rfl
  | true =>
    obtain ⟨st, n, leveled⟩ := s.levelTest_out
    have counts : s.levelTest.countsDwell = State.countsDwell { s with detector := { s.detector with
        state := s.levelTest.detector.state, dwell := s.levelTest.detector.dwell,
        record := s.detector.record.map s.sampledRecord } } := by
      rw [leveled]
      rfl
    rw [if_pos rfl, State.countBoundary_out, counts]
    dsimp only
    rw [Option.map_map]
    rfl

end Sys2Proof.Machine
end

section
/-! SUPPORT. A sample of an open event (R24, R25): the level test, t and the dwell count, and whether the event ends. -/

namespace Sys2Proof.Machine

open Sys2Proof
open State (Late Stays Noted Course Grows)

/-! ## The level test -/

section

variable {s : State}

/-- R25: the dwell count that a level reached goes on from. -/
def Detector.dwelt (d : Detector) : Nat := if d.state = .dwell then d.dwell else 0

theorem State.levelTest_of_reached (isOpen : s.eventOpen = true) {v : Nat} (vret : s.vret = some v)
    (reached : s.inForce.globals.recoveryLevel ≤ v) :
    s.levelTest.detector.state = .dwell ∧ s.levelTest.detector.dwell = s.detector.dwelt ∧ s.levelTest.countsDwell = true := by
  have at' : atOrAbove s.vret s.inForce.globals.recoveryLevel = true := by rw [vret]; exact decide_eq_true reached
  have not : below s.vret s.inForce.globals.recoveryLevel = false := by rw [vret]; exact decide_eq_false (not_lt.mpr reached)
  obtain ⟨st, n, leveled⟩ := s.levelTest_out
  have counts (h : st = .dwell) : s.levelTest.countsDwell = true := by
    rw [leveled, State.countsDwell, h]
    exact at'
  have test : (st = .dwell) ∧ n = s.detector.dwelt := by
    have d : s.levelTest.detector = { s.detector with state := st, dwell := n } := congrArg State.detector leveled
    unfold State.levelTest at d
    rw [at', not] at d
    unfold Detector.dwelt
    rcases (DetectorState.eventOpen_iff _).mp isOpen with e | e
    · simp only [e, if_true] at d
      simp only [e, reduceCtorEq, if_false]
      exact ⟨(congrArg Detector.state d).symm, (congrArg Detector.dwell d).symm⟩
    · simp only [e, Bool.false_eq_true, if_false] at d
      simp only [e, if_true]
      exact ⟨((congrArg Detector.state d).symm.trans e), (congrArg Detector.dwell d).symm⟩
  rw [leveled] at counts ⊢
  exact ⟨test.1, test.2, counts test.1⟩

theorem State.levelTest_of_below (isOpen : s.eventOpen = true) {v : Nat} (vret : s.vret = some v)
    (low : v < s.inForce.globals.recoveryLevel) :
    s.levelTest.detector.state = .active ∧ s.levelTest.countsDwell = false := by
  have at' : atOrAbove s.vret s.inForce.globals.recoveryLevel = false := by rw [vret]; exact decide_eq_false (not_le.mpr low)
  have yes : below s.vret s.inForce.globals.recoveryLevel = true := by rw [vret]; exact decide_eq_true low
  have state : s.levelTest.detector.state = .active := by
    unfold State.levelTest
    rw [at', yes]
    rcases (DetectorState.eventOpen_iff _).mp isOpen with e | e <;> simp only [e, if_true, Bool.false_eq_true, if_false]
  refine ⟨state, ?_⟩
  rw [State.countsDwell, state]
  rfl

theorem State.levelTest_of_invalid (vret : s.vret = none) : s.levelTest = s ∧ s.countsDwell = false := by
  have at' : atOrAbove s.vret s.inForce.globals.recoveryLevel = false := by rw [vret]; rfl
  have not : below s.vret s.inForce.globals.recoveryLevel = false := by rw [vret]; rfl
  constructor
  · unfold State.levelTest
    rw [at', not]
    split <;> rfl
  · rw [State.countsDwell, at', Bool.and_false]

end

/-! ## What the step of an instant finds -/

section

variable (s : State) (x : SampleInput) (o : Orders)

theorem State.atDetector_measured : (s.atDetector x o).measured = (s.instant x o).measured := by
  rw [State.instant_halved, State.atDetector_eq]
  exact (State.beforeDetector_late _ x o).measured

theorem State.atDetector_reading : (s.atDetector x o).reading = (s.magsAfter x o).map readingOf := by
  have same : (s.atDetector x o).magnitude = (s.instant x o).magnitude :=
    (congrArg (fun m => m.2.2.1) (s.atDetector_measured x o) :)
  rw [State.reading, same]
  exact s.instant_reading x o

theorem State.atDetector_vret : (s.atDetector x o).vret = s.vretAfter x o := by
  unfold State.vret State.vretAfter
  rw [State.atDetector_reading, Option.map_map]
  rfl

theorem State.atDetector_inForce : (s.atDetector x o).inForce = (s.halved x o).inForce := by
  rw [State.atDetector_eq]
  exact (congrArg Prod.fst (State.beforeDetector_late _ x o).measured :)

theorem State.atDetector_globals : (s.atDetector x o).inForce.globals = s.globalsAt o := by
  rw [State.atDetector_inForce, State.halved_globalsInForce]

variable {s x o}

theorem State.atDetector_noted (settled : s.settled) : ∃ c : Entry → Entry, (∀ e, (c e).facts = e.facts) ∧
    (s.atDetector x o).detector = Detector.mapEntries { s.detector with clearedNow := false } c := by
  obtain ⟨c, kept, noted⟩ := (s.atDetector_course x o .any fun _ _ => trivial).noted
  exact ⟨c, kept, by rw [noted, State.halved_detector settled]⟩

theorem State.atDetector_detector (settled : s.settled) : (s.atDetector x o).eventOpen = s.eventOpen ∧
    (s.atDetector x o).detector.state = s.detector.state ∧ (s.atDetector x o).detector.t = s.detector.t ∧
    (s.atDetector x o).detector.dwell = s.detector.dwell ∧ (s.atDetector x o).detector.table = s.detector.table := by
  obtain ⟨c, -, noted⟩ := State.atDetector_noted (x := x) (o := o) settled
  rw [State.eventOpen, noted]
  exact ⟨rfl, rfl, rfl, rfl, rfl⟩

/-- R24, R25: the detector of an open event at its records. -/
theorem State.atRecords_step (settled : s.settled) (isOpen : s.eventOpen = true) :
    (s.atRecords x o).eventOpen = true ∧
      (s.atRecords x o).detector.state = (s.atDetector x o).levelTest.detector.state ∧
      (s.atRecords x o).detector.t = (if s.boundaryAt x o then s.detector.t + 1 else s.detector.t) ∧
      (s.atRecords x o).detector.dwell = (if s.boundaryAt x o && (s.atDetector x o).levelTest.countsDwell
        then (s.atDetector x o).levelTest.detector.dwell + 1 else (s.atDetector x o).levelTest.detector.dwell) ∧
      (s.atRecords x o).detector.table = s.detector.table := by
  obtain ⟨opened, -, time, -, table⟩ := State.atDetector_detector (x := x) (o := o) settled
  have stepped := State.stepping_detector (opened.trans isOpen) (s.boundaryAt x o)
  refine ⟨(s.atRecords_eventOpen x o).trans (opened.trans isOpen), ?_⟩
  rw [State.atRecords_detector, stepped, time]
  exact ⟨rfl, rfl, rfl, table⟩

/-- R26: whether an instant's boundary ends its event. -/
theorem State.atRecords_endCause : (s.atRecords x o).endCause =
    if (s.atRecords x o).detector.state = .dwell ∧ (s.globalsAt o).recoveryDwell ≤ (s.atRecords x o).detector.dwell
    then some .recovered
    else if (s.atRecords x o).eventOpen ∧ (s.atRecords x o).detector.t = (s.globalsAt o).eventLimit then some .limit
    else none := by
  unfold State.endCause
  rw [State.atRecords_inForce, State.halved_globalsInForce]
  rfl

/-- An event that goes on at an instant keeps what its detector's step made of it. -/
theorem State.instant_goes_on (settled : s.settled) (isOpen : s.eventOpen = true) (goes : s.goesOn x o) :
    Noted (s.atRecords x o) (s.instant x o) := by
  have opened := (State.atRecords_step (x := x) (o := o) settled isOpen).1
  have noted := State.concluded_open (o := o) (external := (s.tracked x o).externalWeighed o)
    (heard := s.requestHeard x o) opened goes
  have detected : Noted (s.atRecords x o) (s.detected x o) := by
    obtain ⟨c, kept, same⟩ := noted
    refine ⟨c, kept, ?_⟩
    rw [State.detected_eq, (State.clearInjected_if_detector _ _).1, same]
  have shut := Noted.not_clear detected opened
  rw [State.instant_eq]
  exact detected.trans ((State.finish_passes (k := .any) (s.detected x o) x o fun _ _ => trivial).course_of_shut shut).noted

end

end Sys2Proof.Machine
end

section
/-! SUPPORT. Feeders released together (R28, R74, R142), and the end of an event written out (R28, R44, R145). -/

namespace Sys2Proof.Machine

open Sys2Proof
open State (Noted Grows)

/-! ## Feeders released together -/

/-- R101: the participants of a list released with one cause. -/
def State.freed (s : State) (l : List Feeder) (c : Cause) : State := l.foldl (fun s f => s.releaseAlone f c) s

/-- R101: a sequencer once its feeder is released, if it takes part. -/
def State.freedSeq (s : State) (l : List Feeder) (c : Cause) (f : Feeder) : Sequencer :=
  if f ∈ l ∧ s.participant f = true then (s.seq.get f).released s.globals c s.eventOpen else s.seq.get f

/-- R42, R105: the causes written into the entries of the participants released. -/
def State.freedEntry (s : State) (l : List Feeder) (c : Cause) (e : Entry) : Entry :=
  if e.feeder ∈ l ∧ s.participant e.feeder = true then e.withRelease c else e

theorem Entry.withRelease_feeder (e : Entry) (c : Cause) : (e.withRelease c).feeder = e.feeder :=
  congrArg Prod.fst (e.withRelease_facts c)

theorem State.freed_out (s : State) {l : List Feeder} (nodup : l.Nodup) (c : Cause) :
    ∃ m, s.freed l c = { s with
        seq := Six.of (s.freedSeq l c), detector := s.detector.mapEntries (s.freedEntry l c), link := m } ∧
      Link.Grows s.link m ∧ ∀ f ∈ l, s.participant f = true →
        s.link.carries m (.feederState f .releasing (some .closing) (s.seq.get f).mode (some c)) := by
  induction l generalizing s with
  | nil =>
    have seq : Six.of (s.freedSeq [] c) = s.seq := Six.ext_get fun f => by simp [State.freedSeq]
    have detector : s.detector.mapEntries (s.freedEntry [] c) = s.detector :=
      s.detector.mapEntries_of_same fun e => by simp [State.freedEntry]
    exact ⟨s.link, by rw [seq, detector]; rfl, .refl _, fun f h => absurd h List.not_mem_nil⟩
  | cons h l ih =>
    obtain ⟨fresh, nodup⟩ := List.nodup_cons.mp nodup
    have step : s.freed (h :: l) c = (s.releaseAlone h c).freed l c := rfl
    rw [step]
    cases part : s.participant h with
    | false =>
      rw [State.releaseAlone_of_idle part]
      obtain ⟨m, out, grows, posted⟩ := ih s nodup
      have seq : s.freedSeq (h :: l) c = s.freedSeq l c := by
        funext f
        unfold State.freedSeq
        by_cases same : f = h
        · simp [same, part]
        · simp [same]
      have entry : s.freedEntry (h :: l) c = s.freedEntry l c := by
        funext e
        unfold State.freedEntry
        by_cases same : e.feeder = h
        · simp [same, part]
        · simp [same]
      refine ⟨m, by rw [out, seq, entry], grows, fun f mem engaged => ?_⟩
      rcases List.mem_cons.mp mem with rfl | mem
      · rw [part] at engaged
        cases engaged
      · exact posted f mem engaged
    | true =>
      have released := State.releaseAlone_eq part c
      obtain ⟨m, out, grows, posted⟩ := ih (s.releaseAlone h c) nodup
      have other (f : Feeder) (ne : f ≠ h) : (s.releaseAlone h c).seq.get f = s.seq.get f := by
        rw [released]
        exact Six.get_set_ne _ _ ne
      have self : (s.releaseAlone h c).seq.get h = (s.seq.get h).released s.globals c s.eventOpen := by
        rw [released]
        exact Six.get_set_self _ _ _
      have globals : (s.releaseAlone h c).globals = s.globals := by rw [released]
      have opened : (s.releaseAlone h c).eventOpen = s.eventOpen := by rw [released]; rfl
      have parts (f : Feeder) (ne : f ≠ h) : (s.releaseAlone h c).participant f = s.participant f := by
        rw [State.participant, other f ne, State.participant]
      have seq : (s.releaseAlone h c).freedSeq l c = s.freedSeq (h :: l) c := by
        funext f
        unfold State.freedSeq
        by_cases same : f = h
        · subst same
          rw [if_neg fun a => fresh a.1, if_pos ⟨List.mem_cons_self, part⟩, self]
        · simp only [other f same, parts f same, globals, opened, List.mem_cons, same, false_or]
      have entry : (s.releaseAlone h c).freedEntry l c ∘ (fun e => if e.feeder = h then e.withRelease c else e) =
          s.freedEntry (h :: l) c := by
        funext e
        simp only [Function.comp_apply]
        unfold State.freedEntry
        by_cases same : e.feeder = h
        · rw [if_pos same, Entry.withRelease_feeder, if_neg fun a => fresh (same ▸ a.1),
            if_pos ⟨same ▸ List.mem_cons_self, same ▸ part⟩]
        · simp only [same, if_false, parts _ same, List.mem_cons, false_or]
      have first : Link.Grows s.link (s.releaseAlone h c).link := by
        rw [released]
        exact s.link.post_grows _
      refine ⟨m, ?_, first.trans grows, fun f mem engaged => ?_⟩
      · rw [out, seq, ← entry]
        rw [released, Detector.mapEntry_eq, Detector.mapEntries_mapEntries]
      · rcases List.mem_cons.mp mem with rfl | mem
        · refine grows.carries_before ?_ first
          rw [released]
          exact s.link.carries_post _
        · have ne : f ≠ h := fun same => fresh (same ▸ mem)
          have later := posted f mem ((parts f ne).trans engaged)
          rw [other f ne] at later
          exact first.carries_after later

/-! ## The end of an event -/

theorem EndCause.cause_refusal (e : EndCause) : e.cause.refusal = none := by cases e <;> rfl

/-- R145: the groups once the end of an event has reached them. -/
def State.idleGroups (s : State) : Four Group := Four.of fun g => { s.groups.get g with state := .idle }

/-- R145: a group's end notice where no member takes part any more. -/
theorem State.groupEventEnd_of_free {s : State} (free : ∀ f, s.participant f = false) (g : GroupNo) (e : EndCause) :
    ∃ v, s.groupEventEnd g e = { s with groups := v } ∧ v.get g = { s.groups.get g with state := .idle } ∧
      ∀ h, h ≠ g → v.get h = s.groups.get h := by
  have released (w : FeederSet) (t : State) (same : t.seq = s.seq) :
      forFeeders (fun f s => if w.get f then s.release .nothing f e.cause else s) t = t := by
    refine foldl_keeps (P := fun u => u = t) (fun f u h => ?_) _ t rfl
    subst h
    dsimp only
    rw [State.release_of_idle (by rw [State.participant, same]; exact free f), ite_self]
  have set : ∃ v, s.setGroup g { s.groups.get g with state := .idle } = { s with groups := v } ∧
      v.get g = { s.groups.get g with state := .idle } ∧ ∀ h, h ≠ g → v.get h = s.groups.get h :=
    ⟨_, rfl, Four.get_set_self _ _ _, fun h ne => Four.get_set_ne _ _ ne⟩
  unfold State.groupEventEnd
  dsimp only
  split
  · rwa [released (s.groups.get g).engaged (s.setGroup g { s.groups.get g with state := .idle }) rfl]
  · rwa [released (s.groups.get g).engaged (s.setGroup g { s.groups.get g with state := .idle }) rfl]
  · exact set
  · next idle => exact ⟨s.groups, rfl, by rw [← idle], fun _ _ => rfl⟩

theorem GroupNo.list_nodup : GroupNo.list.Nodup := by decide

theorem Four.ext_get {α : Type} {v w : Four α} (h : ∀ g, v.get g = w.get g) : v = w := by
  rcases v with ⟨a, b, c, d⟩
  rcases w with ⟨a', b', c', d'⟩
  have one := h .g1
  have two := h .g2
  have three := h .g3
  have four := h .g4
  simp only [Four.get] at one two three four
  rw [one, two, three, four]

/-- R145: the end notices of all groups, where no feeder takes part any more. -/
theorem State.forGroups_ended {s : State} (free : ∀ f, s.participant f = false) {e : EndCause} :
    forGroups (fun g s => s.groupEventEnd g e) s = { s with groups := s.idleGroups } := by
  have run (l : List GroupNo) (nodup : l.Nodup) (s : State) (free : ∀ f, s.participant f = false) :
      ∃ v, l.foldl (fun s g => s.groupEventEnd g e) s = { s with groups := v } ∧
        ∀ g, v.get g = if g ∈ l then { s.groups.get g with state := .idle } else s.groups.get g := by
    induction l generalizing s with
    | nil => exact ⟨s.groups, rfl, fun g => by simp⟩
    | cons h l ih =>
      obtain ⟨fresh, nodup⟩ := List.nodup_cons.mp nodup
      obtain ⟨v, first, self, other⟩ := State.groupEventEnd_of_free free h e
      rw [List.foldl_cons, first]
      obtain ⟨w, rest, gets⟩ := ih nodup { s with groups := v } free
      refine ⟨w, rest, fun g => (gets g).trans ?_⟩
      by_cases same : g = h
      · subst same
        rw [if_neg fresh, if_pos List.mem_cons_self]
        exact self
      · simp only [List.mem_cons, same, false_or, other g same]
  obtain ⟨v, out, gets⟩ := run GroupNo.list GroupNo.list_nodup s free
  refine out.trans ?_
  have same : v = s.idleGroups := Four.ext_get fun g => by
    rw [gets, if_pos g.mem_list, State.idleGroups, Four.get_of]
  rw [same]

/-- R28, R145: the notices of an event's end written out. -/
theorem State.notified_out (s : State) (e : EndCause) : ∃ m, s.notified e = { s.leaveEvent e with
      seq := Six.of ((s.leaveEvent e).freedSeq Feeder.list e.cause)
      detector := (s.leaveEvent e).detector.mapEntries ((s.leaveEvent e).freedEntry Feeder.list e.cause)
      groups := s.idleGroups, link := m } ∧
    Link.Grows s.link m ∧ ∀ f, s.participant f = true →
      s.link.carries m (.feederState f .releasing (some .closing) (s.seq.get f).mode (some e.cause)) := by
  have wide (t : State) (f : Feeder) : t.release .nothing f e.cause = t.releaseAlone f e.cause :=
    State.release_of_group_wide e.cause_refusal _
  have feeders : s.notified e = forGroups (fun g s => s.groupEventEnd g e) ((s.leaveEvent e).freed Feeder.list e.cause) := by
    unfold State.notified forFeeders State.freed
    simp only [wide]
  obtain ⟨m, freed, grows, posted⟩ := (s.leaveEvent e).freed_out Feeder.list_nodup e.cause
  have seq (f : Feeder) : ((s.leaveEvent e).freed Feeder.list e.cause).participant f = false := by
    rw [freed, State.participant, Six.get_of, State.freedSeq]
    split
    · rfl
    · next out =>
      cases part : (s.leaveEvent e).participant f with
      | false => exact part
      | true => exact absurd ⟨f.mem_list, part⟩ out
  rw [feeders, State.forGroups_ended seq, freed]
  exact ⟨m, rfl, grows, fun f engaged => posted f f.mem_list engaged⟩

/-- A sequencer as the end of an event leaves it (R28, R101, R102). -/
def State.endedSeq (s : State) (e : EndCause) (f : Feeder) : Sequencer :=
  if s.participant f then { s.seq.get f with
    state := .releasing, phase := some .closing, releaseCause := some e.cause,
    timer := s.globals.startTimer .bypass, barred := false }
  else { s.seq.get f with barred := false }

/-- R28, R42: an entry as the end of an event closes it. -/
def State.endedEntry (s : State) (e : EndCause) (x : Entry) : Entry :=
  if s.participant x.feeder then x.withRelease e.cause else x

theorem Tracker.requestLocked_of_other {t : Tracker} (h : t.state ≠ .holding) : t.requestLocked = t := by
  unfold Tracker.requestLocked
  split
  · next e => exact absurd e h
  · rfl
  · rfl

theorem State.endHolding_out (s : State) : ∃ m, s.endHolding = { s with tracker := s.tracker.requestLocked, link := m } ∧
    Link.Grows s.link m ∧ (s.tracker.state = .holding → s.link.carries m (.tracker .locked .eventEnd)) := by
  unfold State.endHolding
  split
  · next holding =>
    have locked : s.tracker.requestLocked.state = .locked := by simp [Tracker.requestLocked, holding]
    exact ⟨_, rfl, s.link.post_grows _, fun _ => locked ▸ s.link.carries_post _⟩
  · next other => exact ⟨s.link, by rw [Tracker.requestLocked_of_other other], .refl _, fun h => absurd h other⟩

/-- R11, R28, R36, R44, R46, R71, R90, R101, R102, R145: the end of an event written out. -/
theorem State.endEvent_full {s : State} {r : Record} (h : s.detector.record = some r) (e : EndCause) :
    ∃ m, s.endEvent e = { s with
        seq := Six.of (s.endedSeq e), groups := s.idleGroups, tracker := s.tracker.requestLocked
        detector := { (s.leaveEvent e).detector with
          record := none, table := appendRecord s.detector.table (r.closedBy e s.detector.t (s.endedEntry e)) }
        store := { s.store with delay := s.globals.rechargeDelay }
        classes := { s.classes with
          activeBank := s.classes.pendingBank.getD s.classes.activeBank, pendingBank := none }
        arbiter := { s.arbiter with flags := FeederSet.empty }, link := m } ∧
      Link.Grows s.link m ∧
      (∀ f, s.participant f = true →
        s.link.carries m (.feederState f .releasing (some .closing) (s.seq.get f).mode (some e.cause))) ∧
      s.link.carries m ((r.closedBy e s.detector.t (s.endedEntry e)).endReport e) ∧
      (s.tracker.state = .holding → s.link.carries m (.tracker .locked .eventEnd)) := by
  obtain ⟨m, notified, grows, freed⟩ := s.notified_out e
  have entry : (s.leaveEvent e).freedEntry Feeder.list e.cause = s.endedEntry e := by
    funext x
    simp only [State.freedEntry, State.endedEntry, Feeder.mem_list, true_and]
    rfl
  have closing : (s.leaveEvent e).detector.mapEntries (s.endedEntry e) = { (s.leaveEvent e).detector with
      record := some { r with entries := r.entries.map (s.endedEntry e) } } := by
    have leaves : (s.leaveEvent e).detector.record = some r := h
    rw [Detector.mapEntries, leaves]
    rfl
  rw [entry, closing] at notified
  have closed : (s.notified e).closeRecord e = { s.notified e with
      detector := { (s.leaveEvent e).detector with
        record := none, table := appendRecord s.detector.table (r.closedBy e s.detector.t (s.endedEntry e)) }
      link := m.post ((r.closedBy e s.detector.t (s.endedEntry e)).endReport e) } := by
    rw [notified]
    rfl
  obtain ⟨n, ended, grows', holding⟩ := ((s.notified e).closeRecord e).endHolding_out
  have posts : Link.Grows m (m.post ((r.closedBy e s.detector.t (s.endedEntry e)).endReport e)) := m.post_grows _
  rw [closed] at ended grows' holding
  rw [notified] at ended holding
  have seq : (Six.of fun f => { (Six.of ((s.leaveEvent e).freedSeq Feeder.list e.cause)).get f with barred := false }) =
      Six.of (s.endedSeq e) := by
    refine congrArg Six.of (funext fun f => ?_)
    simp only [Six.get_of, State.freedSeq, State.endedSeq, Feeder.mem_list, true_and]
    have part : (s.leaveEvent e).participant f = s.participant f := rfl
    rw [part]
    split <;> rfl
  refine ⟨n, ?_, (grows.trans posts).trans grows', fun f engaged => ?_, ?_, fun on => ?_⟩
  · rw [State.endEvent_eq, State.settleEnd, closed, notified, ended, ← seq]
    rfl
  · exact (posts.trans grows').carries_before (freed f engaged) grows
  · exact grows.carries_after (grows'.carries_before (m.carries_post _) posts)
  · exact (grows.trans posts).carries_after (holding on)

end Sys2Proof.Machine
end

section
/-! SUPPORT. The instant at which an event ends (R25, R26, R28), from the state before it. -/

namespace Sys2Proof.Machine

open Sys2Proof
open State (Late Stays Noted Course Grows SeqOnly)

/-! ## The detector's step up to its records -/

/-- The step before the records moves the detector and, at an event's boundary, spends the budgets. -/
theorem State.stepping_out (s : State) (boundary : Bool) : ∃ d, s.stepping boundary = { s with
    detector := d
    arbiter := if s.eventOpen && boundary then { s.arbiter with budgets := Six.all none } else s.arbiter } := by
  unfold State.stepping
  cases isOpen : s.eventOpen with
  | false => exact ⟨s.detector, rfl⟩
  | true =>
    rw [if_pos rfl, State.updateMinima_out, State.levelTest_record]
    cases boundary with
    | false => exact ⟨_, rfl⟩
    | true =>
      rw [if_pos rfl, State.addFacts_out, State.closeBudgets_out, State.countBoundary, State.judge_out]
      exact ⟨_, rfl⟩

section

variable {s : State} {x : SampleInput} {o : Orders}

theorem State.atRecords_out : ∃ d g p, s.atRecords x o = { s.atDetector x o with
    detector := d, gen := g, port := p
    arbiter := if (s.atDetector x o).eventOpen && s.boundaryAt x o then { (s.atDetector x o).arbiter with budgets := Six.all none }
      else (s.atDetector x o).arbiter } := by
  obtain ⟨d, stepped⟩ := (s.atDetector x o).stepping_out (s.boundaryAt x o)
  obtain ⟨g, p, records⟩ := State.recordsAt_eq ((s.atDetector x o).stepping (s.boundaryAt x o)) x o .stepped
  rw [State.atRecords, records]
  rw [stepped]
  exact ⟨d, g, p, rfl⟩

/-- A quiet instant's detector meets sequencers, groups, classes and requests as they were. -/
theorem State.atDetector_of_quiet (q : quiet o) :
    ∃ ls g p, s.atDetector x o = { s.halved x o with lines := ls, gen := g, port := p } := by
  rw [State.atDetector_eq]
  exact State.beforeDetector_of_quiet _ x q

/-- The detector that an instant's step meets: the entries of its record may have been written into, but not at a quiet
instant. -/
theorem State.atDetector_written (settled : s.settled) : ∃ c : Entry → Entry, (∀ e, (c e).facts = e.facts) ∧
    (quiet o → ∀ e, c e = e) ∧
    (s.atDetector x o).detector = Detector.mapEntries { s.detector with clearedNow := false } c := by
  by_cases q : quiet o
  · obtain ⟨ls, g, p, met⟩ := State.atDetector_of_quiet (s := s) (x := x) q
    refine ⟨id, fun _ => rfl, fun _ _ => rfl, ?_⟩
    have same := Detector.mapEntries_of_same { s.detector with clearedNow := false } (a := id) fun _ => rfl
    rw [same, met]
    exact State.halved_detector settled x
  · obtain ⟨c, kept, noted⟩ := State.atDetector_noted (x := x) (o := o) settled
    exact ⟨c, kept, fun h => absurd h q, noted⟩

/-- R38, R41, R43: the record of an open event at an instant's records. -/
theorem State.atRecords_record {r : Record} (settled : s.settled) (isOpen : s.eventOpen = true)
    (record : s.detector.record = some r) : ∃ c : Entry → Entry, (∀ e, (c e).facts = e.facts) ∧ (quiet o → ∀ e, c e = e) ∧
      (s.atRecords x o).detector.record = some (if s.boundaryAt x o
        then (s.atDetector x o).closedHalf ((s.atDetector x o).sampledRecord { r with entries := r.entries.map c })
        else (s.atDetector x o).sampledRecord { r with entries := r.entries.map c }) := by
  obtain ⟨c, kept, same, written⟩ := State.atDetector_written (x := x) (o := o) settled
  refine ⟨c, kept, same, ?_⟩
  have opened := (State.atDetector_detector (x := x) (o := o) settled).1.trans isOpen
  have met : (s.atDetector x o).detector.record = some { r with entries := r.entries.map c } := by
    rw [written, Detector.mapEntries, record]
    rfl
  rw [State.atRecords_detector, State.stepping_detector opened, met]
  rfl

/-- R25, R26: the end cause that the named rows test. -/
theorem State.atDetector_endAt (isOpen : (s.atDetector x o).eventOpen = true) (boundary : s.boundaryAt x o = true) :
    (s.atDetector x o).endAt (s.boundaryAt x o) = (s.atRecords x o).endCause := by
  obtain ⟨g, p, records⟩ := State.recordsAt_eq ((s.atDetector x o).stepping (s.boundaryAt x o)) x o .stepped
  rw [State.atRecords, records, State.endAt, boundary, isOpen]
  unfold State.stepping
  rw [if_pos isOpen]
  rfl

/-- The state of an instant that ends its event, once its detector's step is over. -/
theorem State.detected_of_end {k : EndCause} (isOpen : (s.atRecords x o).eventOpen = true) (boundary : s.boundaryAt x o = true)
    (ends : (s.atRecords x o).endCause = some k) : s.detected x o = ((s.atRecords x o).endEvent k).clearInjected := by
  rw [State.detected_eq, boundary, State.concluded_of_end isOpen ends]
  rfl

/-- No event is open, none can open, and no bank is pending. -/
def State.unpending (s : State) : Prop := s.detector.shut ∧ s.eventOpen = false ∧ s.classes.pendingBank = none

theorem State.unpending.of_course {s t : State} (h : s.unpending) (c : Course .any s t) (classes : t.classes = s.classes) :
    t.unpending := ⟨c.shut.mpr h.1, c.eventOpen.trans h.2.1, classes ▸ h.2.2⟩

theorem State.unpending.acceptLine {s : State} (h : s.unpending) (lv : Leave) (l : Line) :
    (s.acceptLine false lv l).unpending := by
  have course := (s.acceptLine_passes (k := .any) lv l).course_of_shut h.1
  refine ⟨course.shut.mpr h.1, course.eventOpen.trans h.2.1, ?_⟩
  unfold State.acceptLine
  dsimp only
  split
  · split
    · split
      · exact (congrArg (fun s => s.classes.pendingBank) (State.hold_seqOnly _ _ _ _).rest :).trans h.2.2
      · exact h.2.2
    · split
      · rw [State.externalTrigger_of_barred]
        · exact h.2.2
        · by_cases clear : s.detector.state = .clear
          · exact .inr (h.1 clear)
          · exact .inl clear
      · exact h.2.2
    · split
      · unfold State.switchBank
        rw [if_neg (by change ¬ s.eventOpen = true; rw [h.2.1]; exact nofun)]
      · exact h.2.2
    · exact h.2.2
  · exact h.2.2

theorem State.unpending.takePlaced {s : State} (h : s.unpending) (o : Orders) {p : Place} (late : p ≠ .first) :
    (s.takePlaced o p).unpending := by
  have unweighed : (p == Place.first) = false := beq_false_of_ne late
  unfold State.takePlaced
  rw [unweighed]
  refine foldl_keeps (P := State.unpending) (fun f t h => ?_) _ _
    (foldl_keeps (P := State.unpending) (fun l t h => ?_) _ s h)
  · dsimp only
    split
    · exact h.of_course (t.expire_course _ trivial) (congrArg State.classes (t.expire_seqOnly _ f).rest :)
    · exact h
  · dsimp only
    split
    · exact h.acceptLine _ l
    · exact h

/-- Outside an event, with no onset to be taken, no bank becomes pending (R36). -/
theorem State.unpending.finish {s : State} (h : s.unpending) (x : SampleInput) (o : Orders) : (s.finish x o).unpending := by
  have middle : (s.middle o).unpending := by
    have settled : (s.settleGroups o.leaveLate).unpending :=
      h.of_course (s.settleGroups_course _) (congrArg State.classes (s.settleGroups_seqOnly o.leaveLate).rest :)
    exact (settled.of_course (State.evaluateAt_course _ o .detected) rfl).takePlaced o (by decide)
  have records : (State.recordsAt (s.middle o) x o .last).unpending := by
    refine middle.of_course (State.recordsAt_course _ x o _) ?_
    obtain ⟨g, p, e⟩ := (s.middle o).recordsAt_eq x o .last
    rw [e]
  have formed : (State.storeLate (State.recordsAt (s.middle o) x o .last) x o).unpending := by
    refine records.of_course (State.storeLate_course _ x o) ?_
    unfold State.storeLate
    split
    · rfl
    · obtain ⟨l, e, -⟩ := State.updateStore_out (State.recordsAt (s.middle o) x o .last) (SampleSet.ofInput x).store
      rw [e]
  rw [State.finish_eq]
  generalize State.storeLate (State.recordsAt (s.middle o) x o .last) x o = t at *
  have last := (formed.of_course (t.evaluateAt_course o .stored) rfl).takePlaced o (p := .last) (by decide)
  rw [State.ending]
  generalize (t.evaluateAt o .stored).takePlaced o .last = u at *
  obtain ⟨m, out⟩ := ((u.evaluateAt o .last).settleTimers fun _ => false).settleChoice_out o.choiceLeft
  refine last.of_course (((u.evaluateAt_course o .last).trans (State.settleTimers_course _ _)).trans
    (State.settleChoice_course _ _)) ?_
  rw [out]
  rfl

end

end Sys2Proof.Machine
end

section
/-! SUPPORT. What the end of an event leaves at its instant's end (`State.EndsEvent`), from the state before the instant. -/

namespace Sys2Proof.Machine

open Sys2Proof
open State (Late Stays Noted Course Grows)

section

variable {s : State} {x : SampleInput} {o : Orders}

theorem State.atRecords_globals_settings (settled : s.settled) : (s.atRecords x o).globals = s.globals := by
  obtain ⟨-, -, -, globals, -⟩ := (s.atRecords_late x o).within.frame.fixed
  exact globals.trans (State.halved_globals settled)

theorem State.atRecords_grows (settled : s.settled) : Grows s (s.atRecords x o) :=
  Link.Grows.trans (State.halved_grows (o := o) settled x) ((State.atDetector_stays s x o .any fun _ _ => trivial).trans
    (((s.atDetector x o).stepping_runs (s.boundaryAt x o)).stays.trans (State.recordsAt_stays _ x o .stepped))).grows

/-- R89: a boundary of an open event spends every budget. -/
theorem State.atRecords_budgets (isOpen : (s.atRecords x o).eventOpen = true) (boundary : s.boundaryAt x o = true) (f : Feeder) :
    (s.atRecords x o).arbiter.budgets.get f = none := by
  rw [State.atRecords_eventOpen] at isOpen
  obtain ⟨d, g, p, out⟩ := State.atRecords_out (s := s) (x := x) (o := o)
  rw [out, isOpen, boundary]
  exact Six.get_all _ _

/-- A quiet instant's records meet sequencers, groups, classes and requests as they were. -/
theorem State.atRecords_quiet (settled : s.settled) (q : quiet o) :
    (s.atRecords x o).seq = (s.halved x o).seq ∧ (s.atRecords x o).groups = s.groups ∧
      (s.atRecords x o).classes = s.classes ∧ (s.atRecords x o).calm := by
  obtain ⟨d, g, p, out⟩ := State.atRecords_out (s := s) (x := x) (o := o)
  obtain ⟨ls, g', p', met⟩ := State.atDetector_of_quiet (s := s) (x := x) q
  have rest := State.halved_rest (o := o) settled x
  have groups : (s.halved x o).groups = s.groups := (congrArg State.groups rest :)
  have classes : (s.halved x o).classes = s.classes := (congrArg State.classes rest :)
  have calm := State.halved_calm (x := x) (o := o) settled
  rw [met] at out
  rw [out]
  exact ⟨rfl, groups, classes, calm⟩

theorem State.atRecords_participant (settled : s.settled) (q : quiet o) (f : Feeder) :
    (s.atRecords x o).participant f = s.participant f := by
  rw [State.participant, (State.atRecords_quiet settled q).1, State.halved_seq_get settled]
  rfl

theorem State.halfCycled_kept (s : State) (e : Entry) :
    (s.halfCycled e).feeder = e.feeder ∧ (s.halfCycled e).release = e.release := by
  have judged (e : Entry) : (s.judged e).feeder = e.feeder ∧ (s.judged e).release = e.release := by
    unfold State.judged Entry.judge
    split
    · split <;> exact ⟨rfl, rfl⟩
    · exact ⟨rfl, rfl⟩
  have drew (e : Entry) : (s.overdrawn e).feeder = e.feeder ∧ (s.overdrawn e).release = e.release := by
    unfold State.overdrawn
    split <;> exact ⟨rfl, rfl⟩
  have added := drew (e.addFacts (s.seq.get e.feeder).injected (s.gen.get e.feeder))
  have final := judged (s.overdrawn (e.addFacts (s.seq.get e.feeder).injected (s.gen.get e.feeder)))
  exact ⟨final.1.trans added.1, final.2.trans added.2⟩

theorem State.endedEntry_feeder (s : State) (k : EndCause) (e : Entry) : (s.endedEntry k e).feeder = e.feeder := by
  unfold State.endedEntry
  split
  · exact e.withRelease_feeder _
  · rfl

theorem Entry.withRelease_release (e : Entry) (c : Cause) :
    (e.withRelease c).release = if e.release = none then some c else e.release := by
  unfold Entry.withRelease
  split
  · next h => rw [h, if_neg nofun]
  · next h => rw [h, if_pos rfl]

/-- R42: an entry's release cause once its event has ended. -/
theorem State.endedEntry_release (s : State) (k : EndCause) (e : Entry) : (s.endedEntry k e).release =
    if s.participant e.feeder = true ∧ e.release = none then some k.cause else e.release := by
  unfold State.endedEntry
  by_cases part : s.participant e.feeder = true
  · simp only [part, if_true, true_and, Entry.withRelease_release]
  · simp only [part, if_false, false_and, Bool.false_eq_true]

end

/-- An instant at whose boundary the open event ends by a cause. -/
structure State.Ending (s : State) (x : SampleInput) (o : Orders) (r : Record) (k : EndCause) : Prop where
  settled : s.settled
  isOpen : s.eventOpen = true
  boundary : s.boundaryAt x o = true
  record : s.detector.record = some r
  ends : (s.atRecords x o).endCause = some k

namespace State.Ending

variable {s : State} {x : SampleInput} {o : Orders} {r : Record} {k : EndCause} (h : s.Ending x o r k)
include h

theorem opened : (s.atRecords x o).eventOpen = true := (State.atRecords_step (x := x) (o := o) h.settled h.isOpen).1

theorem detected : s.detected x o = ((s.atRecords x o).endEvent k).clearInjected :=
  State.detected_of_end h.opened h.boundary h.ends

theorem course : Course .any (s.detected x o) (s.instant x o) := by
  rw [State.instant_eq]
  refine (State.finish_passes (k := .any) (s.detected x o) x o fun _ _ => trivial).course_of_shut ?_
  have cleared (u : State) : u.clearInjected.detector = u.detector := rfl
  rw [h.detected, cleared]
  exact State.endEvent_shut _ k

/-- R28, R42, R44: the record closed at the instant. -/
theorem closes : ∃ c, c.number = r.number ∧ c.cause = r.cause ∧ c.comp = r.comp ∧ c.onset = r.onset ∧
    c.endCause = some k ∧ c.duration = s.detector.t + 1 ∧ c.entries.length = r.entries.length ∧
    (∀ (i : Nat) e, r.entries[i]? = some e → ∃ d, c.entries[i]? = some d ∧ d.feeder = e.feeder ∧
      (quiet o → d.release = if s.participant e.feeder = true ∧ e.release = none then some k.cause else e.release)) ∧
    ∃ ρ, (s.atRecords x o).detector.record = some ρ ∧
      c = ρ.closedBy k (s.atRecords x o).detector.t ((s.atRecords x o).endedEntry k) := by
  obtain ⟨e, kept, same, record⟩ := State.atRecords_record (x := x) (o := o) h.settled h.isOpen h.record
  obtain ⟨-, -, time, -⟩ := State.atRecords_step (x := x) (o := o) h.settled h.isOpen
  rw [h.boundary, if_pos rfl] at record time
  generalize (s.atRecords x o).detector.t = time' at time
  subst time
  refine ⟨((s.atDetector x o).closedHalf ((s.atDetector x o).sampledRecord { r with entries := r.entries.map e })).closedBy k
    (s.detector.t + 1) ((s.atRecords x o).endedEntry k), rfl, rfl, rfl, rfl, rfl, rfl, ?_, fun i y mem => ?_, _, record, rfl⟩
  · simp only [Record.closedBy, State.closedHalf, State.sampledRecord, List.length_map]
  · have feeder : ((s.atDetector x o).halfCycled (e y)).feeder = y.feeder :=
      (State.halfCycled_kept _ _).1.trans (congrArg Prod.fst (kept y))
    refine ⟨(s.atRecords x o).endedEntry k ((s.atDetector x o).halfCycled (e y)), ?_, ?_, fun q => ?_⟩
    · simp only [Record.closedBy, State.closedHalf, State.sampledRecord, List.getElem?_map, mem, Option.map_some]
    · rw [State.endedEntry_feeder, feeder]
    · rw [State.endedEntry_release, feeder, (State.halfCycled_kept _ _).2, same q, State.atRecords_participant h.settled q]

/-- R28: the instant's end from the state that the step's notices leave. -/
theorem out {ρ : Record} (record : (s.atRecords x o).detector.record = some ρ) :
    (s.instant x o).arbiter.flags = FeederSet.empty ∧ (∀ f, (s.instant x o).arbiter.budgets.get f = none) ∧
      (s.instant x o).tracker = (s.halved x o).tracker.requestLocked ∧
      (s.instant x o).store.delay = s.globals.rechargeDelay ∧ (s.instant x o).classes.pendingBank = none ∧
      (∀ g, ((s.instant x o).groups.get g).state = .idle) ∧
      (∀ f, (s.instant x o).participant f = false ∧ ((s.instant x o).seq.get f).barred = false) ∧
      (s.instant x o).detector = { (State.leaveEvent (s.atRecords x o) k).detector with
        record := none, table := appendRecord (s.atRecords x o).detector.table
          (ρ.closedBy k (s.atRecords x o).detector.t ((s.atRecords x o).endedEntry k)) } := by
  obtain ⟨m, full, -⟩ := State.endEvent_full record k
  have budgets := State.atRecords_budgets h.opened h.boundary
  have tracker := State.atRecords_tracker (s := s) (x := x) (o := o)
  have globals := State.atRecords_globals_settings (x := x) (o := o) h.settled
  have detected := h.detected
  have course := h.course
  have delay := State.finish_delay (s.detected x o) x o
  have closed : (s.detected x o).unpending → (s.instant x o).unpending := fun u => u.finish x o
  have shut := State.endEvent_shut (s.atRecords x o) k
  have ended := State.endEvent_closed (s.atRecords x o) k
  rw [← State.instant_eq] at delay
  rw [← tracker, ← globals]
  generalize s.instant x o = t at *
  generalize s.detected x o = u at *
  generalize s.atRecords x o = w at *
  rw [full] at shut ended detected
  obtain ⟨c, -, written⟩ := course.noted
  have free (f : Feeder) : u.participant f = false ∧ (u.seq.get f).barred = false := by
    have seq : u.seq.get f = { w.endedSeq k f with injected := false } := by
      rw [detected]
      simp only [State.clearInjected, Six.get_of]
    rw [State.participant, seq]
    unfold State.endedSeq
    cases part : w.participant f with
    | true => exact ⟨rfl, rfl⟩
    | false => exact ⟨part, rfl⟩
  have idle (g : GroupNo) : (u.groups.get g).state = .idle := by
    rw [detected]
    exact congrArg Group.state (Four.get_of _ g)
  have still : u.eventOpen = false := by
    rw [detected]
    exact ended.2
  have unpending : u.unpending := by
    refine ⟨?_, still, ?_⟩ <;> rw [detected]
    · exact shut
    · rfl
  refine ⟨?_, fun f => ?_, ?_, ?_, (closed unpending).2.2, fun g => course.groupIdle g (idle g),
    fun f => ⟨course.participant f (free f).1, course.barred f still (free f).2⟩, ?_⟩
  · rw [course.tracker.2, detected]
    rfl
  · rw [course.tracker.2, detected]
    exact budgets f
  · rw [course.tracker.1, detected]
    rfl
  · rw [delay, detected]
    rfl
  · rw [written, detected]
    rfl

/-- R28, R101, R145: the sequencers, groups and banks at the end of a quiet instant that ends its event. -/
theorem quietly (q : quiet o) : (∀ f, (s.instant x o).seq.get f = Sequencer.unmarked { State.endedSeq (s.atRecords x o) k f with
      injected := false }) ∧ (∀ g, (s.instant x o).groups.get g = { s.groups.get g with state := .idle }) ∧
    (s.instant x o).classes.activeBank = s.classes.pendingBank.getD s.classes.activeBank := by
  obtain ⟨c, -, -, -, -, -, -, -, -, ρ, record, -⟩ := h.closes
  obtain ⟨m, full, -⟩ := State.endEvent_full record k
  obtain ⟨-, groups, classes, calm⟩ := State.atRecords_quiet (x := x) h.settled q
  have detected := h.detected
  have finish := State.finish_of_quiet (s := s.detected x o) x q
  rw [State.instant_eq]
  generalize s.detected x o = u at *
  generalize s.atRecords x o = w at *
  rw [full] at detected
  obtain ⟨ls, g, p, st, l, finished⟩ := finish (by rw [detected]; exact calm)
  rw [finished, detected]
  refine ⟨fun f => ?_, fun g => ?_, ?_⟩
  · simp only [State.clearInjected, Six.get_of]
  · rw [← groups]
    exact Four.get_of _ g
  · rw [← classes]
    rfl

/-- R12, R46, R113: the reports of the end of an event. -/
theorem reports {ρ : Record} (record : (s.atRecords x o).detector.record = some ρ) :
    (∀ f, (s.atRecords x o).participant f = true → s.link.carries (s.instant x o).link
      (.feederState f .releasing (some .closing) ((s.atRecords x o).seq.get f).mode (some k.cause))) ∧
    s.link.carries (s.instant x o).link
      ((ρ.closedBy k (s.atRecords x o).detector.t ((s.atRecords x o).endedEntry k)).endReport k) ∧
    ((s.halved x o).tracker.state = .holding → s.link.carries (s.instant x o).link (.tracker .locked .eventEnd)) := by
  obtain ⟨m, full, grows, released, ended, locked⟩ := State.endEvent_full record k
  have arrives := State.atRecords_grows (x := x) (o := o) h.settled
  have tracker := State.atRecords_tracker (s := s) (x := x) (o := o)
  have detected := h.detected
  have leaves := (State.finish_stays (k := .any) (s.detected x o) x o trivial (fun _ _ => trivial) fun _ _ => trivial).grows
  rw [← State.instant_eq] at leaves
  rw [← tracker]
  generalize s.instant x o = t at *
  generalize s.detected x o = u at *
  generalize s.atRecords x o = w at *
  have link : u.link = m := by
    rw [detected, full]
    rfl
  unfold State.Grows at arrives leaves
  rw [link] at leaves
  exact ⟨fun f part => arrives.carries_after (leaves.carries_before (released f part) grows),
    arrives.carries_after (leaves.carries_before ended grows),
    fun holding => arrives.carries_after (leaves.carries_before (locked holding) grows)⟩

end State.Ending

theorem Tracker.requestLocked_state (t : Tracker) : t.requestLocked.state ≠ .holding := by
  unfold Tracker.requestLocked
  split
  · exact nofun
  · next e => rw [e]; exact nofun
  · next e => rw [e]; exact nofun

/-- R28: an instant that ends its event, in the terms of the state before it. -/
theorem State.endsEvent {s : State} {x : SampleInput} {o : Orders} {r : Record} {k : EndCause} (takes : s.takesSample o)
    (h : s.Ending x o r k) : ∃ c, s.EndsEvent (s.instant x o) o r c k := by
  obtain ⟨c, number, cause, comp, onset, endCause, duration, length, entries, ρ, record, closed⟩ := h.closes
  obtain ⟨flags, budgets, tracker, delay, pending, idle, free, detector⟩ := h.out record
  obtain ⟨released, ended, locked⟩ := h.reports record
  obtain ⟨-, -, time, -, table⟩ := State.atRecords_step (x := x) (o := o) h.settled h.isOpen
  rw [h.boundary, if_pos rfl] at time
  rw [← closed] at detector ended
  have handled := State.halved_tracker (x := x) takes
  refine ⟨c, ⟨?_, ⟨number, cause, comp, onset, endCause, duration⟩, ?_, ⟨length, entries⟩, fun q f part => ⟨?_, ?_⟩,
    fun q f out => ?_, free, ⟨idle, fun q => (h.quietly q).2.1⟩, ⟨pending, fun q => (h.quietly q).2.2⟩, delay,
    ⟨flags, budgets⟩, ⟨?_, fun holding => ?_⟩, ended⟩⟩
  · rw [detector]
    exact ⟨rfl, rfl, time⟩
  · rw [detector, ← table]
    rfl
  · have quietly := (h.quietly q).1 f
    have seq := (State.atRecords_quiet (x := x) h.settled q).1
    have globals := State.atRecords_globals_settings (x := x) (o := o) h.settled
    rw [quietly, State.endedSeq, State.atRecords_participant h.settled q, part, seq, globals, State.halved_seq_get h.settled]
    rfl
  · have posted := released f ((State.atRecords_participant h.settled q f).trans part)
    rw [(State.atRecords_quiet (x := x) h.settled q).1, State.halved_seq_get h.settled] at posted
    exact posted
  · have quietly := (h.quietly q).1 f
    rw [quietly, State.endedSeq, State.atRecords_participant h.settled q, out,
      (State.atRecords_quiet (x := x) h.settled q).1, State.halved_seq_get h.settled]
    exact ⟨rfl, rfl, rfl, rfl⟩
  · rw [tracker]
    exact Tracker.requestLocked_state _
  · have state : (s.halved x o).tracker.state = .holding := by
      rw [handled, (Tracker.declare_keeps _).1, State.trackerAfter, Tracker.handle_of_holding holding]
      exact holding
    rw [tracker]
    unfold Tracker.requestLocked
    rw [state]
    exact ⟨rfl, rfl, rfl, locked state⟩

end Sys2Proof.Machine
end

section
/-! SUPPORT. An open event at a sample (R24 to R26): when it goes on, and when it ends. With this O22. -/

namespace Sys2Proof.Machine

open Sys2Proof
open State (Noted)

section

variable {s : State} {x : SampleInput} {o : Orders} (settled : s.settled) (isOpen : s.eventOpen = true)
include settled isOpen

/-- R24, R25: the dwell at a sample that reaches the level. -/
theorem State.atRecords_reached {v : Nat} (vret : s.vretAfter x o = some v) (reached : (s.globalsAt o).recoveryLevel ≤ v) :
    (s.atRecords x o).detector.state = .dwell ∧
      (s.atRecords x o).detector.dwell = if s.boundaryAt x o then s.detector.dwelt + 1 else s.detector.dwelt := by
  obtain ⟨opened, state, -, dwell, -⟩ := State.atDetector_detector (x := x) (o := o) settled
  obtain ⟨-, now, -, count, -⟩ := State.atRecords_step (x := x) (o := o) settled isOpen
  obtain ⟨test, from', counts⟩ := State.levelTest_of_reached (opened.trans isOpen) ((s.atDetector_vret x o).trans vret)
    (by rw [State.atDetector_globals]; exact reached)
  have dwelt : (s.atDetector x o).detector.dwelt = s.detector.dwelt := by
    unfold Detector.dwelt
    rw [state, dwell]
  rw [counts, Bool.and_true, from', dwelt] at count
  exact ⟨now.trans test, count⟩

/-- R25: a sample below the level. -/
theorem State.atRecords_below {v : Nat} (vret : s.vretAfter x o = some v) (low : v < (s.globalsAt o).recoveryLevel) :
    (s.atRecords x o).detector.state = .active := by
  obtain ⟨opened, -⟩ := State.atDetector_detector (x := x) (o := o) settled
  obtain ⟨-, now, -⟩ := State.atRecords_step (x := x) (o := o) settled isOpen
  exact now.trans (State.levelTest_of_below (opened.trans isOpen) ((s.atDetector_vret x o).trans vret)
    (by rw [State.atDetector_globals]; exact low)).1

/-- R16, R25: a sample with no valid V_ret. -/
theorem State.atRecords_invalid (vret : s.vretAfter x o = none) :
    (s.atRecords x o).detector.state = s.detector.state ∧ (s.atRecords x o).detector.dwell = s.detector.dwell := by
  obtain ⟨-, state, -, dwell, -⟩ := State.atDetector_detector (x := x) (o := o) settled
  obtain ⟨-, now, -, count, -⟩ := State.atRecords_step (x := x) (o := o) settled isOpen
  obtain ⟨same, counts⟩ := State.levelTest_of_invalid ((s.atDetector_vret x o).trans vret)
  rw [same, counts, Bool.and_false, if_neg nofun, dwell] at count
  rw [same, state] at now
  exact ⟨now, count⟩

/-- What an event that goes on shows at the instant's end. -/
theorem State.instant_going (goes : s.goesOn x o) : (s.instant x o).eventOpen = true ∧
    (s.instant x o).detector.state = (s.atRecords x o).detector.state ∧
    (s.instant x o).detector.t = (if s.boundaryAt x o then s.detector.t + 1 else s.detector.t) ∧
    (s.instant x o).detector.dwell = (s.atRecords x o).detector.dwell := by
  have noted := State.instant_goes_on settled isOpen goes
  obtain ⟨opened, -, time, -⟩ := State.atRecords_step (x := x) (o := o) settled isOpen
  exact ⟨noted.eventOpen.trans opened, noted.same.1, noted.same.2.1.trans time, noted.same.2.2.1⟩

end

section

variable {s : State} {x : SampleInput} {o : Orders} {r : Record} {k : EndCause}

theorem exec_recovered_of (sampling : s.sampling = true) (h : s.Ending x o r .recovered) :
    exec (.recovered x o) s = .next (s.instant x o) := by
  change execRecovered x o s = _
  have opened : (s.atDetector x o).eventOpen = true :=
    (State.atDetector_detector (x := x) (o := o) h.settled).1.trans h.isOpen
  simp [execRecovered, State.instantIf, sampling, State.atDetector_endAt opened h.boundary, h.ends]

theorem exec_eventLimit_of (sampling : s.sampling = true) (h : s.Ending x o r .limit) :
    exec (.eventLimit x o) s = .next (s.instant x o) := by
  change execEventLimit x o s = _
  have opened : (s.atDetector x o).eventOpen = true :=
    (State.atDetector_detector (x := x) (o := o) h.settled).1.trans h.isOpen
  simp [execEventLimit, State.instantIf, sampling, State.atDetector_endAt opened h.boundary, h.ends]

/-- R25, R26: the detector's state once an event has ended. -/
theorem State.Ending.state (h : s.Ending x o r k) : (s.instant x o).detector.state = match k with
    | .recovered => .clear
    | .limit => .lockout := by
  obtain ⟨c, -, -, -, -, -, -, -, -, ρ, record, -⟩ := h.closes
  obtain ⟨-, -, -, -, -, -, -, detector⟩ := h.out record
  rw [detector]
  cases k <;> rfl

/-- R25: the boundary that completes the dwell. -/
theorem State.Ending.of_dwell {v : Nat} (settled : s.settled) (boundary : s.boundaryAt x o = true)
    (isOpen : s.eventOpen = true) (record : s.detector.record = some r) (vret : s.vretAfter x o = some v)
    (reached : (s.globalsAt o).recoveryLevel ≤ v) (complete : (s.globalsAt o).recoveryDwell ≤ s.detector.dwelt + 1) :
    s.Ending x o r .recovered := by
  refine ⟨settled, isOpen, boundary, record, ?_⟩
  obtain ⟨state, dwell⟩ := State.atRecords_reached settled isOpen vret reached
  rw [boundary, if_pos rfl] at dwell
  rw [State.atRecords_endCause, if_pos ⟨state, by rw [dwell]; exact complete⟩]

end

/-! ## An end at a crossing with candidate index 48 (R8, R11) -/

section

variable {s : State} {x : SampleInput} {o : Orders}

/-- R25: the end that a boundary would bring, as the request for LOCKED taken first foresees it. -/
theorem State.endAt_of_reached {u : State} (isOpen : u.eventOpen = true) {v : Nat} (vret : u.vret = some v)
    (reached : u.inForce.globals.recoveryLevel ≤ v) (complete : u.inForce.globals.recoveryDwell ≤ u.detector.dwelt + 1) :
    u.endAt true = some .recovered := by
  obtain ⟨test, from', counts⟩ := State.levelTest_of_reached isOpen vret reached
  have stepped := State.stepping_detector isOpen true
  rw [counts, test, from'] at stepped
  obtain ⟨d, out⟩ := u.stepping_out true
  have step : u.endAt true = (u.stepping true).endCause := by
    rw [State.endAt, isOpen]
    unfold State.stepping
    rw [if_pos isOpen]
    rfl
  have inForce : (u.stepping true).inForce = u.inForce := by rw [out]
  rw [step, State.endCause, inForce, stepped]
  exact if_pos ⟨rfl, complete⟩

/-- R11: the tracker at an end whose boundary is at a crossing with candidate index 48, by the order of the request. -/
theorem State.tracked_at_end {p : Int} {v : Nat} (settled : s.settled) (holding : s.tracker.state = .holding)
    (index : s.tracker.index = 47) (prev : s.tracker.prevA = some p) (negative : p < 0)
    (positive : 0 ≤ (SampleSet.ofInput x).bus.a) (boundary : s.boundaryAfter x = true) (vret : s.vretAfter x o = some v)
    (reached : (s.globalsAt o).recoveryLevel ≤ v) (isOpen : s.eventOpen = true)
    (complete : (s.globalsAt o).recoveryDwell ≤ s.detector.dwelt + 1) :
    (s.tracked x o).tracker = if o.lockedFirst then
        { s.tracker.advance (SampleSet.ofInput x).bus.a with state := .locked, miss := 1, spacing := 0 }
      else s.tracker.advance (SampleSet.ofInput x).bus.a := by
  have seen := State.prepare_seen settled x o
  simp only [State.seen, Prod.mk.injEq] at seen
  obtain ⟨tracker, detector, vret', globals⟩ := seen
  have holds : (s.prepare x o).holdsFirst (SampleSet.ofInput x) o = false := by
    simp [State.holdsFirst, tracker, holding]
  have opened : (s.prepare x o).eventOpen = true := by
    rw [State.eventOpen, detector]
    exact isOpen
  have dwelt : (s.prepare x o).detector.dwelt = s.detector.dwelt := by
    rw [detector]
    rfl
  have foreseen : (s.prepare x o).endAt true = some .recovered :=
    State.endAt_of_reached opened (vret'.trans vret) (by rw [globals]; exact reached)
      (by rw [globals, dwelt]; exact complete)
  have locks : (s.prepare x o).locksFirst (SampleSet.ofInput x) o = o.lockedFirst := by
    have at' : (s.tracker.handle (SampleSet.ofInput x).bus.a).boundary.isSome = true := boundary
    simp [State.locksFirst, tracker, holding, at', foreseen]
  have advances := Tracker.handle_of_holding (a := (SampleSet.ofInput x).bus.a) holding
  unfold State.tracked State.track
  simp only [holds, locks, Bool.false_eq_true, if_false]
  cases o.lockedFirst with
  | false =>
    have still : s.tracker.outcome (SampleSet.ofInput x).bus.a = none := by simp only [Tracker.outcome, holding]
    simp only [Bool.false_eq_true, if_false, tracker, still, advances]
  | true =>
    have locked : s.tracker.requestLocked = { s.tracker with state := .locked, miss := 0, spacing := 0 } := by
      simp only [Tracker.requestLocked, holding]
    have crosses : s.tracker.requestLocked.crossing (SampleSet.ofInput x).bus.a = true :=
      Tracker.crossing_iff.mpr ⟨p, by rw [locked]; exact prev, negative, positive⟩
    have outside : inWindow s.tracker.requestLocked.candidate = false := by
      rw [locked, Tracker.candidate, index]
      rfl
    have handled := Tracker.handle_of_miss (by rw [locked]) crosses outside (by rw [locked]; exact nofun)
    simp only [if_true, State.trackerTo, tracker, handled]
    rw [locked]
    rfl

end

/-- R25, R26: the detector's state as its event ends, with a record open or none. -/
theorem State.endEvent_state (s : State) (k : EndCause) : (s.endEvent k).detector.state = (s.leaveEvent k).detector.state := by
  rw [State.endEvent_eq, State.settleEnd_detector, ((s.notified k).closeRecord_detector k).2]
  exact (s.notified_course .any k).noted.same.1

/-- R8, R11: the instant's tracker and detector where its boundary ends the event as recovered. -/
theorem State.instant_of_end {s : State} {x : SampleInput} {o : Orders}
    (detected : s.detected x o = ((s.atRecords x o).endEvent .recovered).clearInjected) :
    (s.instant x o).detector.state = .clear ∧ (s.instant x o).tracker = (s.tracked x o).tracker.declare.requestLocked := by
  have shut := State.endEvent_shut (s.atRecords x o) .recovered
  have state := State.endEvent_state (s.atRecords x o) .recovered
  have tracker := State.endEvent_tracker (s.atRecords x o) .recovered
  rw [State.atRecords_tracker, State.halved_declares] at tracker
  have passes := State.finish_passes (k := .any) (s.detected x o) x o fun _ _ => trivial
  rw [State.instant_eq]
  generalize (s.atRecords x o).endEvent .recovered = u at *
  rw [detected] at passes ⊢
  have course := passes.course_of_shut shut
  refine ⟨course.noted.same.1.trans state, ?_⟩
  rw [course.tracker.1]
  refine (show u.clearInjected.tracker = u.tracker from rfl).trans (tracker.trans ?_)
  split
  · rfl
  · next other => rw [Tracker.requestLocked_of_other other]

/-- Settles O22. The level test and the counts are those of `stepping_detector`; the boundary that completes the dwell ends
the event (`Ending`, `endsEvent`), and the third clause is R11's request taken before the handling of a crossing at index 48
or after it. -/
theorem recoveredClosesTheEvent : Obligations.RecoveredClosesTheEvent := by
  refine ⟨fun s x o takes isOpen => ?_, fun s x o r v takes boundary record vret reached dwells => ?_,
    fun s x o p v sampling settled holding index prev negative positive boundary vret reached state complete => ?_⟩
  · intro level dwell below reached
    have settled := takes.2.1
    have at' := State.boundaryAt_eq takes x
    refine ⟨_, exec_sampleSet_of_sampling takes.1 x o, fun plain => ?_, fun boundary short => ⟨fun ⟨v, vret, high⟩ less => ?_,
      fun ⟨v, vret, low⟩ => ?_⟩⟩
    · have none : s.boundaryAt x o = false := at'.trans plain
      obtain ⟨opened, state, time, count⟩ := State.instant_going (x := x) (o := o) settled isOpen
        fun _ b => by rw [none] at b; cases b
      rw [none, if_neg nofun] at time
      refine ⟨opened, time, fun ⟨v, vret, high⟩ => ?_, fun ⟨v, vret, low⟩ => ?_, fun invalid => ?_⟩
      · obtain ⟨test, from'⟩ := State.atRecords_reached settled isOpen vret high
        rw [none, if_neg nofun] at from'
        exact ⟨state.trans test, count.trans from'⟩
      · exact state.trans (State.atRecords_below settled isOpen vret low)
      · exact state.trans (State.atRecords_invalid settled isOpen invalid).1
    · have yes : s.boundaryAt x o = true := at'.trans boundary
      obtain ⟨test, from'⟩ := State.atRecords_reached settled isOpen vret high
      obtain ⟨-, -, time', -⟩ := State.atRecords_step (x := x) (o := o) settled isOpen
      rw [yes, if_pos rfl] at from' time'
      have goes : s.goesOn x o := fun _ _ => by
        rw [State.atRecords_endCause, if_neg (by rw [from']; exact fun h => absurd h.2 (not_le.mpr less)),
          if_neg (by rw [time']; exact fun h => short h.2)]
      obtain ⟨-, state, time, count⟩ := State.instant_going settled isOpen goes
      rw [yes, if_pos rfl] at time
      exact ⟨time, state.trans test, count.trans from'⟩
    · have yes : s.boundaryAt x o = true := at'.trans boundary
      have test := State.atRecords_below settled isOpen vret low
      obtain ⟨-, -, time', -⟩ := State.atRecords_step (x := x) (o := o) settled isOpen
      rw [yes, if_pos rfl] at time'
      have goes : s.goesOn x o := fun _ _ => by
        rw [State.atRecords_endCause, if_neg (by rw [test]; exact fun h => nomatch h.1),
          if_neg (by rw [time']; exact fun h => short h.2)]
      obtain ⟨-, state, time, -⟩ := State.instant_going settled isOpen goes
      rw [yes, if_pos rfl] at time
      exact ⟨time, state.trans test⟩
  · have complete : (s.globalsAt o).recoveryDwell ≤ s.detector.dwelt + 1 ∧ s.eventOpen = true := by
      unfold Detector.dwelt State.eventOpen
      rcases dwells with ⟨state, complete⟩ | ⟨state, one⟩
      · exact ⟨by rw [if_pos state]; exact complete, by rw [state]; rfl⟩
      · exact ⟨by rw [one]; omega, by rw [state]; rfl⟩
    have ending := State.Ending.of_dwell takes.2.1 ((State.boundaryAt_eq takes x).trans boundary) complete.2 record vret reached
      complete.1
    obtain ⟨c, ends⟩ := State.endsEvent takes ending
    exact ⟨_, c, exec_recovered_of takes.1 ending, exec_sampleSet_of_sampling takes.1 x o, ending.state, ends⟩
  · have isOpen : s.eventOpen = true := by rw [State.eventOpen, state]; rfl
    have complete' : (s.globalsAt o).recoveryDwell ≤ s.detector.dwelt + 1 := by
      rw [Detector.dwelt, if_pos state]
      exact complete
    have tracked := State.tracked_at_end settled holding index prev negative positive boundary vret reached isOpen complete'
    have candidate : (s.tracker.advance (SampleSet.ofInput x).bus.a).index = 48 := by
      change (s.tracker.index + 1) % 96 = 48
      rw [index]
    have boundary' : s.boundaryAt x o = true := by
      have before : (s.tracker.advance (SampleSet.ofInput x).bus.a).boundary.isSome = true := by
        have at' : (s.tracker.handle (SampleSet.ofInput x).bus.a).boundary.isSome = true := boundary
        rwa [Tracker.handle_of_holding holding] at at'
      rw [State.boundaryAt, tracked]
      split
      · exact before
      · exact before
    obtain ⟨test, count⟩ := State.atRecords_reached (x := x) (o := o) settled isOpen vret reached
    rw [boundary', if_pos rfl] at count
    have ends : (s.atRecords x o).endCause = some .recovered := by
      rw [State.atRecords_endCause, if_pos ⟨test, by rw [count]; exact complete'⟩]
    have opened := (State.atRecords_step (x := x) (o := o) settled isOpen).1
    obtain ⟨clear, after⟩ := State.instant_of_end (State.detected_of_end opened boundary' ends)
    refine ⟨_, exec_sampleSet_of_sampling sampling x o, clear, ?_⟩
    rw [tracked] at after
    rw [after]
    generalize taken : s.tracker.advance (SampleSet.ofInput x).bus.a = a at candidate
    cases o.lockedFirst with
    | true =>
      obtain ⟨locked, misses, spacing, -, index'⟩ :=
        Tracker.declare_keeps { a with state := .locked, miss := 1, spacing := 0 }
      rw [if_pos rfl, Tracker.requestLocked_of_other (by rw [locked]; exact nofun)]
      exact ⟨locked, index'.trans candidate, spacing, misses⟩
    | false =>
      obtain ⟨held, -, -, -, index'⟩ := a.declare_keeps
      have still : a.state = .holding := by rw [← taken]; exact holding
      have asked : a.declare.requestLocked = { a.declare with state := .locked, miss := 0, spacing := 0 } := by
        simp only [Tracker.requestLocked, held, still]
      rw [if_neg nofun, asked]
      exact ⟨rfl, index'.trans candidate, rfl, rfl⟩

end Sys2Proof.Machine
end

section
/-! SUPPORT. What a sample of an open event writes into its record, from the state before the instant (R38, R41, R43, R62,
R89). With this O23. -/

namespace Sys2Proof.Machine

open Sys2Proof
open State (Noted Stays)

/-! ## One entry at a boundary -/

theorem Entry.judge_facts (e : Entry) (delivered : Option Nat) (floor t : Nat) : (e.judge delivered floor t).facts =
    (e.feeder, e.injected, e.quanta, e.overdraw, e.saturated, (e.judge delivered floor t).verdict) := by
  unfold Entry.judge
  split
  · split <;> rfl
  · rfl

/-- R43: the verdict depends on the verdict held alone. -/
theorem Entry.judge_verdict (e : Entry) (delivered : Option Nat) (floor t : Nat) : (e.judge delivered floor t).verdict =
    if e.verdict = .heldUp ∧ ∃ d, delivered = some d ∧ d < floor then .violated t else e.verdict := by
  unfold Entry.judge
  split
  · next _ _ d held =>
    by_cases low : d < floor
    · rw [if_pos low, if_pos ⟨held, d, rfl, low⟩]
    · rw [if_neg low, if_neg]
      rintro ⟨-, d', e, low'⟩
      cases e
      exact low low'
  · next other =>
    rw [if_neg]
    rintro ⟨held, d, given, -⟩
    exact other d held given

theorem State.overdrawn_eq (s : State) (e : Entry) :
    s.overdrawn e = { e with overdraw := e.overdraw + if s.overdrew e.feeder then 1 else 0 } := by
  unfold State.overdrawn
  split <;> rfl

/-- R41, R43, R62, R89: an entry's facts after a boundary. -/
theorem State.halfCycled_facts (s : State) (e : Entry) : (s.halfCycled e).facts =
    (e.feeder, e.injected + (if (s.seq.get e.feeder).injected then 1 else 0), e.quanta + (s.gen.get e.feeder).closedQ,
      e.overdraw + (if s.overdrew e.feeder then 1 else 0), e.saturated + (if 1 ≤ (s.gen.get e.feeder).closedSat then 1 else 0),
      if e.verdict = .heldUp ∧ ∃ d, (s.magnitude.delivered.map fun d => d.get e.feeder) = some d ∧ d < s.floorNow e.feeder
      then .violated s.detector.t else e.verdict) := by
  unfold State.halfCycled State.judged
  rw [Entry.judge_facts, Entry.judge_verdict, State.overdrawn_eq]
  rfl

/-! ## What the step finds -/

section

variable {s : State} {x : SampleInput} {o : Orders}

theorem State.atDetector_gen (f : Feeder) : ((s.atDetector x o).gen.get f).closedQ = ((s.instant x o).gen.get f).closedQ ∧
    ((s.atDetector x o).gen.get f).closedSat = ((s.instant x o).gen.get f).closedSat := by
  have same := congrFun (congrArg (fun m => m.2.2.2.2.2.2) (s.atDetector_measured x o)) f
  simp only [State.measured, Prod.mk.injEq] at same
  exact ⟨same.2.2.2.1, same.2.2.2.2⟩

theorem State.atDetector_magnitude : (s.atDetector x o).magnitude = (s.instant x o).magnitude :=
  (congrArg (fun m => m.2.2.1) (s.atDetector_measured x o) :)

/-- R100: a feeder's injected flag at the detector's step. -/
theorem State.atDetector_injected (settled : s.settled) (f : Feeder) : ((s.atDetector x o).seq.get f).injected = true ↔
    (s.seq.get f).injected = true ∨ (s.seq.get f).state = .injecting := by
  have arrives := (State.atDetector_stays s x o (.steady fun _ => true) fun _ _ => rfl).seq f
  have same : ((s.atDetector x o).seq.get f).injected = ((s.halved x o).seq.get f).injected := arrives.2.2
  rw [same, State.halved_seq_get settled]
  simp [Sequencer.ticked]

theorem State.atDetector_budgets (settled : s.settled) : (s.atDetector x o).arbiter = s.arbiter := by
  rw [(s.atDetector_course x o .any fun _ _ => trivial).tracker.2]
  exact (congrArg State.arbiter (State.halved_rest (o := o) settled x) :)

theorem State.atDetector_floor (settled : s.settled) (f : Feeder) :
    (s.atDetector x o).floorNow f = ((s.valuesAt o.writtenNow).classOf f).floorAt s.detector.t := by
  rw [State.floorNow, State.classOf, State.atDetector_inForce, State.halved_inForce settled,
    (State.atDetector_detector settled).2.2.1]

theorem State.atDetector_volts : (s.atDetector x o).store.volts = some (SampleSet.ofInput x).store := by
  rw [State.atDetector_store]
  exact (congrArg Prod.fst (s.halved_read x o).2.2 :)

/-- R38 to R43: the record of an event after a sample, open still or just closed. -/
theorem State.instant_record {r : Record} (settled : s.settled) (isOpen : s.eventOpen = true)
    (record : s.detector.record = some r) : ∃ ρ c, ∃ e : Entry → Entry, (∀ y, (e y).facts = y.facts) ∧
      (s.atRecords x o).detector.record = some ρ ∧
      ((s.instant x o).detector.record = some c ∨ (s.instant x o).detector.record = none ∧
        (s.instant x o).detector.table.getLast? = some c) ∧
      c = { ρ with entries := ρ.entries.map e, endCause := c.endCause, duration := c.duration } := by
  by_cases goes : s.goesOn x o
  · obtain ⟨e, kept, out⟩ := (State.instant_goes_on settled isOpen goes).record
    obtain ⟨c₀, -, -, met⟩ := State.atRecords_record (x := x) (o := o) settled isOpen record
    rw [met] at out
    exact ⟨_, _, e, kept, met, .inl out, rfl⟩
  · unfold State.goesOn at goes
    push Not at goes
    obtain ⟨-, boundary, ends⟩ := goes
    obtain ⟨k, ends⟩ := Option.ne_none_iff_exists'.mp ends
    have ending : s.Ending x o r k := ⟨settled, isOpen, boundary, record, ends⟩
    obtain ⟨c, -, -, -, -, -, -, -, -, ρ, met, closed⟩ := ending.closes
    obtain ⟨-, -, -, -, -, -, -, detector⟩ := ending.out met
    have kept (y : Entry) : ((s.atRecords x o).endedEntry k y).facts = y.facts := by
      unfold State.endedEntry
      split
      · exact y.withRelease_facts _
      · rfl
    refine ⟨ρ, c, (s.atRecords x o).endedEntry k, kept, met, .inr ⟨by rw [detector], ?_⟩, by rw [closed]; rfl⟩
    rw [detector, appendRecord, List.getLast?_append, ← closed]
    rfl

end

/-! ## The facts of the record after a sample -/

/-- R38: a lower reading becomes the minimum; else the minimum held stays, whose absence is that of a valid reading. -/
theorem minReading_eq (held new : Option Reading) : minReading held new =
    if ∃ n, new = some n ∧ ∀ h, held = some h → n.vret < h.vret then new else held := by
  cases new with
  | none =>
    rw [if_neg (fun ⟨n, e, _⟩ => nomatch e)]
    cases held <;> rfl
  | some n =>
    cases held with
    | none => exact (if_pos ⟨n, rfl, nofun⟩).symm
    | some h =>
      by_cases low : n.vret < h.vret
      · rw [if_pos ⟨n, rfl, fun h' e => Option.some.inj e ▸ low⟩]
        exact if_pos low
      · rw [if_neg fun ⟨n', e, lower⟩ => low (Option.some.inj e ▸ lower h rfl)]
        exact if_neg low

section

variable {s : State} {x : SampleInput} {o : Orders}

/-- What a sample of an event makes of one entry's facts: a half-cycle's where a boundary closes one. -/
def State.enteredAt (s : State) (x : SampleInput) (o : Orders) (e : Entry) : Entry :=
  if s.boundaryAt x o then (s.atDetector x o).halfCycled e else e

/-- R38, R41, R43, R62: the record of an event after a sample, by its fields. -/
theorem State.instant_written {r : Record} (settled : s.settled) (isOpen : s.eventOpen = true)
    (record : s.detector.record = some r) : ∃ c, ∃ a b : Entry → Entry,
      (∀ y, (a y).facts = y.facts) ∧ (∀ y, (b y).facts = y.facts) ∧
      ((s.instant x o).detector.record = some c ∨ (s.instant x o).detector.record = none ∧
        (s.instant x o).detector.table.getLast? = some c) ∧
      c.number = r.number ∧ c.onset = r.onset ∧ c.cause = r.cause ∧ c.comp = r.comp ∧
      c.minimum = minReading r.minimum ((s.magsAfter x o).map readingOf) ∧
      c.storeMin = min r.storeMin (SampleSet.ofInput x).store ∧
      c.total = r.total + (if s.boundaryAt x o
        then (r.entries.map fun e => ((s.instant x o).gen.get e.feeder).closedQ).sum else 0) ∧
      c.entries = r.entries.map fun e => b (s.enteredAt x o (a e)) := by
  obtain ⟨ρ, c, b, kept, met, shown, closed⟩ := State.instant_record (x := x) (o := o) settled isOpen record
  obtain ⟨a, same, -, written⟩ := State.atRecords_record (x := x) (o := o) settled isOpen record
  rw [met] at written
  have minimum := s.atDetector_reading x o
  have volts := State.atDetector_volts (s := s) (x := x) (o := o)
  have feeder (e : Entry) : (a e).feeder = e.feeder := congrArg Prod.fst (same e)
  have total : ((r.entries.map a).map fun e => ((s.atDetector x o).gen.get e.feeder).closedQ) =
      r.entries.map fun e => ((s.instant x o).gen.get e.feeder).closedQ := by
    rw [List.map_map]
    exact List.map_congr_left fun e _ => by rw [Function.comp_apply, feeder]; exact (State.atDetector_gen e.feeder).1
  refine ⟨c, a, b, same, kept, shown, ?_⟩
  unfold State.enteredAt
  rw [closed, Option.some.inj written]
  cases s.boundaryAt x o with
  | true =>
    refine ⟨rfl, rfl, rfl, rfl, by rw [← minimum]; rfl, ?_, ?_, ?_⟩
    · exact congrArg (fun v : Option Nat => min r.storeMin (v.getD r.storeMin)) volts
    · exact congrArg (fun l : List Nat => r.total + l.sum) total
    · simp only [if_true, State.closedHalf, State.sampledRecord, List.map_map]
      rfl
  | false =>
    refine ⟨rfl, rfl, rfl, rfl, by rw [← minimum]; rfl, ?_, rfl, ?_⟩
    · exact congrArg (fun v : Option Nat => min r.storeMin (v.getD r.storeMin)) volts
    · simp only [Bool.false_eq_true, if_false, State.sampledRecord, List.map_map]
      rfl

/-- R41, R43, R62, R89: an entry's facts after a sample, in the terms of the state before it. -/
theorem State.enteredAt_facts (settled : s.settled) (e : Entry) {g : Generator} (gen : (s.instant x o).gen.get e.feeder = g)
    {closed : Bool} (at' : s.boundaryAt x o = closed) : (s.enteredAt x o e).facts =
    (e.feeder,
      e.injected + (if closed ∧ ((s.seq.get e.feeder).injected = true ∨ (s.seq.get e.feeder).state = .injecting) then 1 else 0),
      e.quanta + (if closed then g.closedQ else 0),
      e.overdraw + (if closed ∧ (s.arbiter.budgets.get e.feeder).any fun b => b.overdrawn g.closedQ then 1 else 0),
      e.saturated + (if closed ∧ 1 ≤ g.closedSat then 1 else 0),
      if closed ∧ e.verdict = .heldUp ∧ ∃ m, (s.instant x o).magnitude.delivered = some m ∧
        m.get e.feeder < ((s.valuesAt o.writtenNow).classOf e.feeder).floorAt s.detector.t
      then .violated s.detector.t else e.verdict) := by
  unfold State.enteredAt
  rw [at']
  cases closed with
  | false => simp [Entry.facts]
  | true =>
    rw [if_pos rfl, State.halfCycled_facts]
    obtain ⟨quanta, saturated⟩ := State.atDetector_gen (s := s) (x := x) (o := o) e.feeder
    rw [gen] at quanta saturated
    have overdrew : (s.atDetector x o).overdrew e.feeder = (s.arbiter.budgets.get e.feeder).any fun b => b.overdrawn g.closedQ := by
      rw [State.overdrew, State.atDetector_budgets settled, quanta]
    rw [quanta, saturated, overdrew, State.atDetector_magnitude, State.atDetector_floor settled,
      (State.atDetector_detector settled).2.2.1]
    simp only [State.atDetector_injected settled, Option.map_eq_some_iff, true_and, if_true, exists_exists_and_eq_and]

/-- R26: the boundary at which t reaches EVENT_LIMIT with the dwell not complete. -/
theorem State.Ending.of_limit {r : Record} (settled : s.settled) (boundary : s.boundaryAt x o = true)
    (isOpen : s.eventOpen = true) (record : s.detector.record = some r) (limit : s.detector.t + 1 = (s.globalsAt o).eventLimit)
    (short : (s.atRecords x o).detector.state = .dwell → (s.atRecords x o).detector.dwell < (s.globalsAt o).recoveryDwell) :
    s.Ending x o r .limit := by
  obtain ⟨opened, -, time, -⟩ := State.atRecords_step (x := x) (o := o) settled isOpen
  rw [boundary, if_pos rfl] at time
  refine ⟨settled, isOpen, boundary, record, ?_⟩
  rw [State.atRecords_endCause, if_neg fun h => absurd h.2 (not_le.mpr (short h.1)), if_pos ⟨opened, time.trans limit⟩]

end

/-- Settles O23. The record's facts are those of `instant_written`, entry by entry those of `enteredAt_facts`; an event at
EVENT_LIMIT ends (`Ending.of_limit`) as one that has recovered does (`endsEvent`). -/
theorem eventLimitEntersLockout : Obligations.EventLimitEntersLockout := by
  refine ⟨fun s x o r takes isOpen record => ?_, fun s x o r takes boundary isOpen record limit => ?_⟩
  · intro new lower closed
    have settled := takes.2.1
    have at' : s.boundaryAt x o = closed := State.boundaryAt_eq takes x
    obtain ⟨c, a, b, same, kept, shown, number, onset, cause, comp, minimum, storeMin, total, entries⟩ :=
      State.instant_written (x := x) (o := o) settled isOpen record
    rw [at'] at total
    rw [minReading_eq] at minimum
    refine ⟨_, c, exec_sampleSet_of_sampling takes.1 x o, shown, number, onset, cause, comp,
      fun low => minimum.trans (if_pos low), fun high => minimum.trans (if_neg high), storeMin, total,
      by rw [entries, List.length_map], fun i e mem => ⟨b (s.enteredAt x o (a e)), by rw [entries, List.getElem?_map, mem]; rfl, ?_⟩⟩
    have was : (a e).facts = e.facts := same e
    have facts := (kept (s.enteredAt x o (a e))).trans (State.enteredAt_facts settled (a e) rfl at')
    generalize b (s.enteredAt x o (a e)) = d at facts
    generalize a e = e' at was facts
    simp only [Entry.facts, Prod.mk.injEq] at was facts
    obtain ⟨feeder, injected, quanta, overdraw, saturated, verdict⟩ := facts
    obtain ⟨feeder', injected', quanta', overdraw', saturated', verdict'⟩ := was
    rw [feeder'] at feeder injected quanta overdraw saturated verdict
    rw [injected'] at injected
    rw [quanta'] at quanta
    rw [overdraw'] at overdraw
    rw [saturated'] at saturated
    rw [verdict'] at verdict
    refine ⟨feeder, quanta, saturated, injected, ?_, fun none => ?_, fun n violated => ?_, fun yes held m given => ?_⟩
    · rw [overdraw]
      cases closed with
      | false => simp
      | true =>
        cases s.arbiter.budgets.get e.feeder with
        | none => simp
        | some b => simp [Budget.overdrawn]
    · rw [verdict, if_neg fun h => absurd h.1 (by rw [none]; exact nofun)]
    · rw [verdict, violated, if_neg (fun h => nomatch h.2.1)]
    · rw [verdict, held]
      by_cases low : m.get e.feeder < ((s.valuesAt o.writtenNow).classOf e.feeder).floorAt s.detector.t
      · rw [if_pos ⟨yes, rfl, m, given, low⟩, if_pos low]
      · rw [if_neg fun ⟨_, _, m', e', low'⟩ => low (Option.some.inj (given.symm.trans e') ▸ low'), if_neg low]
  · intro level dwell cases'
    have settled := takes.2.1
    have yes : s.boundaryAt x o = true := (State.boundaryAt_eq takes x).trans boundary
    have short : (s.atRecords x o).detector.state = .dwell → (s.atRecords x o).detector.dwell < (s.globalsAt o).recoveryDwell := by
      intro at'
      rcases cases' with ⟨v, vret, low⟩ | ⟨v, vret, high, less⟩ | ⟨vret, less⟩
      · exact absurd ((State.atRecords_below settled isOpen vret low).symm.trans at') nofun
      · have count := (State.atRecords_reached (x := x) (o := o) settled isOpen vret high).2
        rw [yes, if_pos rfl] at count
        exact count ▸ less
      · obtain ⟨same, count⟩ := State.atRecords_invalid (x := x) (o := o) settled isOpen vret
        have was := same.symm.trans at'
        rcases less with active | less
        · exact absurd (active.symm.trans was) nofun
        · rw [count]
          exact (if_pos was : dwell = s.detector.dwell) ▸ less
    have ending := State.Ending.of_limit settled yes isOpen record limit short
    obtain ⟨c, ends⟩ := State.endsEvent takes ending
    exact ⟨_, c, exec_eventLimit_of takes.1 ending, exec_sampleSet_of_sampling takes.1 x o, ending.state,
      ends.detector.2.2.trans limit, ends⟩

end Sys2Proof.Machine
end

section
/-! SUPPORT. A sample instant around the reference record of one feeder, which its orders place in it (R50, R117): the record
is formed and sent once, from the ports, generators and measurements as the half-cycle's closing left them, and stands. -/

namespace Sys2Proof.Machine

open Sys2Proof
open State (Runs Stays Late Course Passes)

/-- Every expiry and every grant may be taken. -/
def anyAge : Taken := .aged fun _ => true

/-- Every expiry may be taken, and no grant. -/
def noGrant : Taken := .steady fun _ => true

/-- What an instant does other than sending the record of `f`: its port and generator stand, and the measurements. -/
structure State.Leads (f : Feeder) (s t : State) : Prop where
  seq : ∀ h, anyAge.allows s.globals h (s.seq.get h) (t.seq.get h)
  globals : t.globals = s.globals
  measured : t.measured = s.measured
  port : t.port.get f = s.port.get f
  gen : t.gen.get f = s.gen.get f

open State (Leads)

section

variable {f : Feeder} {s t u : State}

namespace State.Leads

theorem refl (s : State) : Leads f s s := ⟨fun h => anyAge.allows_refl _ h _, rfl, rfl, rfl, rfl⟩

theorem trans (a : Leads f s t) (b : Leads f t u) : Leads f s u where
  seq h := Taken.allows_trans (a.seq h) (a.globals ▸ b.seq h)
  globals := b.globals.trans a.globals
  measured := b.measured.trans a.measured
  port := b.port.trans a.port
  gen := b.gen.trans a.gen

theorem of_runs (runs : Runs anyAge s t) (late : Late s t) : Leads f s t :=
  ⟨runs.seq, runs.globals, late.measured, by rw [runs.port], by rw [runs.gen]⟩

theorem ite {c : Prop} [Decidable c] (a : Leads f s t) (b : Leads f s u) : Leads f s (if c then t else u) := by
  split
  · exact a
  · exact b

/-- A change of nothing but ports, generators, the store and the link, that leaves `f` and the measurements. -/
theorem of_blocks (seq : t.seq = s.seq) (globals : t.globals = s.globals) (measured : t.measured = s.measured)
    (port : t.port.get f = s.port.get f) (gen : t.gen.get f = s.gen.get f) : Leads f s t :=
  ⟨fun h => by rw [seq]; exact anyAge.allows_refl _ h _, globals, measured, port, gen⟩

end State.Leads

/-! ## The records of one place -/

theorem State.sendIfSending_other {h : Feeder} (other : h ≠ f) (s : State) (bus : Tri Int) :
    (s.sendIfSending h bus).port.get f = s.port.get f ∧ (s.sendIfSending h bus).gen.get f = s.gen.get f := by
  unfold State.sendIfSending
  split
  · exact ⟨Six.get_set_ne _ _ (Ne.symm other), Six.get_set_ne _ _ (Ne.symm other)⟩
  · exact ⟨Six.get_set_ne _ _ (Ne.symm other), rfl⟩

theorem State.sendIfSending_late (s : State) (h : Feeder) (bus : Tri Int) : Late s (s.sendIfSending h bus) := by
  unfold State.sendIfSending
  split
  · exact s.sendRecord_late h bus
  · exact Late.of_rest rfl

/-- A step of the records sent at one place, that sends not that of `f`. -/
def State.Mails (f : Feeder) (s t : State) : Prop := Leads f s t ∧ ∃ g p, t = { s with gen := g, port := p }

theorem State.sendIfSending_mails {h : Feeder} (other : h ≠ f) (s : State) (bus : Tri Int) :
    State.Mails f s (s.sendIfSending h bus) := by
  obtain ⟨g, p, out⟩ := s.sendIfSending_eq h bus
  obtain ⟨port, gen⟩ := State.sendIfSending_other other s bus
  have measured := (s.sendIfSending_late h bus).measured
  refine ⟨.of_blocks ?_ ?_ measured port gen, g, p, out⟩ <;> rw [out]

namespace State.Mails

theorem refl (s : State) : State.Mails f s s := ⟨.refl s, s.gen, s.port, rfl⟩

theorem trans (a : State.Mails f s t) (b : State.Mails f t u) : State.Mails f s u := by
  obtain ⟨leads, g, p, rfl⟩ := a
  obtain ⟨leads', g', p', rfl⟩ := b
  exact ⟨leads.trans leads', g', p', rfl⟩

theorem ite {c : Prop} [Decidable c] (a : State.Mails f s t) (b : State.Mails f s u) :
    State.Mails f s (if c then t else u) := by
  split
  · exact a
  · exact b

end State.Mails

section

variable (s : State) (x : SampleInput) {o : Orders}

theorem State.recordsAt_elsewhere {p : RecordPlace} (placed : o.record.get f ≠ p) : State.Mails f s (s.recordsAt x o p) := by
  unfold State.recordsAt State.sendRecords
  refine foldl_rel State.Mails.refl State.Mails.trans (fun h t => ?_) _ s
  beta_reduce
  by_cases same : h = f
  · rw [if_neg (by rw [same]; exact fun e => placed (eq_of_beq e))]
    exact .refl t
  · exact (State.sendIfSending_mails same t _).ite (.refl t)

theorem State.recordsAt_around {p : RecordPlace} (placed : o.record.get f = p) :
    ∃ v, State.Mails f s v ∧ State.Mails f (v.sendIfSending f (SampleSet.ofInput x).bus) (s.recordsAt x o p) := by
  unfold State.recordsAt State.sendRecords
  obtain ⟨v, before, after⟩ := foldl_around State.Mails.refl State.Mails.trans (b := f) (l := Feeder.list)
    (step := fun s f => if o.record.get f == p then s.sendIfSending f (SampleSet.ofInput x).bus else s)
    (Feeder.mem_list f) Feeder.list_nodup (fun g other s => (State.sendIfSending_mails other s _).ite (.refl s)) s
  rw [if_pos (beq_iff_eq.mpr placed)] at after
  exact ⟨v, before, after⟩

end

/-! ## The stages -/

section

variable (s : State) (x : SampleInput) (o : Orders)

theorem State.evaluateAt_leads (p : Stage) : Leads f s (s.evaluateAt o p) :=
  .of_runs (s.evaluateAt_runs o p) (s.evaluateAt_late o p)

theorem State.placed_leads : Leads f s (s.takePlaced o .first) :=
  .of_runs (s.placed_runs o fun _ _ => rfl) (s.takePlaced_late o _)

theorem State.stepping_leads (boundary : Bool) : Leads f s (s.stepping boundary) :=
  .of_runs (s.stepping_runs boundary) (s.stepping_late boundary)

theorem State.concluded_late (boundary external heard : Bool) : Late s (s.concluded o boundary external heard) := by
  have between (t : State) : Late t (t.refusalsBetween o) := t.refusalsBetween_late o
  cases e : s.detector.state with
  | clear =>
    rw [State.concluded_of_clear e]
    split
    · exact s.onset_late _ heard _ between
    · exact .refl s
  | lockout =>
    rw [State.concluded_of_lockout e]
    exact (s.lockoutStep_late e).ite (.refl s)
  | active | dwell =>
    have isOpen : s.eventOpen = true := by rw [State.eventOpen, e]; rfl
    rw [State.concluded_of_open isOpen]
    split
    · split
      · exact s.endEvent_late _
      · exact (s.allocate_late _ _ between).ite (.refl s)
    · exact .refl s

theorem State.concluded_leads (boundary external heard : Bool) : Leads f s (s.concluded o boundary external heard) := by
  have late := s.concluded_late o boundary external heard
  by_cases goes : s.eventOpen = true → boundary = true → s.endCause = none
  · exact .of_runs (State.concluded_runs (k := anyAge) s o trivial _ _ _ goes) late
  · push Not at goes
    obtain ⟨isOpen, rfl, ends⟩ := goes
    obtain ⟨e, ends⟩ := Option.ne_none_iff_exists'.mp ends
    rw [State.concluded_of_end isOpen ends] at late ⊢
    have runs := s.ended_runs (k := anyAge) e
    have measured := late.measured
    rw [State.endEvent_out] at measured ⊢
    generalize s.ended e = u at *
    exact ⟨runs.seq, runs.globals, measured, by rw [← runs.port], by rw [← runs.gen]⟩

theorem State.clearInjected_leads : Leads f s s.clearInjected :=
  .of_runs (State.clearInjected_runs (k := anyAge) trivial s) s.clearInjected_late

theorem State.middle_leads : Leads f s (s.middle o) :=
  .of_runs (s.middle_runs o trivial fun _ _ => rfl)
    (((s.settleGroups_late _).trans (State.evaluateAt_late _ o _)).trans (State.takePlaced_late _ o _))

theorem State.storeLate_leads : Leads f s (s.storeLate x o) := by
  unfold State.storeLate
  have late := s.updateStore_late (SampleSet.ofInput x).store
  obtain ⟨l, out, -⟩ := s.updateStore_out (SampleSet.ofInput x).store
  refine (Leads.refl s).ite (.of_blocks ?_ ?_ late.measured ?_ ?_) <;> rw [out]

theorem State.ending_leads : Leads f s (s.ending o) :=
  .of_runs (s.ending_runs o trivial fun _ _ => rfl)
    (((((s.evaluateAt_late o _).trans (State.takePlaced_late _ o _)).trans (State.evaluateAt_late _ o _)).trans
      (State.settleTimers_late _ _)).trans (State.settleChoice_late _ _))

end

/-! ## The instant -/

/-- The mode of a feeder stands. -/
def State.Modes (f : Feeder) (s t : State) : Prop := (t.seq.get f).mode = (s.seq.get f).mode

theorem State.Course.modes (h : Course noGrant s t) (f : Feeder) : State.Modes f s t := (h.allows f).2.1

theorem State.Runs.modes (h : Runs noGrant s t) (f : Feeder) : State.Modes f s t := (h.seq f).2.1

section

variable (s : State) (x : SampleInput) (o : Orders)

theorem State.stepping_modes (boundary : Bool) : State.Modes f s (s.stepping boundary) := (s.stepping_runs boundary).modes f

/-- A detector still open to an onset after its step has taken none, and no grant. -/
theorem State.detected_of_waits (waits : ¬ (s.detected x o).detector.shut) :
    (s.detected x o).detector.t = (s.atDetector x o).detector.t ∧ State.Modes f (s.atDetector x o) (s.detected x o) := by
  obtain ⟨g, p, records⟩ := State.recordsAt_eq ((s.atDetector x o).stepping (s.boundaryAt x o)) x o .stepped
  rw [State.detected_eq] at waits ⊢
  dsimp only at waits ⊢
  have cleared (t : State) : (State.detector (if s.boundaryAt x o then t.clearInjected else t) = t.detector) ∧
      State.Modes f t (if s.boundaryAt x o then t.clearInjected else t) := by
    refine ⟨(State.clearInjected_if_detector t _).1, ?_⟩
    split
    · unfold State.Modes State.clearInjected
      rw [Six.get_of]
    · rfl
  rw [(cleared _).1] at waits ⊢
  have modes := (cleared ((s.atRecords x o).concluded o (s.boundaryAt x o) ((s.tracked x o).externalWeighed o)
    (s.requestHeard x o))).2
  suffices still : (s.atRecords x o).concluded o (s.boundaryAt x o) ((s.tracked x o).externalWeighed o)
      (s.requestHeard x o) = s.atRecords x o ∧ (s.atRecords x o).eventOpen = false by
    obtain ⟨still, closed⟩ := still
    rw [still] at modes ⊢
    rw [State.atRecords_eventOpen] at closed
    have same : (s.atRecords x o).seq = (s.atDetector x o).seq := by
      rw [State.atRecords, records, State.stepping_of_closed closed]
    rw [State.atRecords_detector, State.stepping_of_closed closed]
    exact ⟨rfl, modes.trans (by rw [same])⟩
  generalize s.atRecords x o = w at *
  cases e : w.detector.state with
  | clear =>
    refine ⟨?_, by rw [State.eventOpen, e]; rfl⟩
    rw [State.concluded_of_clear e] at waits ⊢
    split
    · next c onset =>
      rw [onset] at waits
      have opened := w.onset_eventOpen c (s.requestHeard x o) fun t => t.refusalsBetween_noted o
      exact absurd (Noted.not_clear (.refl _) opened) waits
    · rfl
  | lockout =>
    refine ⟨?_, by rw [State.eventOpen, e]; rfl⟩
    rw [State.concluded_of_lockout e] at waits ⊢
    split
    · next boundary =>
      rw [if_pos boundary] at waits
      refine absurd ?_ waits
      unfold State.lockoutStep
      split
      · exact fun _ => rfl
      · exact fun clear => absurd (e.symm.trans clear) nofun
    · rfl
  | active | dwell =>
    have isOpen : w.eventOpen = true := by rw [State.eventOpen, e]; rfl
    refine absurd ?_ waits
    by_cases goes : w.eventOpen = true → s.boundaryAt x o = true → w.endCause = none
    · exact Noted.not_clear (State.concluded_open isOpen goes) isOpen
    · push Not at goes
      obtain ⟨-, boundary, ends⟩ := goes
      obtain ⟨k, ends⟩ := Option.ne_none_iff_exists'.mp ends
      rw [boundary, State.concluded_of_end isOpen ends]
      exact State.endEvent_shut w k

end

end

end Sys2Proof.Machine
end

section
/-! SUPPORT. The one place of an instant from which a feeder's reference record is sent, and what the instant shows there
(R50, R117). -/

namespace Sys2Proof.Machine

open Sys2Proof
open State (Runs Stays Late Course Passes Leads Noted)

section

variable {f : Feeder} {o : Orders} (s : State) (x : SampleInput)

/-! ## The stages around that place -/

theorem State.atRecords_leads (elsewhere : o.record.get f ≠ .stepped) : Leads f (s.atDetector x o) (s.atRecords x o) :=
  (State.stepping_leads _ _).trans (State.recordsAt_elsewhere _ x elsewhere).1

theorem State.detected_leads : Leads f (s.atRecords x o) (s.detected x o) := by
  rw [State.detected_eq]
  exact ((State.concluded_leads _ o _ _ _).trans (State.clearInjected_leads _)).ite (State.concluded_leads _ o _ _ _)

theorem State.finish_leads (elsewhere : o.record.get f ≠ .last) : Leads f s (s.finish x o) := by
  rw [State.finish_eq]
  exact (((s.middle_leads o).trans (State.recordsAt_elsewhere _ x elsewhere).1).trans (State.storeLate_leads _ x o)).trans
    (State.ending_leads _ o)

theorem State.beforeDetector_leads (first : o.record.get f ≠ .first) (placed : o.record.get f ≠ .placed) :
    Leads f s (s.beforeDetector x o) := by
  rw [State.beforeDetector_eq]
  exact ((((s.evaluateAt_leads o _).trans (State.recordsAt_elsewhere _ x first).1).trans (State.placed_leads _ o)).trans
    (State.recordsAt_elsewhere _ x placed).1).trans (State.evaluateAt_leads _ o _)

/-- The records sent first, around that of `f`. -/
theorem State.beforeDetector_first (place : o.record.get f = .first) : ∃ u v, Leads f s u ∧ Course noGrant s u ∧
    State.Mails f u v ∧ Leads f (v.sendIfSending f (SampleSet.ofInput x).bus) (s.beforeDetector x o) := by
  obtain ⟨v, mails, after⟩ := State.recordsAt_around (s.evaluateAt o .tracked) x place
  refine ⟨_, v, s.evaluateAt_leads o _, s.evaluateAt_course o _, mails, ?_⟩
  rw [State.beforeDetector_eq]
  exact ((after.1.trans (State.placed_leads _ o)).trans
    (State.recordsAt_elsewhere _ x (p := .placed) (by rw [place]; decide)).1).trans (State.evaluateAt_leads _ o _)

/-- The records sent after the events placed first, around that of `f`. -/
theorem State.beforeDetector_placed (place : o.record.get f = .placed) : ∃ u v, Leads f s u ∧ Course noGrant s u ∧
    State.Mails f u v ∧ Leads f (v.sendIfSending f (SampleSet.ofInput x).bus) (s.beforeDetector x o) := by
  obtain ⟨v, mails, after⟩ := State.recordsAt_around
    (State.takePlaced (State.recordsAt (s.evaluateAt o .tracked) x o .first) o .first) x place
  refine ⟨_, v, ((s.evaluateAt_leads o _).trans (State.recordsAt_elsewhere _ x (by rw [place]; decide)).1).trans
    (State.placed_leads _ o), ((s.evaluateAt_course o _).trans (State.recordsAt_course _ x o _)).trans
      (State.takePlaced_course _ o fun _ _ => rfl), mails, ?_⟩
  rw [State.beforeDetector_eq]
  exact after.1.trans (State.evaluateAt_leads _ o _)

/-! ## The instant around it -/

/-- The instant sends the record of `f` from the state `v`. -/
structure State.SendsFrom (s v : State) (x : SampleInput) (o : Orders) (f : Feeder) : Prop where
  before : Leads f (s.halved x o) v
  after : Leads f (v.sendIfSending f (SampleSet.ofInput x).bus) (s.instant x o)
  time : v.detector.t = (s.halved x o).detector.t ∨ (s.instant x o).detector.t = v.detector.t
  mode : State.Modes f (s.halved x o) v ∨ State.Modes f v (s.instant x o)

/-- R50: a record formed before the detector's step. -/
theorem State.sendsFrom_early {u v : State} (before : Leads f (s.halved x o) u) (course : Course noGrant (s.halved x o) u)
    (mails : State.Mails f u v)
    (after : Leads f (v.sendIfSending f (SampleSet.ofInput x).bus) ((s.halved x o).beforeDetector x o))
    (stepped : o.record.get f ≠ .stepped) (last : o.record.get f ≠ .last) : s.SendsFrom v x o f := by
  obtain ⟨leads, g, p, rfl⟩ := mails
  rw [← State.atDetector_eq] at after
  exact ⟨before.trans leads, ((after.trans (s.atRecords_leads x stepped)).trans (s.detected_leads x)).trans
    (State.finish_leads _ x last), .inl course.noted.same.2.1, .inl (course.modes f)⟩

theorem State.endEvent_time (k : EndCause) : (s.endEvent k).detector.t = s.detector.t := by
  have closed : ((s.notified k).closeRecord k).detector.t = (s.notified k).detector.t := by
    unfold State.closeRecord
    split <;> rfl
  rw [State.endEvent_eq, State.settleEnd_detector, closed]
  exact (s.notified_course .any k).noted.same.2.1

/-- After its step an instant's open event keeps its t, or ends with it. -/
theorem State.detected_time (isOpen : (s.atRecords x o).eventOpen = true) :
    (s.detected x o).detector.shut ∧ (s.detected x o).detector.t = (s.atRecords x o).detector.t := by
  rw [State.detected_eq]
  dsimp only
  rw [(State.clearInjected_if_detector _ _).1]
  generalize s.atRecords x o = w at *
  by_cases goes : w.eventOpen = true → s.boundaryAt x o = true → w.endCause = none
  · have noted := State.concluded_open (o := o) (external := (s.tracked x o).externalWeighed o)
      (heard := s.requestHeard x o) isOpen goes
    exact ⟨Noted.not_clear noted isOpen, noted.same.2.1⟩
  · push Not at goes
    obtain ⟨-, boundary, ends⟩ := goes
    obtain ⟨k, ends⟩ := Option.ne_none_iff_exists'.mp ends
    rw [boundary, State.concluded_of_end isOpen ends]
    exact ⟨w.endEvent_shut k, w.endEvent_time k⟩

/-- R50: a record formed between the boundary step's t and its releases and grants. -/
theorem State.sendsFrom_stepped (place : o.record.get f = .stepped) : ∃ v, s.SendsFrom v x o f := by
  obtain ⟨v, ⟨leads, g, p, out⟩, after⟩ :=
    State.recordsAt_around ((s.atDetector x o).stepping (s.boundaryAt x o)) x place
  have arrives : Leads f (s.halved x o) (s.atDetector x o) := by
    rw [State.atDetector_eq]
    exact State.beforeDetector_leads _ x (by rw [place]; decide) (by rw [place]; decide)
  have course := s.atDetector_course x o noGrant fun _ _ => rfl
  have stepped := (s.atDetector x o).stepping_modes (f := f) (s.boundaryAt x o)
  have leaves : Leads f (v.sendIfSending f (SampleSet.ofInput x).bus) (s.instant x o) :=
    (after.1.trans (s.detected_leads x)).trans (State.finish_leads _ x (by rw [place]; decide))
  refine ⟨v, (arrives.trans (State.stepping_leads _ _)).trans leads, leaves, ?_, .inl ?_⟩
  · have same : v.detector.t = (s.atRecords x o).detector.t := by rw [out, State.atRecords_detector]
    rw [same]
    cases opened : (s.atDetector x o).eventOpen with
    | false =>
      rw [State.atRecords_detector, State.stepping_of_closed opened]
      exact .inl course.noted.same.2.1
    | true =>
      obtain ⟨shut, time⟩ := s.detected_time x (o := o) ((s.atRecords_eventOpen x o).trans opened)
      have finish := (State.finish_passes (k := noGrant) (s.detected x o) x o fun _ _ => rfl).course_of_shut shut
      exact .inr (finish.noted.same.2.1.trans time)
  · have modes : State.Modes f (s.atDetector x o) v := by
      rw [out]
      exact stepped
    exact modes.trans (course.modes f)

/-- R50: a record formed after the detector's step and the events placed in the middle. -/
theorem State.sendsFrom_last (place : o.record.get f = .last) : ∃ v, s.SendsFrom v x o f := by
  obtain ⟨v, ⟨leads, g, p, out⟩, after⟩ := State.recordsAt_around ((s.detected x o).middle o) x place
  have arrives : Leads f (s.halved x o) (s.atDetector x o) := by
    rw [State.atDetector_eq]
    exact State.beforeDetector_leads _ x (by rw [place]; decide) (by rw [place]; decide)
  have course := s.atDetector_course x o noGrant fun _ _ => rfl
  have middle := (s.detected x o).middle_passes o (k := noGrant) fun _ _ => rfl
  have formed := State.storeLate_course (k := noGrant) (State.recordsAt ((s.detected x o).middle o) x o .last) x o
  have records := State.recordsAt_course (k := noGrant) ((s.detected x o).middle o) x o .last
  have ending := State.ending_passes (k := noGrant)
    (State.storeLate (State.recordsAt ((s.detected x o).middle o) x o .last) x o) o fun _ _ => rfl
  suffices stands : (v.detector.t = (s.halved x o).detector.t ∨ (s.instant x o).detector.t = v.detector.t) ∧
      (State.Modes f (s.halved x o) v ∨ State.Modes f v (s.instant x o)) by
    exact ⟨v, (((arrives.trans (s.atRecords_leads x (by rw [place]; decide))).trans (s.detected_leads x)).trans
      (State.middle_leads _ o)).trans leads,
      (after.1.trans (State.storeLate_leads _ x o)).trans (State.ending_leads _ o), stands.1, stands.2⟩
  have rest : Passes noGrant ((s.detected x o).middle o) (s.instant x o) := by
    rw [State.instant_eq, State.finish_eq]
    exact Passes.trans (.inl (records.trans formed)) ending
  have modes (t : State) : (State.Modes f t v ↔ State.Modes f t ((s.detected x o).middle o)) ∧
      (State.Modes f v t ↔ State.Modes f ((s.detected x o).middle o) t) := by
    unfold State.Modes
    rw [out]
    exact ⟨.rfl, .rfl⟩
  have time : v.detector.t = ((s.detected x o).middle o).detector.t := by rw [out]
  rw [time, (modes _).1, (modes _).2]
  by_cases shut : ((s.detected x o).middle o).detector.shut
  · have late := rest.course_of_shut shut
    exact ⟨.inr late.noted.same.2.1, .inr (late.modes f)⟩
  · have on := middle.resolve_right fun opened => shut (Noted.not_clear (.refl _) opened.2)
    obtain ⟨time, modes⟩ := s.detected_of_waits (f := f) x o (on.shut.not.mp shut)
    exact ⟨.inl (on.noted.same.2.1.trans (time.trans course.noted.same.2.1)),
      .inl ((on.modes f).trans (modes.trans (course.modes f)))⟩

/-- R50, R117: the one record of a feeder at an instant. -/
theorem State.instant_sends (o : Orders) (f : Feeder) : ∃ v, s.SendsFrom v x o f := by
  cases place : o.record.get f with
  | first =>
    obtain ⟨u, v, before, course, mails, after⟩ := State.beforeDetector_first (s.halved x o) x place
    exact ⟨v, s.sendsFrom_early x before course mails after (by rw [place]; decide) (by rw [place]; decide)⟩
  | placed =>
    obtain ⟨u, v, before, course, mails, after⟩ := State.beforeDetector_placed (s.halved x o) x place
    exact ⟨v, s.sendsFrom_early x before course mails after (by rw [place]; decide) (by rw [place]; decide)⟩
  | stepped => exact s.sendsFrom_stepped x place
  | last => exact s.sendsFrom_last x place

end

end Sys2Proof.Machine
end

section
/-! SUPPORT. The reference record as a state gives it (R47 to R56, R94, R118). With this O19. -/

namespace Sys2Proof.Machine

open Sys2Proof
open State (Leads)

/-! ## The record a state gives -/

/-- R94, R118: the record that a port sends from a state. -/
def State.recordOf (s : State) (f : Feeder) (bus : Tri Int) : RefRecord :=
  ⟨(s.seq.get f).command, (s.seq.get f).bypassCommand, s.formReferences f bus⟩

section

variable {s : State} {f : Feeder} {bus : Tri Int}

theorem PortState.sends_iff (p : PortState) : p.sends = true ↔ p ≠ .quiet := by cases p <;> simp [PortState.sends]

/-- R117: a sending port's record, which its generator keeps. -/
theorem State.sendIfSending_of_sending (sending : (s.port.get f).state ≠ .quiet) :
    ((s.sendIfSending f bus).port.get f).sent = some (s.recordOf f bus) ∧
      (s.sendIfSending f bus).gen.get f = { s.gen.get f with
        refs := s.formReferences f bus, tag := (s.seq.get f).recordTag
        clamped := s.participant f && s.liveClamped f bus } := by
  unfold State.sendIfSending
  rw [if_pos ((PortState.sends_iff _).mpr sending)]
  unfold State.sendRecord State.setGen State.setPort
  exact ⟨by rw [Six.get_set_self]; rfl, Six.get_set_self _ _ _⟩

theorem State.sendIfSending_of_quiet (silent : (s.port.get f).state = .quiet) :
    (s.sendIfSending f bus).port.get f = { s.port.get f with sent := none } ∧ (s.sendIfSending f bus).gen = s.gen := by
  unfold State.sendIfSending
  rw [if_neg (by rw [silent]; exact nofun)]
  exact ⟨Six.get_set_self _ _ _, rfl⟩

theorem State.formReferences_of_idle (idle : s.participant f = false) : s.formReferences f bus = Tri.all 0 :=
  if_neg (by rw [idle]; exact nofun)

theorem State.formReferences_of_engaged (engaged : s.participant f = true) (p : Phase) :
    (s.formReferences f bus).get p = s.liveReference f bus p := by
  rw [State.formReferences, if_pos engaged, Tri.get_of]

/-- R53, R54: every reference lies within the limit. -/
theorem State.formReferences_bounds (p : Phase) : -(s.effectiveLimit f : Int) ≤ (s.formReferences f bus).get p ∧
    (s.formReferences f bus).get p ≤ s.effectiveLimit f := by
  cases part : s.participant f with
  | false =>
    rw [State.formReferences_of_idle part]
    simp
  | true =>
    rw [State.formReferences_of_engaged part]
    unfold State.liveReference clampInt
    omega

/-- R55: the clamp mark. -/
theorem State.liveClamped_iff : s.liveClamped f bus = true ↔
    ∃ p, s.effectiveLimit f < (s.rawReference f bus p).natAbs := by
  have each (p : Phase) : s.liveReference f bus p ≠ s.rawReference f bus p ↔
      s.effectiveLimit f < (s.rawReference f bus p).natAbs := by
    unfold State.liveReference clampInt
    omega
  unfold State.liveClamped
  rw [List.any_eq_true]
  simp only [bne_iff_ne, each]
  exact ⟨fun ⟨p, _, h⟩ => ⟨p, h⟩, fun ⟨p, h⟩ => ⟨p, by cases p <;> decide, h⟩⟩

theorem Sequencer.running_iff {q : Sequencer} : q.running ↔
    q.state = .arming ∨ q.state = .injecting ∨ q.state = .releasing ∨ q.state = .faulted := by
  unfold Sequencer.running
  cases q.state <;> simp [FeederState.stage]

theorem FeederState.disengaged {p : FeederState} (h : ¬ (p = .arming ∨ p = .injecting)) : p.engaged = false := by
  cases p <;> simp_all [FeederState.engaged]

theorem Sequencer.disengaged_of_rest {q : Sequencer} (h : ¬ q.running) : q.state.engaged = false :=
  FeederState.disengaged fun e => h (Sequencer.running_iff.mpr (by tauto))

/-- R94: the record of OFFLINE, STANDBY and HELD. -/
theorem Sequencer.command_of_rest {q : Sequencer} (h : ¬ q.running) : q.command = .idle ∧ q.bypassCommand = .close := by
  rw [Sequencer.running_iff] at h
  unfold Sequencer.command Sequencer.bypassCommand
  cases state : q.state <;> simp_all

theorem Sequencer.run_of_open {q : Sequencer} (h : q.bypassCommand = .open) : q.command = .run := by
  unfold Sequencer.bypassCommand at h
  split at h
  · next injecting => simp only [Sequencer.command, injecting]
  · cases h

/-- R48, R94: IDLE and STOP are the commands of no engaged feeder. -/
theorem Sequencer.disengaged_of_command {q : Sequencer} (h : q.command = .idle ∨ q.command = .stop) : q.state.engaged = false := by
  cases state : q.state with
  | arming => simp [Sequencer.command, state] at h
  | injecting => simp [Sequencer.command, state] at h
  | offline | standby | held | releasing | faulted => rfl

/-- R47, R94: the record state tag, by the record's fields. -/
theorem Sequencer.recordTag_eq (q : Sequencer) : q.recordTag = match q.command, q.bypassCommand with
    | .start, _ => .arming
    | .run, .open => .injecting
    | _, _ => .other := by
  unfold Sequencer.recordTag Sequencer.command Sequencer.bypassCommand
  cases q.state with
  | releasing | faulted => cases q.phase with
    | none => rfl
    | some p => cases p <;> rfl
  | offline | standby | held | arming | injecting => rfl

/-- R53: rounding half away from zero. -/
theorem roundDiv_thousand (n : Int) : roundDiv n 1000 = n.sign * ((n.natAbs + 500) / 1000 : Nat) := by
  have halves : (2 * n.natAbs + 1000) / (2 * 1000) = (n.natAbs + 500) / 1000 := by omega
  unfold roundDiv
  rw [halves]
  split
  · next up =>
    rcases up.eq_or_lt with zero | pos
    · subst zero
      rfl
    · rw [Int.sign_eq_one_of_pos pos, one_mul]
  · next down => rw [Int.sign_eq_neg_one_of_neg (not_le.mp down), neg_one_mul]

end

/-! ## What the record place finds -/

section

variable (s : State) (x : SampleInput) (o : Orders) (f : Feeder)

theorem State.sampleTaken_port : (s.sampleTaken x o).port.get f = (s.port.get f).sampled (o.started.get f) := by
  have port : (s.closeInstant o).port = s.port := (congrArg State.port (s.closeInstant_runs o).rest :)
  unfold State.sampleTaken
  rw [State.takeSample_out]
  simp only [State.measure, State.measureStore, State.evaluateAt, State.evaluateOutputs, Six.get_of, port]

theorem State.halved_ports : (s.halved x o).port.get f = (s.port.get f).sampled (o.started.get f) := by
  obtain ⟨t, c, l, tracked, -⟩ := s.tracked_eq x o
  have port := s.sampleTaken_port x o f
  cases boundary : s.boundaryAt x o with
  | false =>
    rw [State.halved_of_none s x o boundary, tracked]
    exact port
  | true =>
    rw [State.halved_of_boundary s x o boundary, tracked]
    exact port

theorem State.halved_refs : ((s.halved x o).gen.get f).refs = (s.gen.get f).refs := by
  have taken : ((s.sampleTaken x o).gen.get f).refs = (s.gen.get f).refs := by
    rw [State.sampleTaken_gen]
    unfold Generator.takeSample
    split <;> rfl
  rw [State.halved_gen]
  split
  · exact taken
  · exact taken

theorem State.halved_feedersInForce : (s.halved x o).inForce.feeders = (s.valuesAt o.writtenNow).feeders := by
  rw [(s.halved_read x o).1, State.sampleTaken_feeders]

end

section

variable {s v : State} {x : SampleInput} {o : Orders} {f : Feeder} (h : s.SendsFrom v x o f)
include h

namespace State.SendsFrom

theorem port : v.port.get f = (s.port.get f).sampled (o.started.get f) := h.before.port.trans (s.halved_ports x o f)

theorem inForce : v.inForce = (s.halved x o).inForce := (congrArg Prod.fst h.before.measured :)

/-- R54, R56: the limit of the record. -/
theorem limit : v.effectiveLimit f =
    if (s.port.get f).derate then ((s.valuesAt o.writtenNow).feeders.get f).injLimit / 2
    else ((s.valuesAt o.writtenNow).feeders.get f).injLimit := by
  rw [State.effectiveLimit, h.inForce, State.halved_feedersInForce, h.port]
  rfl

theorem magnitude : v.magnitude = (s.instant x o).magnitude := by
  have before : v.magnitude = (s.halved x o).magnitude := (congrArg (fun m => m.2.2.1) h.before.measured :)
  rw [before, State.instant_magnitude]

theorem index : v.tracker.index = (s.instant x o).tracker.index := by
  have before : v.tracker.index = (s.halved x o).tracker.index := (congrArg (fun m => m.2.2.2.2.2.1.1) h.before.measured :)
  have after : (s.instant x o).tracker.index = (s.halved x o).tracker.index :=
    (congrArg (fun m => m.2.2.2.2.2.1.1) (s.instant_halved x o) :)
  rw [before, after]

/-- A feeder whose state and phase the instant keeps shows them at its record. -/
theorem stands (settled : s.settled) (state : ((s.instant x o).seq.get f).state = (s.seq.get f).state)
    (phase : ((s.instant x o).seq.get f).phase = (s.seq.get f).phase) :
    ((s.seq.get f).running → (v.seq.get f).state = (s.seq.get f).state ∧ (v.seq.get f).phase = (s.seq.get f).phase) ∧
      (¬ (s.seq.get f).running → ¬ (v.seq.get f).running) := by
  have before : Sequencer.Ages s.globals true ((s.seq.get f).ticked (o.started.get f)) (v.seq.get f) := by
    have aged := h.before.seq f
    rw [State.halved_seq_get settled, State.halved_globals settled] at aged
    exact aged
  have after : Sequencer.Ages (v.sendIfSending f (SampleSet.ofInput x).bus).globals true (v.seq.get f) ((s.instant x o).seq.get f) := by
    have aged := h.after.seq f
    obtain ⟨g, p, out⟩ := v.sendIfSending_eq f (SampleSet.ofInput x).bus
    have same : (v.sendIfSending f (SampleSet.ofInput x).bus).seq = v.seq := by rw [out]
    rw [same] at aged
    exact aged
  have last := Sequencer.stage_eq state phase
  refine ⟨fun run => ?_, fun idle run => idle ?_⟩
  · rcases before.goesOn run with more | ⟨state', phase', -⟩ | ⟨-, -, state', phase'⟩
    · have on := after.stage_le (Sequencer.running_of_stage_lt run more)
      exact absurd (more.trans_le on) (by rw [last]; exact lt_irrefl _)
    · exact ⟨state', phase'⟩
    · exact ⟨state', phase'⟩
  · have on := after.stage_le run
    have := Sequencer.phaseStage_le ((s.seq.get f).phase)
    unfold Sequencer.running Sequencer.stage at *
    omega

end State.SendsFrom

end

/-! ## The references a state calls for -/

section

variable {s v : State} {x : SampleInput} {o : Orders} {f : Feeder}

/-- R51, R52: the target of a phase in mode `m`. -/
def Values.targetOf (values : Values) (f : Feeder) (t : Nat) (mags : Option (Tri Nat)) (m : Mode) (p : Phase) : Nat :=
  if m = .full then values.globals.targetFull
  else min values.globals.targetFull (max ((values.classOf f).floorAt t) ((mags.map fun m => m.get p).getD 0))

theorem State.target_eq {m : Mode} (mode : (v.seq.get f).mode = some m) (p : Phase) :
    v.target f p = v.inForce.targetOf f v.detector.t v.magnitude.mags m p := by
  unfold State.target Values.targetOf
  rw [mode]
  cases m with
  | full => rfl
  | floor => cases v.magnitude.mags <;> rfl

/-- R94: the record outside engagement. -/
theorem State.recordOf_of_idle {bus : Tri Int} (out : v.participant f = false) :
    v.recordOf f bus = ⟨(v.seq.get f).command, (v.seq.get f).bypassCommand, Tri.all 0⟩ := by
  rw [State.recordOf, State.formReferences_of_idle out]

end

/-- Settles O19. A QUIET port's record place sends nothing; a sending port's record is that of the one state it is sent from
(`instant_sends`), whose feeder, t and mode are those of the state before where the instant leaves them. -/
theorem referenceRecordsFollowTheStateWithinTheLimit : Obligations.ReferenceRecordsFollowTheStateWithinTheLimit := by
  refine ⟨fun s x o f sampling silent => ?_, fun s x o f sampling sending => ?_⟩
  · obtain ⟨v, sends⟩ := s.instant_sends x o f
    have still : (v.port.get f).state = .quiet := by rw [sends.port]; exact silent
    obtain ⟨port, gen⟩ := State.sendIfSending_of_quiet (bus := (SampleSet.ofInput x).bus) still
    have port := sends.after.port.trans port
    refine ⟨_, exec_sampleSet_of_sampling sampling x o, by rw [port]; exact still, by rw [port], ?_⟩
    rw [sends.after.gen, gen, sends.before.gen]
    exact s.halved_refs x o f
  · intro values injLimit limit q
    obtain ⟨v, sends⟩ := s.instant_sends x o f
    have on : (v.port.get f).state ≠ .quiet := by rw [sends.port]; exact sending
    obtain ⟨sent, gen⟩ := State.sendIfSending_of_sending (bus := (SampleSet.ofInput x).bus) on
    have gen := sends.after.gen.trans gen
    have limited : v.effectiveLimit f = limit := sends.limit
    refine ⟨_, v.recordOf f (SampleSet.ofInput x).bus, exec_sampleSet_of_sampling sampling x o,
      (congrArg Port.sent sends.after.port).trans sent, by rw [gen]; rfl, fun p => limited ▸ v.formReferences_bounds p,
      Sequencer.run_of_open, fun command => State.formReferences_of_idle (Sequencer.disengaged_of_command command),
      (by rw [gen]; exact (v.seq.get f).recordTag_eq), ?_⟩
    intro settled state phase mode time away engaged target raw
    obtain ⟨running, resting⟩ := sends.stands settled state phase
    have inForce : v.inForce = values := by rw [sends.inForce, State.halved_inForce settled]
    have timed : v.detector.t = s.detector.t := by
      rcases sends.time with e | e
      · rw [e, State.halved_detector settled]
      · exact e.symm.trans time
    have moded : (v.seq.get f).mode = q.mode := by
      rcases sends.mode with e | e
      · exact e.trans (by rw [State.halved_seq_get settled]; rfl)
      · exact e.symm.trans mode
    have running' (h : q.state = .arming ∨ q.state = .injecting ∨ q.state = .releasing ∨ q.state = .faulted) :
        (v.seq.get f).state = q.state ∧ (v.seq.get f).phase = q.phase :=
      running (Sequencer.running_iff.mpr h)
    have idle (h : ¬ engaged) : v.participant f = false := by
      by_cases run : q.running
      · have state := (running run).1
        rw [State.participant, state]
        exact FeederState.disengaged h
      · exact Sequencer.disengaged_of_rest (resting run)
    have out (h : away) : v.participant f = false := idle (by rcases h with e | e <;> rintro (e' | e') <;> rw [e] at e' <;> cases e')
    refine ⟨fun rests => ?_, fun arming => ?_, fun injecting => ?_, fun gone phase' => ?_, fun gone phase' => ?_,
      fun faulted phase' => ?_, fun m active mode' => ?_, fun h => ?_⟩
    · have rest := resting (by unfold Sequencer.running; rcases rests with e | e <;> rw [show (s.seq.get f).state = _ from e] <;> decide)
      rw [State.recordOf_of_idle (Sequencer.disengaged_of_rest rest)]
      obtain ⟨command, bypass⟩ := Sequencer.command_of_rest rest
      rw [command, bypass]
    · obtain ⟨state', -⟩ := running' (.inl arming)
      simp [State.recordOf, Sequencer.command, Sequencer.bypassCommand, state', arming]
    · obtain ⟨state', -⟩ := running' (.inr (.inl injecting))
      simp [State.recordOf, Sequencer.command, Sequencer.bypassCommand, state', injecting]
    · obtain ⟨state', phase''⟩ := running' (.inr (.inr gone))
      rw [State.recordOf_of_idle (out gone)]
      rcases gone with e | e <;> rcases phase' with p | p <;>
        simp [Sequencer.command, Sequencer.bypassCommand, state', phase'', e, p]
    · obtain ⟨state', phase''⟩ := running' (.inr (.inr gone))
      rw [State.recordOf_of_idle (out gone)]
      rcases gone with e | e <;> simp [Sequencer.command, Sequencer.bypassCommand, state', phase'', e, phase']
    · obtain ⟨state', phase''⟩ := running' (.inr (.inr (.inr faulted)))
      rw [State.recordOf_of_idle (out (.inr faulted))]
      simp [Sequencer.command, Sequencer.bypassCommand, state', phase'', faulted, phase']
    · have part : v.participant f = true := by
        rw [State.participant, (running' (by rcases active with e | e <;> simp [e])).1]
        rcases active with e | e <;> rw [e] <;> rfl
      have targeted (p : Phase) : v.target f p = target m p := by
        rw [State.target_eq (moded.trans mode') p, inForce, timed, sends.magnitude]
        cases m <;> rfl
      have same (p : Phase) : v.rawReference f (SampleSet.ofInput x).bus p = raw m p := by
        rw [State.rawReference, inForce, targeted, sends.index, roundDiv_thousand]
      refine ⟨fun p => ?_, ?_⟩
      · change (v.formReferences f _).get p = _
        rw [State.formReferences_of_engaged part, State.liveReference, limited, same]
        unfold clampInt
        omega
      · rw [gen]
        change (v.participant f && v.liveClamped f _) = true ↔ _
        rw [part, Bool.true_and, State.liveClamped_iff, limited]
        simp only [same]
    · rw [gen]
      change (v.participant f && v.liveClamped f _) = false
      rw [idle h, Bool.false_and]

end Sys2Proof.Machine
end

section
/-! SUPPORT. The units of an allocation point (R80, R81): which claims stand for which feeders and groups, and that a feeder
is named by one at most. -/

namespace Sys2Proof.Machine

open Sys2Proof

/-! ## Groups and feeders -/

theorem FeederSet.mem_members (v : FeederSet) (f : Feeder) : f ∈ v.members ↔ v.get f = true := by
  simp [FeederSet.members, Feeder.mem_list]

theorem GroupNo.mem_list (g : GroupNo) : g ∈ GroupNo.list := by cases g <;> decide

section

variable {s : State} {f : Feeder} {g : GroupNo}

theorem State.groupOf_none_iff : s.groupOf f = none ↔ ∀ g, (s.groups.get g).members.get f = false := by
  simp [State.groupOf, List.find?_eq_none, GroupNo.mem_list]

theorem State.member_of_groupOf (h : s.groupOf f = some g) : (s.groups.get g).members.get f = true :=
  List.find?_some (p := fun g => (s.groups.get g).members.get f) h

theorem State.groupOf_of_member (disjoint : groupsDisjoint s.groups) (member : (s.groups.get g).members.get f = true) :
    s.groupOf f = some g := by
  cases h : s.groupOf f with
  | none => rw [State.groupOf_none_iff.mp h g] at member; cases member
  | some k => rw [disjoint k g f (State.member_of_groupOf h) member]

theorem State.participant_of_available (h : s.available f = true) : s.participant f = false := by
  rw [State.participant, ((s.available_iff f).mp h).1]
  rfl

theorem State.available_of_candidate {k : PointKind} (h : s.candidate k f = true) : s.available f = true :=
  (Bool.and_eq_true_iff.mp h).1

end

/-! ## The claims of an allocation point -/

/-- The feeders of a claim. -/
def Claim.feeders (c : Claim) : List Feeder := c.members.map (·.feeder)

theorem UnitGrant.claim_feeders (u : UnitGrant) : u.claim.feeders = u.feeders := rfl

section

variable (s : State) (k : PointKind) (began : Four Group) (released : GroupNo → Bool)

/-- R80: the unit of an ungrouped feeder. -/
def State.aloneClaim (f : Feeder) : Claim :=
  ⟨none, (s.bankEntry f).level, s.candidate k f, [s.forecast k.isBoundary f]⟩

/-- R80: the candidate unit of a group. -/
def State.joiningClaim (g : GroupNo) : Claim :=
  ⟨some g, (s.groups.get g).level, true, ((s.groups.get g).members.members.filter s.available).map (s.forecast k.isBoundary)⟩

/-- R80: the engaged members of a group that take part. -/
def State.partsOf (g : GroupNo) : List Feeder := (s.groups.get g).engaged.members.filter s.participant

/-- R80: the participant unit of a group. -/
def State.stayingClaim (g : GroupNo) : Claim :=
  ⟨some g, (s.groups.get g).level, false, (s.partsOf g).map (s.forecast k.isBoundary)⟩

/-- R80: a group in IDLE with a candidate, and none of whose members keeps it from engaging. -/
def State.joins (g : GroupNo) : Prop :=
  (began.get g).state = .idle ∧ (∃ f, (s.groups.get g).members.get f = true ∧ s.candidate k f = true) ∧ s.standsBy g = false

/-- R80: an engaged group that goes on with the members that take part. -/
def State.goesOnWith (g : GroupNo) : Prop :=
  ((began.get g).state = .engaging ∨ (began.get g).state = .active) ∧ released g = false ∧ s.partsOf g ≠ []

theorem State.forecast_feeder (b : Bool) (f : Feeder) : (s.forecast b f).feeder = f := rfl

theorem State.aloneClaim_feeders (f : Feeder) : (s.aloneClaim k f).feeders = [f] := rfl

theorem State.joiningClaim_feeders (g : GroupNo) :
    (s.joiningClaim k g).feeders = (s.groups.get g).members.members.filter s.available := by
  simp [State.joiningClaim, Claim.feeders, Function.comp_def, State.forecast_feeder]

theorem State.stayingClaim_feeders (g : GroupNo) : (s.stayingClaim k g).feeders = s.partsOf g := by
  simp [State.stayingClaim, Claim.feeders, Function.comp_def, State.forecast_feeder]

theorem State.mem_partsOf (g : GroupNo) (f : Feeder) :
    f ∈ s.partsOf g ↔ (s.groups.get g).engaged.get f = true ∧ s.participant f = true := by
  simp [State.partsOf, FeederSet.mem_members]

/-- R80: the claim of a feeder. -/
theorem State.feederClaim_eq (f : Feeder) : (s.groupOf f = none ∧ (s.candidate k f = true ∨ s.participant f = true) ∧
      s.feederClaim k f = [s.aloneClaim k f]) ∨
    (¬ (s.groupOf f = none ∧ (s.candidate k f = true ∨ s.participant f = true)) ∧ s.feederClaim k f = []) := by
  unfold State.feederClaim State.aloneClaim
  cases group : s.groupOf f with
  | some g => exact .inr ⟨fun h => absurd h.1 nofun, rfl⟩
  | none =>
    cases candidate : s.candidate k f with
    | true => exact .inl ⟨rfl, .inl rfl, rfl⟩
    | false =>
      cases part : s.participant f with
      | true => exact .inl ⟨rfl, .inr rfl, rfl⟩
      | false => exact .inr ⟨fun h => by simp at h, rfl⟩

/-- R80: the claim of a group. -/
theorem State.groupClaim_eq (g : GroupNo) : (s.joins k began g ∧ s.groupClaim k began released g = [s.joiningClaim k g]) ∨
    (s.goesOnWith began released g ∧ s.groupClaim k began released g = [s.stayingClaim k g]) ∨
    (¬ s.joins k began g ∧ ¬ s.goesOnWith began released g ∧ s.groupClaim k began released g = []) := by
  have candidates : ((s.groups.get g).members.members.any fun f => s.candidate k f) = true ↔
      ∃ f, (s.groups.get g).members.get f = true ∧ s.candidate k f = true := by
    simp [List.any_eq_true, FeederSet.mem_members]
  have parts : (s.partsOf g).isEmpty = false ↔ s.partsOf g ≠ [] := by simp
  unfold State.groupClaim State.joins State.goesOnWith
  change _ ∨ _ ∨ _
  cases state : (began.get g).state with
  | idle =>
    by_cases may : (∃ f, (s.groups.get g).members.get f = true ∧ s.candidate k f = true) ∧ s.standsBy g = false
    · refine .inl ⟨⟨rfl, may.1, may.2⟩, ?_⟩
      dsimp only
      rw [if_pos (by rw [candidates.mpr may.1, may.2]; rfl)]
      rfl
    · refine .inr (.inr ⟨fun h => may ⟨h.2.1, h.2.2⟩, fun h => by simp at h, ?_⟩)
      dsimp only
      refine if_neg fun h => may ?_
      rw [Bool.and_eq_true, candidates, Bool.not_eq_true'] at h
      exact h
  | abandoned => exact .inr (.inr ⟨fun h => absurd h.1 nofun, fun h => by simp at h, rfl⟩)
  | engaging | active =>
    by_cases may : released g = false ∧ s.partsOf g ≠ []
    · refine .inr (.inl ⟨⟨by simp, may.1, may.2⟩, ?_⟩)
      dsimp only
      refine (if_neg ?_).trans rfl
      change ¬ (released g || (s.partsOf g).isEmpty) = true
      rw [may.1, parts.mpr may.2]
      exact nofun
    · refine .inr (.inr ⟨fun h => absurd h.1 nofun, fun h => may ⟨h.2.1, h.2.2⟩, ?_⟩)
      dsimp only
      refine if_pos ?_
      change (released g || (s.partsOf g).isEmpty) = true
      by_cases gone : released g = true
      · rw [gone, Bool.true_or]
      · rw [Bool.not_eq_true] at gone
        by_contra h
        rw [gone, Bool.false_or, Bool.not_eq_true] at h
        exact may ⟨gone, parts.mp h⟩

theorem State.mem_claims (c : Claim) : c ∈ s.claims k began released ↔
    (∃ f, s.groupOf f = none ∧ (s.candidate k f = true ∨ s.participant f = true) ∧ c = s.aloneClaim k f) ∨
      ∃ g, s.joins k began g ∧ c = s.joiningClaim k g ∨ s.goesOnWith began released g ∧ c = s.stayingClaim k g := by
  have alone (f : Feeder) : c ∈ s.feederClaim k f ↔
      s.groupOf f = none ∧ (s.candidate k f = true ∨ s.participant f = true) ∧ c = s.aloneClaim k f := by
    rcases s.feederClaim_eq k f with ⟨out, may, e⟩ | ⟨none, e⟩
    · rw [e, List.mem_singleton]
      exact ⟨fun h => ⟨out, may, h⟩, fun h => h.2.2⟩
    · rw [e]
      exact ⟨fun h => absurd h List.not_mem_nil, fun h => absurd ⟨h.1, h.2.1⟩ none⟩
  have apart (g : GroupNo) (a : s.joins k began g) (b : s.goesOnWith began released g) : False := by
    rcases b.1 with h | h <;> rw [a.1] at h <;> cases h
  have together (g : GroupNo) : c ∈ s.groupClaim k began released g ↔
      s.joins k began g ∧ c = s.joiningClaim k g ∨ s.goesOnWith began released g ∧ c = s.stayingClaim k g := by
    rcases s.groupClaim_eq k began released g with ⟨may, e⟩ | ⟨may, e⟩ | ⟨no, no', e⟩
    · rw [e, List.mem_singleton]
      exact ⟨fun h => .inl ⟨may, h⟩, fun h => h.elim And.right fun h => (apart g may h.1).elim⟩
    · rw [e, List.mem_singleton]
      exact ⟨fun h => .inr ⟨may, h⟩, fun h => h.elim (fun h => (apart g h.1 may).elim) And.right⟩
    · rw [e]
      exact ⟨fun h => absurd h List.not_mem_nil, fun h => h.elim (fun h => absurd h.1 no) fun h => absurd h.1 no'⟩
  rw [State.claims, (orderClaims_perm _).mem_iff, List.mem_append, List.mem_flatMap, List.mem_flatMap]
  simp only [alone, together, Feeder.mem_list, GroupNo.mem_list, true_and]

theorem State.mem_grantList (c : Claim) : (∃ u ∈ s.grantList k began released, u.claim = c) ↔ c ∈ s.claims k began released := by
  rw [← s.grantList_claims, List.mem_map]

/-! ## A feeder in one claim at most -/

/-- Of a list of claims, one at most names the feeder. -/
def Claim.once (l : List Claim) (f : Feeder) : Prop := l.Pairwise fun a b => ¬ (f ∈ a.feeders ∧ f ∈ b.feeders)

theorem Claim.once_of_short {l : List Claim} (h : l = [] ∨ ∃ c, l = [c]) (f : Feeder) : Claim.once l f := by
  rcases h with rfl | ⟨c, rfl⟩
  · exact .nil
  · exact List.pairwise_singleton _ _

/-- What names a feeder is the claim of its group, or its own. -/
theorem State.claims_once {f : Feeder}
    (homed : ∀ g, ∀ c ∈ s.groupClaim k began released g, f ∈ c.feeders → s.groupOf f = some g) :
    Claim.once (s.claims k began released) f := by
  have symm {a b : Claim} (h : ¬ (f ∈ a.feeders ∧ f ∈ b.feeders)) : ¬ (f ∈ b.feeders ∧ f ∈ a.feeders) := fun e => h e.symm
  have own (h : Feeder) (c : Claim) (mem : c ∈ s.feederClaim k h) (named : f ∈ c.feeders) : h = f ∧ s.groupOf f = none := by
    rcases s.feederClaim_eq k h with ⟨out, -, e⟩ | ⟨-, e⟩
    · rw [e, List.mem_singleton] at mem
      rw [mem, State.aloneClaim_feeders, List.mem_singleton] at named
      exact ⟨named.symm, named ▸ out⟩
    · rw [e] at mem
      exact absurd mem List.not_mem_nil
  refine (List.Perm.pairwise_iff symm (orderClaims_perm _)).mpr (List.pairwise_append.mpr
    ⟨List.pairwise_flatMap.mpr ⟨fun h _ => ?_, ?_⟩, List.pairwise_flatMap.mpr ⟨fun g _ => ?_, ?_⟩, fun a mem b mem' h => ?_⟩)
  · refine Claim.once_of_short ?_ f
    rcases s.feederClaim_eq k h with ⟨-, -, e⟩ | ⟨-, e⟩
    · exact .inr ⟨_, e⟩
    · exact .inl e
  · refine Feeder.list_nodup.imp fun {h h'} ne a mem b mem' named => ne ?_
    rw [(own h a mem named.1).1, (own h' b mem' named.2).1]
  · refine Claim.once_of_short ?_ f
    rcases s.groupClaim_eq k began released g with ⟨-, e⟩ | ⟨-, e⟩ | ⟨-, -, e⟩
    · exact .inr ⟨_, e⟩
    · exact .inr ⟨_, e⟩
    · exact .inl e
  · refine GroupNo.list_nodup.imp fun {g g'} ne a mem b mem' named => ne ?_
    exact Option.some.inj ((homed g a mem named.1).symm.trans (homed g' b mem' named.2))
  · obtain ⟨h', -, mem⟩ := List.mem_flatMap.mp mem
    obtain ⟨g, -, mem'⟩ := List.mem_flatMap.mp mem'
    exact absurd ((own h' a mem h.1).2.symm.trans (homed g b mem' h.2)) nofun

/-- R80, R132, R136: with disjoint groups and engaged sets within them, every feeder is named once. -/
theorem State.claims_once_of_disjoint (disjoint : groupsDisjoint s.groups) (within : engagedWithin s.groups) (f : Feeder) :
    Claim.once (s.claims k began released) f := by
  refine s.claims_once k began released fun g c mem named => State.groupOf_of_member disjoint ?_
  rcases s.groupClaim_eq k began released g with ⟨-, e⟩ | ⟨-, e⟩ | ⟨-, -, e⟩
  · rw [e, List.mem_singleton] at mem
    rw [mem, State.joiningClaim_feeders, List.mem_filter, FeederSet.mem_members] at named
    exact named.1
  · rw [e, List.mem_singleton] at mem
    rw [mem, State.stayingClaim_feeders, State.mem_partsOf] at named
    exact within g f named.1
  · rw [e] at mem
    exact absurd mem List.not_mem_nil

/-- An ungrouped feeder that takes no part is in no group's claim. -/
theorem State.claims_once_of_alone {f : Feeder} (out : s.groupOf f = none) (idle : s.participant f = false) :
    Claim.once (s.claims k began released) f := by
  refine s.claims_once k began released fun g c mem named => ?_
  rcases s.groupClaim_eq k began released g with ⟨-, e⟩ | ⟨-, e⟩ | ⟨-, -, e⟩
  · rw [e, List.mem_singleton] at mem
    rw [mem, State.joiningClaim_feeders, List.mem_filter, FeederSet.mem_members, State.groupOf_none_iff.mp out g] at named
    cases named.1
  · rw [e, List.mem_singleton] at mem
    rw [mem, State.stayingClaim_feeders, State.mem_partsOf, idle] at named
    cases named.2
  · rw [e] at mem
    exact absurd mem List.not_mem_nil

/-- Of a grant list, one unit at most names the feeder. -/
def UnitGrant.once (l : List UnitGrant) (f : Feeder) : Prop := l.Pairwise fun a b => ¬ (f ∈ a.feeders ∧ f ∈ b.feeders)

theorem State.grantList_once {f : Feeder} (h : Claim.once (s.claims k began released) f) :
    UnitGrant.once (s.grantList k began released) f := by
  rw [← s.grantList_claims] at h
  exact List.pairwise_map.mp h

end

theorem UnitGrant.once.unique {l : List UnitGrant} {f : Feeder} (once : UnitGrant.once l f) {a b : UnitGrant} (ha : a ∈ l)
    (hb : b ∈ l) (na : f ∈ a.feeders) (nb : f ∈ b.feeders) : a = b := by
  induction l with
  | nil => exact absurd ha List.not_mem_nil
  | cons u l ih =>
    obtain ⟨first, rest⟩ := List.pairwise_cons.mp once
    rcases List.mem_cons.mp ha with same | later
    · rcases List.mem_cons.mp hb with same' | later'
      · rw [same, same']
      · exact absurd ⟨same ▸ na, nb⟩ (first b later')
    · rcases List.mem_cons.mp hb with same' | later'
      · exact absurd ⟨same' ▸ nb, na⟩ (first a later)
      · exact ih rest later later'

end Sys2Proof.Machine
end

section
/-! SUPPORT. The grants of an allocation point delivered one after the other (R86, R87): what they make of a sequencer, of an
entry of the record and of a group that one unit at most names. -/

namespace Sys2Proof.Machine

open Sys2Proof
open State (SeqOnly)

/-! ## One unit at the record -/

/-- R40, R41, R42: what one unit's grant writes into the entry of a member with the sequencer `q`. -/
def UnitGrant.writesMember (u : UnitGrant) (q : Sequencer) (e : Entry) : Entry :=
  if u.candidate then u.grant.mode.elim e fun m => e.engage m
  else u.grant.mode.elim (if q.state.engaged then e.withRelease .starved else e) fun m =>
    if q.state.engaged = true ∧ q.mode ≠ some m then { e with lastMode := some m } else e

theorem Entry.engage_feeder (e : Entry) (m : Mode) : (e.engage m).feeder = e.feeder := congrArg Prod.fst (e.engage_facts m)

theorem UnitGrant.writesMember_feeder (u : UnitGrant) (q : Sequencer) (e : Entry) :
    (u.writesMember q e).feeder = e.feeder := by
  unfold UnitGrant.writesMember
  cases u.candidate with
  | true => cases u.grant.mode with
    | none => rfl
    | some m => exact e.engage_feeder m
  | false => cases u.grant.mode with
    | none =>
      simp only [Bool.false_eq_true, if_false, Option.elim_none]
      split
      · exact e.withRelease_feeder _
      · rfl
    | some m =>
      simp only [Bool.false_eq_true, if_false, Option.elim_some]
      split <;> rfl

/-- What one unit's grant writes into the entries. -/
def UnitGrant.writes (u : UnitGrant) (s : State) (e : Entry) : Entry :=
  if e.feeder ∈ u.feeders then u.writesMember (s.seq.get e.feeder) e else e

section

variable {s : State} {u : UnitGrant}

theorem State.participantGrant_detector (f : Feeder) (m : Mode) : (s.participantGrant f m).detector =
    if s.participant f && (s.seq.get f).mode != some m then s.detector.mapEntry f fun e => { e with lastMode := some m }
    else s.detector := by
  cases part : s.participant f with
  | false => rw [State.participantGrant_of_idle part]; rfl
  | true =>
    rw [State.participantGrant_of_engaged part]
    by_cases same : (s.seq.get f).mode = some m
    · simp [same]
    · simp [same]

/-- R40 to R42: the record after one unit's grant. -/
theorem State.deliverUnit_detector (nodup : u.feeders.Nodup) :
    (s.deliverUnit u).detector = s.detector.mapEntries (u.writes s) := by
  have still (h : ∀ e, u.writes s e = e) : s.detector = s.detector.mapEntries (u.writes s) :=
    (s.detector.mapEntries_of_same h).symm
  cases candidate : u.candidate <;> cases mode : u.grant.mode
  case true.none =>
    rw [State.deliverUnit_of_refused candidate mode]
    exact still fun e => by simp [UnitGrant.writes, UnitGrant.writesMember, candidate, mode]
  case true.some m =>
    have members : (u.feeders.foldl (fun s f => (s.candidateGrant f m).updateEntry f fun e => e.engage m) s).detector =
        s.detector.mapEntries (u.writes s) := by
      refine (foldl_notes (step := fun s f => (s.candidateGrant f m).updateEntry f fun e => e.engage m)
        (writes := fun _ _ => true) (c := fun _ e => e.engage m) (fun f t => ?_)
        (fun _ _ _ _ => rfl) (fun _ e => e.engage_feeder m) nodup s).trans ?_
      · rw [State.updateEntry_eq]
        have granted : (t.candidateGrant f m).detector = t.detector := by
          by_cases standby : (t.seq.get f).state = .standby
          · rw [State.candidateGrant_of_standby standby]
          · rw [State.candidateGrant_of_other standby]
        exact congrArg (fun d : Detector => d.mapEntry f fun e => e.engage m) granted
      · refine congrArg s.detector.mapEntries (funext fun e => ?_)
        simp [UnitGrant.writes, UnitGrant.writesMember, candidate, mode]
    rw [State.deliverUnit_of_candidate candidate mode, State.deliverCandidate]
    cases u.group with
    | none => exact members
    | some g => exact members
  case false.some m =>
    rw [State.deliverUnit_of_participant candidate mode]
    refine (foldl_notes (step := fun s f => s.participantGrant f m)
      (writes := fun f t => t.participant f && (t.seq.get f).mode != some m)
      (c := fun _ e => { e with lastMode := some m }) (fun f t => State.participantGrant_detector f m)
      (fun f h t ne => ?_) (fun _ _ => rfl) nodup s).trans ?_
    · have seq : (t.participantGrant h m).seq.get f = t.seq.get f :=
        congrArg Prod.fst (State.participantGrant_view_other ne m)
      simp only [State.participant, seq]
    · refine congrArg s.detector.mapEntries (funext fun e => ?_)
      by_cases named : e.feeder ∈ u.feeders
      · simp [UnitGrant.writes, UnitGrant.writesMember, candidate, mode, named, State.participant]
      · simp [UnitGrant.writes, named]
  case false.none =>
    rw [State.deliverUnit_of_starved candidate mode]
    have members (t : State) (seq : t.seq = s.seq) (detector : t.detector = s.detector) :
        (u.feeders.foldl (fun s f => s.release .nothing f .starved) t).detector = s.detector.mapEntries (u.writes s) := by
      simp only [State.release_of_group_wide (c := .starved) rfl]
      obtain ⟨m, out, -⟩ := t.freed_out nodup .starved
      refine (congrArg State.detector out).trans ?_
      rw [← detector]
      refine congrArg t.detector.mapEntries (funext fun e => ?_)
      by_cases named : e.feeder ∈ u.feeders
      · simp [State.freedEntry, UnitGrant.writes, UnitGrant.writesMember, candidate, mode, named, State.participant, seq]
      · simp [State.freedEntry, UnitGrant.writes, named]
    unfold State.deliverStarved
    cases u.group with
    | none => exact members s rfl rfl
    | some g =>
      have told : (s.starveGroup g).seq = s.seq ∧ (s.starveGroup g).detector = s.detector := by
        unfold State.starveGroup
        dsimp only
        split <;> exact ⟨rfl, rfl⟩
      exact members _ told.1 told.2

/-- R136, R142: a unit moves the group it is of, and no other. -/
theorem State.deliverUnit_groups {g : GroupNo} (other : u.group ≠ some g) :
    (s.deliverUnit u).groups.get g = s.groups.get g := by
  unfold State.deliverUnit
  split
  · next m _ _ =>
    have members : (u.feeders.foldl (fun s f => (s.candidateGrant f m).updateEntry f fun e => e.engage m) s).groups = s.groups :=
      foldl_keeps (P := fun t => t.groups = s.groups) (fun f t kept => by simpa using kept) _ s rfl
    unfold State.deliverCandidate
    cases group : u.group with
    | none => exact congrArg (fun v : Four Group => v.get g) members
    | some k =>
      refine (Four.get_set_ne _ _ fun same => other (by rw [group, same])).trans ?_
      rw [members]
  · rfl
  · next m _ _ =>
    have members : (u.feeders.foldl (fun s f => s.participantGrant f m) s).groups = s.groups :=
      foldl_keeps (P := fun t => t.groups = s.groups) (fun f t kept => by simpa using kept) _ s rfl
    rw [members]
  · have members (t : State) : (u.feeders.foldl (fun s f => s.release .nothing f .starved) t).groups = t.groups :=
      foldl_keeps (P := fun w => w.groups = t.groups) (fun f w kept => by
        rw [State.release_of_group_wide rfl]
        exact (w.releaseAlone_groups f _).trans kept) _ t rfl
    unfold State.deliverStarved
    cases group : u.group with
    | none => exact congrArg (fun v : Four Group => v.get g) (members s)
    | some k =>
      refine (congrArg (fun v : Four Group => v.get g) (members _)).trans ?_
      unfold State.starveGroup
      have ne : g ≠ k := fun same => other (by rw [group, same])
      dsimp only
      split
      · exact Four.get_set_ne _ _ ne
      · exact Four.get_set_ne _ _ ne
      · rfl
      · rfl

end

/-! ## The units in turn -/

/-- The grants of a list of units, delivered in turn. -/
def State.delivers (s : State) (l : List UnitGrant) : State := l.foldl (fun s u => s.deliverUnit u) s

section

variable {l : List UnitGrant} {f : Feeder}

/-- A grant leaves refusals and requests on their way alone. -/
theorem State.deliverUnit_requests (s : State) (u : UnitGrant) :
    (s.deliverUnit u).refusals = s.refusals ∧ (s.deliverUnit u).groupRequests = s.groupRequests := by
  have members (step : State → Feeder → State)
      (h : ∀ t f, (step t f).refusals = t.refusals ∧ (step t f).groupRequests = t.groupRequests) (t : State) :
      (u.feeders.foldl step t).refusals = t.refusals ∧ (u.feeders.foldl step t).groupRequests = t.groupRequests :=
    foldl_keeps (P := fun w => w.refusals = t.refusals ∧ w.groupRequests = t.groupRequests)
      (fun f w kept => ⟨(h w f).1.trans kept.1, (h w f).2.trans kept.2⟩) _ t ⟨rfl, rfl⟩
  unfold State.deliverUnit
  split
  · next m _ _ =>
    have granted := members (fun s f => (s.candidateGrant f m).updateEntry f fun e => e.engage m) (fun t f => by
      rw [State.updateEntry_eq]
      by_cases standby : (t.seq.get f).state = .standby
      · rw [State.candidateGrant_of_standby standby]
        exact ⟨rfl, rfl⟩
      · rw [State.candidateGrant_of_other standby]
        exact ⟨rfl, rfl⟩) s
    unfold State.deliverCandidate
    cases u.group with
    | none => exact granted
    | some g => exact granted
  · exact ⟨rfl, rfl⟩
  · next m _ _ =>
    exact members (fun s f => s.participantGrant f m) (fun t f => by
      cases part : t.participant f with
      | false => rw [State.participantGrant_of_idle part]; exact ⟨rfl, rfl⟩
      | true => rw [State.participantGrant_of_engaged part]; exact ⟨rfl, rfl⟩) s
  · have released := members (fun s f => s.release .nothing f .starved) fun t f => by
      rw [State.release_of_group_wide rfl]
      cases part : t.participant f with
      | false => rw [State.releaseAlone_of_idle part]; exact ⟨rfl, rfl⟩
      | true => rw [State.releaseAlone_eq part]; exact ⟨rfl, rfl⟩
    unfold State.deliverStarved
    cases u.group with
    | none => exact released s
    | some g =>
      have told : (s.starveGroup g).refusals = s.refusals ∧ (s.starveGroup g).groupRequests = s.groupRequests := by
        unfold State.starveGroup
        dsimp only
        split <;> exact ⟨rfl, rfl⟩
      exact ⟨(released _).1.trans told.1, (released _).2.trans told.2⟩

theorem State.deliverUnit_keeps (s : State) (u : UnitGrant) :
    (s.deliverUnit u).globals = s.globals ∧ (s.deliverUnit u).eventOpen = s.eventOpen ∧
      (s.deliverUnit u).arbiter = s.arbiter ∧ (s.deliverUnit u).refusals = s.refusals ∧
      (s.deliverUnit u).groupRequests = s.groupRequests := by
  have only := s.deliverUnit_seqOnly u
  obtain ⟨refusals, requests⟩ := s.deliverUnit_requests u
  exact ⟨(congrArg State.globals only.rest :), (congrArg (fun d : Detector => d.state.eventOpen) only.detector :),
    (congrArg State.arbiter only.rest :), refusals, requests⟩

/-- A feeder that no unit names. -/
theorem State.delivers_seq_out (s : State) (out : ∀ u ∈ l, f ∉ u.feeders) : (s.delivers l).seq.get f = s.seq.get f := by
  induction l generalizing s with
  | nil => rfl
  | cons u l ih =>
    rw [List.forall_mem_cons] at out
    refine (ih (s.deliverUnit u) out.2).trans ?_
    rw [State.deliverUnit_seq, if_neg out.1]

/-- A feeder that one unit names. -/
theorem State.delivers_seq (s : State) (once : UnitGrant.once l f) {u : UnitGrant} (mem : u ∈ l) (named : f ∈ u.feeders) :
    (s.delivers l).seq.get f = u.atMember s.globals s.eventOpen (s.seq.get f) := by
  induction l generalizing s with
  | nil => exact absurd mem List.not_mem_nil
  | cons a l ih =>
    obtain ⟨first, rest⟩ := List.pairwise_cons.mp once
    change ((s.deliverUnit a).delivers l).seq.get f = _
    rcases List.mem_cons.mp mem with rfl | later
    · rw [State.delivers_seq_out _ fun b mem' named' => first b mem' ⟨named, named'⟩, State.deliverUnit_seq, if_pos named]
    · obtain ⟨globals, opened, -⟩ := s.deliverUnit_keeps a
      rw [ih _ rest later, globals, opened, State.deliverUnit_seq, if_neg fun named' => first u later ⟨named', named⟩]

/-- The record after the grants: an entry that no unit names stands, one that a single unit names is as that unit leaves
it. -/
theorem State.delivers_detector (s : State) (nodup : ∀ u ∈ l, u.feeders.Nodup) : ∃ w : Entry → Entry,
    (s.delivers l).detector = s.detector.mapEntries w ∧ (∀ e, (w e).feeder = e.feeder) ∧
      (∀ e, (∀ u ∈ l, e.feeder ∉ u.feeders) → w e = e) ∧
      ∀ e, UnitGrant.once l e.feeder → ∀ u ∈ l, e.feeder ∈ u.feeders → w e = u.writesMember (s.seq.get e.feeder) e := by
  induction l generalizing s with
  | nil =>
    exact ⟨id, (s.detector.mapEntries_of_same fun _ => rfl).symm, fun _ => rfl, fun _ _ => rfl,
      fun e _ u mem => absurd mem List.not_mem_nil⟩
  | cons a l ih =>
    rw [List.forall_mem_cons] at nodup
    obtain ⟨w, out, feeder, none, one⟩ := ih (s.deliverUnit a) nodup.2
    have stays (e : Entry) : (a.writes s e).feeder = e.feeder := by
      unfold UnitGrant.writes
      split
      · exact a.writesMember_feeder _ e
      · rfl
    refine ⟨w ∘ a.writes s, ?_, fun e => (feeder _).trans (stays e), fun e free => ?_, fun e once u mem named => ?_⟩
    · refine (show (s.delivers (a :: l)).detector = ((s.deliverUnit a).delivers l).detector from rfl).trans ?_
      rw [out, State.deliverUnit_detector nodup.1, Detector.mapEntries_mapEntries]
    · rw [List.forall_mem_cons] at free
      have same : a.writes s e = e := if_neg free.1
      rw [Function.comp_apply, same, none e free.2]
    · obtain ⟨first, rest⟩ := List.pairwise_cons.mp once
      rcases List.mem_cons.mp mem with rfl | later
      · have own : u.writes s e = u.writesMember (s.seq.get e.feeder) e := if_pos named
        rw [Function.comp_apply, none _ fun b mem' named' => first b mem' ⟨named, (stays e) ▸ named'⟩, own]
      · have other : e.feeder ∉ a.feeders := fun named' => first u later ⟨named', named⟩
        have same : a.writes s e = e := if_neg other
        rw [Function.comp_apply, same, one e rest u later named, State.deliverUnit_seq, if_neg other]

/-- A group that no unit is of. -/
theorem State.delivers_groups (s : State) {g : GroupNo} (out : ∀ u ∈ l, u.group ≠ some g) :
    (s.delivers l).groups.get g = s.groups.get g := by
  induction l generalizing s with
  | nil => rfl
  | cons u l ih =>
    rw [List.forall_mem_cons] at out
    exact (ih (s.deliverUnit u) out.2).trans (State.deliverUnit_groups out.1)

/-- What the grants leave alone. -/
theorem State.delivers_keeps (s : State) (l : List UnitGrant) :
    (s.delivers l).globals = s.globals ∧ (s.delivers l).eventOpen = s.eventOpen ∧
      (s.delivers l).arbiter = s.arbiter ∧ (s.delivers l).refusals = s.refusals ∧
      (s.delivers l).groupRequests = s.groupRequests := by
  induction l generalizing s with
  | nil => exact ⟨rfl, rfl, rfl, rfl, rfl⟩
  | cons u l ih =>
    obtain ⟨a, b, c, d, e⟩ := ih (s.deliverUnit u)
    obtain ⟨a', b', c', d', e'⟩ := s.deliverUnit_keeps u
    exact ⟨a.trans a', b.trans b', c.trans c', d.trans d', e.trans e'⟩

end

end Sys2Proof.Machine
end

section
/-! SUPPORT. The releases of a boundary's allocation point (R74), written out. -/

namespace Sys2Proof.Machine

open Sys2Proof

/-! ## Feeders released -/

/-- R101: the participants among some feeders released with one cause, and nothing else done. -/
structure State.Frees (c : Cause) (p : Feeder → Prop) (s t : State) : Prop where
  rest : { t with seq := s.seq, detector := s.detector, link := s.link } = s
  released : ∀ f, p f → s.participant f = true → t.seq.get f = (s.seq.get f).released s.globals c s.eventOpen
  others : ∀ f, ¬ (p f ∧ s.participant f = true) → t.seq.get f = s.seq.get f
  record : ∃ w : Entry → Entry, t.detector = s.detector.mapEntries w ∧
    (∀ e, p e.feeder → s.participant e.feeder = true → w e = e.withRelease c) ∧
    ∀ e, ¬ (p e.feeder ∧ s.participant e.feeder = true) → w e = e

open State (Frees)

namespace State.Frees

variable {c : Cause} {p q : Feeder → Prop} {s t u : State}

theorem globals (h : Frees c p s t) : t.globals = s.globals := (congrArg State.globals h.rest :)

theorem eventOpen (h : Frees c p s t) : t.eventOpen = s.eventOpen := by
  obtain ⟨w, out, -⟩ := h.record
  rw [State.eventOpen, out]
  rfl

theorem participant (h : Frees c p s t) (f : Feeder) : t.participant f = true ↔ s.participant f = true ∧ ¬ p f := by
  by_cases goes : p f ∧ s.participant f = true
  · rw [State.participant, h.released f goes.1 goes.2]
    exact ⟨fun e => absurd e nofun, fun e => absurd goes.1 e.2⟩
  · rw [State.participant, h.others f goes]
    exact ⟨fun e => ⟨e, fun a => goes ⟨a, e⟩⟩, And.left⟩

theorem refl (s : State) : Frees c (fun _ => False) s s :=
  ⟨rfl, fun _ h => h.elim, fun _ _ => rfl, id, (s.detector.mapEntries_of_same fun _ => rfl).symm, fun _ h => h.elim,
    fun _ _ => rfl⟩

theorem congr (h : Frees c p s t) (same : ∀ f, s.participant f = true → (p f ↔ q f)) : Frees c q s t := by
  obtain ⟨w, out, mine, other⟩ := h.record
  have iff (f : Feeder) : q f ∧ s.participant f = true ↔ p f ∧ s.participant f = true :=
    ⟨fun a => ⟨(same f a.2).mpr a.1, a.2⟩, fun a => ⟨(same f a.2).mp a.1, a.2⟩⟩
  exact ⟨h.rest, fun f a part => h.released f ((same f part).mpr a) part, fun f out => h.others f ((iff f).not.mp out),
    w, out, fun e a part => mine e ((same _ part).mpr a) part, fun e out => other e ((iff _).not.mp out)⟩

theorem trans (a : Frees c p s t) (b : Frees c q t u) : Frees c (fun f => p f ∨ q f) s u := by
  obtain ⟨w, out, mine, other⟩ := a.record
  obtain ⟨w', out', mine', other'⟩ := b.record
  refine ⟨(congrArg (fun v => { v with seq := s.seq, detector := s.detector, link := s.link }) b.rest).trans a.rest,
    fun f may part => ?_, fun f stays => ?_, w' ∘ w, ?_, fun e may part => ?_, fun e stays => ?_⟩
  · by_cases first : p f
    · rw [b.others f fun h => ((a.participant f).mp h.2).2 first, a.released f first part]
    · rw [b.released f (may.resolve_left first) ((a.participant f).mpr ⟨part, first⟩), a.others f fun h => first h.1,
        a.globals, a.eventOpen]
  · rw [b.others f fun h => stays ⟨.inr h.1, ((a.participant f).mp h.2).1⟩, a.others f fun h => stays ⟨.inl h.1, h.2⟩]
  · rw [out', out, Detector.mapEntries_mapEntries]
  · by_cases first : p e.feeder
    · have feeder : (w e).feeder = e.feeder := by rw [mine e first part, Entry.withRelease_feeder]
      rw [Function.comp_apply, other' _ fun h => ((a.participant _).mp (feeder ▸ h.2)).2 first, mine e first part]
    · have same : w e = e := other e fun h => first h.1
      rw [Function.comp_apply, same, mine' e (may.resolve_left first) ((a.participant _).mpr ⟨part, first⟩)]
  · have same : w e = e := other e fun h => stays ⟨.inl h.1, h.2⟩
    rw [Function.comp_apply, same, other' e fun h => stays ⟨.inr h.1, ((a.participant _).mp h.2).1⟩]

/-- A list of feeders released in turn. -/
theorem of_list (s : State) {l : List Feeder} (nodup : l.Nodup) (c : Cause) :
    Frees c (fun f => f ∈ l) s (l.foldl (fun s f => s.releaseAlone f c) s) := by
  obtain ⟨m, out, -⟩ := s.freed_out nodup c
  change Frees c _ s (s.freed l c)
  rw [out]
  refine ⟨rfl, fun f mem part => ?_, fun f stays => ?_, s.freedEntry l c, rfl, fun e mem part => if_pos ⟨mem, part⟩,
    fun e stays => if_neg stays⟩
  · exact (Six.get_of _ f).trans (if_pos ⟨mem, part⟩)
  · exact (Six.get_of _ f).trans (if_neg stays)

/-- Steps that each release some feeders, taken in turn. -/
theorem foldl {α : Type} {step : State → α → State} {p : α → Feeder → Prop}
    (h : ∀ a t, { t with seq := s.seq, detector := s.detector, link := s.link } = s → Frees c (p a) t (step t a))
    (l : List α) : Frees c (fun f => ∃ a ∈ l, p a f) s (l.foldl step s) := by
  suffices from' : ∀ (l : List α) (t : State), { t with seq := s.seq, detector := s.detector, link := s.link } = s →
      Frees c (fun f => ∃ a ∈ l, p a f) t (l.foldl step t) from from' l s rfl
  intro l
  induction l with
  | nil => exact fun t _ => (refl t).congr fun f _ => by simp
  | cons a l ih =>
    intro t same
    have first := h a t same
    have next : { step t a with seq := s.seq, detector := s.detector, link := s.link } = s :=
      (congrArg (fun v : State => { v with seq := s.seq, detector := s.detector, link := s.link }) first.rest).trans same
    exact (first.trans (ih _ next)).congr fun f _ => by simp

end State.Frees

/-! ## The releases of R74 -/

theorem FeederSet.members_nodup (v : FeederSet) : v.members.Nodup := Feeder.list_nodup.filter _

/-- R74: the feeders that a boundary's allocation point releases, where they take part. -/
def State.leaves (s : State) (which : GroupNo → Bool) (f : Feeder) : Prop :=
  s.groupOf f = none ∧ s.notNeeded f = true ∨ ∃ g, which g = true ∧ (s.groups.get g).engaged.get f = true

theorem State.releaseNotNeeded_frees (s : State) (which : GroupNo → Bool) :
    Frees .notNeeded (s.leaves which) s (s.releaseNotNeeded which) := by
  have alone (f : Feeder) (t : State) (same : { t with seq := s.seq, detector := s.detector, link := s.link } = s) :
      Frees .notNeeded (fun h => h = f ∧ s.groupOf f = none ∧ s.notNeeded f = true) t (t.releaseUngrouped f) := by
    have group : t.groupOf f = s.groupOf f :=
      (congrArg (fun v : State => v.groupOf f) same :)
    have served : t.notNeeded f = s.notNeeded f := (congrArg (fun v : State => v.notNeeded f) same :)
    unfold State.releaseUngrouped
    rw [group, served]
    split
    · next may =>
      simp only [Bool.and_eq_true, Option.isNone_iff_eq_none] at may
      rw [State.release_of_group_wide rfl]
      exact (Frees.of_list t (List.nodup_singleton f) .notNeeded).congr fun h _ => by simp [may.1.1, may.2]
    · next may =>
      refine (Frees.refl t).congr fun h part => ⟨False.elim, ?_⟩
      rintro ⟨rfl, out, enough⟩
      exact may (by rw [out, part, enough]; rfl)
  have together (g : GroupNo) (t : State) (same : { t with seq := s.seq, detector := s.detector, link := s.link } = s) :
      Frees .notNeeded (fun f => which g = true ∧ (s.groups.get g).engaged.get f = true) t
        (if which g then t.releaseGroup g else t) := by
    have groups : t.groups = s.groups := (congrArg State.groups same :)
    split
    · next may =>
      unfold State.releaseGroup
      simp only [State.release_of_group_wide (c := .notNeeded) rfl]
      refine (Frees.of_list t ((FeederSet.members_nodup _).filter _) .notNeeded).congr fun f part => ?_
      rw [List.mem_filter, FeederSet.mem_members, groups]
      simp [may, part]
    · next may => exact (Frees.refl t).congr fun f _ => ⟨False.elim, fun h => may h.1⟩
  have first := Frees.foldl (s := s) (step := fun s f => s.releaseUngrouped f) alone Feeder.list
  have second := Frees.foldl (s := Feeder.list.foldl (fun s f => s.releaseUngrouped f) s)
    (step := fun s g => if which g then s.releaseGroup g else s)
    (p := fun g f => which g = true ∧ (s.groups.get g).engaged.get f = true)
    (fun g t same => together g t ((congrArg (fun v : State => { v with seq := s.seq, detector := s.detector, link := s.link })
      same).trans first.rest)) GroupNo.list
  refine (first.trans second).congr fun f _ => ?_
  simp only [State.leaves, Feeder.mem_list, GroupNo.mem_list, true_and]
  exact or_congr ⟨fun ⟨h, e, a⟩ => e ▸ a, fun a => ⟨f, rfl, a⟩⟩ .rfl

end Sys2Proof.Machine
end

section
/-! SUPPORT. An allocation point written out (R73 to R91): the releases, the facts of the feeders that stand by, the grant list
with its budgets, and the grants. -/

namespace Sys2Proof.Machine

open Sys2Proof
open State (Frees SeqOnly)

section

variable (s : State) (k : PointKind)

/-! ## The stages of an allocation point -/

/-- R40: what a stood-by fact makes of an entry, if its feeder has one. -/
def Entry.stood (e : Entry) (r : Option StoodBy) : Entry := r.elim e e.standBy

theorem Entry.stood_feeder (e : Entry) (r : Option StoodBy) : (e.stood r).feeder = e.feeder := by
  cases r with
  | none => rfl
  | some r => exact congrArg Prod.fst (e.standBy_facts r)

theorem State.deliverStoodBy_out (began : Four Group) (units : List UnitGrant) : s.deliverStoodBy k began units =
    { s with detector := s.detector.mapEntries fun e => e.stood (s.stoodBy k began units e.feeder) } := by
  have rest : ∃ d, s.deliverStoodBy k began units = { s with detector := d } := by
    unfold State.deliverStoodBy
    refine foldl_keeps (P := fun t => ∃ d, t = { s with detector := d }) (fun f t ⟨d, e⟩ => ?_) _ s ⟨s.detector, rfl⟩
    dsimp only
    split
    · rw [State.updateEntry_eq, e]
      exact ⟨_, rfl⟩
    · exact ⟨d, e⟩
  have detector := foldl_notes (step := fun t f => if (s.stoodBy k began units f).isSome
      then t.updateEntry f fun e => e.stood (s.stoodBy k began units f) else t)
    (writes := fun f _ => (s.stoodBy k began units f).isSome) (c := fun f e => e.stood (s.stoodBy k began units f))
    (fun f t => by
      split
      · rw [State.updateEntry_eq]
      · rfl) (fun _ _ _ _ => rfl) (fun f e => e.stood_feeder _) Feeder.list_nodup s
  have same : s.deliverStoodBy k began units = Feeder.list.foldl (fun t f => if (s.stoodBy k began units f).isSome
      then t.updateEntry f fun e => e.stood (s.stoodBy k began units f) else t) s := by
    unfold State.deliverStoodBy forFeeders
    refine congrArg (fun step => Feeder.list.foldl step s) (funext₂ fun t f => ?_)
    beta_reduce
    split
    · next r e => rw [e]; rfl
    · next e => rw [e]; rfl
  obtain ⟨d, out⟩ := rest
  have written : d = s.detector.mapEntries fun e => e.stood (s.stoodBy k began units e.feeder) := by
    have field : d = (s.deliverStoodBy k began units).detector := by rw [out]
    rw [field, same, detector]
    refine congrArg s.detector.mapEntries (funext fun e => ?_)
    simp only [Feeder.mem_list, true_and]
    cases s.stoodBy k began units e.feeder <;> rfl
  rw [out, written]

/-- R143: a group told of its participants' release. -/
def Group.told (r : Group) : Group := if r.state = .engaging ∨ r.state = .active then { r with state := .idle } else r

theorem State.tellNotNeeded_out (which : GroupNo → Bool) : s.tellNotNeeded which =
    { s with groups := Four.of fun g => if which g then (s.groups.get g).told else s.groups.get g } := by
  have one (t : State) (g : GroupNo) : t.groupNotNeeded g = { t with groups := t.groups.set g (t.groups.get g).told } := by
    have still : t.groups.set g (t.groups.get g) = t.groups := Four.ext_get fun h => by
      by_cases same : h = g
      · rw [same, Four.get_set_self]
      · rw [Four.get_set_ne _ _ same]
    unfold State.groupNotNeeded Group.told
    dsimp only
    split
    · next e => rw [if_pos (.inl e)]; rfl
    · next e => rw [if_pos (.inr e)]; rfl
    · next e => rw [if_neg (by rw [e]; decide), still]
    · next e => rw [if_neg (by rw [e]; decide), still]
  have rest : ∃ v, s.tellNotNeeded which = { s with groups := v } := by
    unfold State.tellNotNeeded
    refine foldl_keeps (P := fun t => ∃ v, t = { s with groups := v }) (fun g t ⟨v, e⟩ => ?_) _ s ⟨s.groups, rfl⟩
    dsimp only
    split
    · rw [one, e]
      exact ⟨_, rfl⟩
    · exact ⟨v, e⟩
  obtain ⟨v, out⟩ := rest
  have each (g : GroupNo) : v.get g = if which g then (s.groups.get g).told else s.groups.get g := by
    have seen := foldl_view (step := fun g t => if which g then t.groupNotNeeded g else t) (f := g)
      (view := fun t => t.groups.get g) (own := fun r => if which g then r.told else r)
      (fun h t ne => by
        split
        · rw [one]
          exact Four.get_set_ne _ _ ne.symm
        · rfl) (fun t => by
        split
        · rw [one]
          exact Four.get_set_self _ _ _
        · rfl) GroupNo.list GroupNo.list_nodup s
    rw [if_pos (GroupNo.mem_list g)] at seen
    rw [← seen]
    exact congrArg (fun w : State => w.groups.get g) out.symm
  rw [out]
  congr 1
  exact Four.ext_get fun g => by rw [each, Four.get_of]

/-- R85, R91: the summary of a grant list. -/
def State.summaryOf (units : List UnitGrant) : Summary :=
  ⟨s.openNumber.getD 0, k, s.vret, s.store.quanta, s.globals.allocPolicy, s.globals.reserve, (units.map (·.quanta)).sum,
    s.store.quanta - (units.map (·.quanta)).sum, units⟩

/-- R73: the groups a boundary's allocation point releases. -/
def State.lets (g : GroupNo) : Bool := k.isBoundary && s.groupReleased g

/-! ## The point -/

/-- R73 to R91: an allocation point of `s` at which `r` is the state after its releases and `units` its grant list, and which
leaves `t`. -/
structure State.Pointed (s r t : State) (k : PointKind) (units : List UnitGrant) : Prop where
  frees : Frees .notNeeded (fun f => k.isBoundary = true ∧ s.leaves (s.lets k) f) s r
  grants : units = r.grantList k s.groups (s.lets k)
  arbiter : t.arbiter = { s.arbiter with
    flags := Six.of fun f => k.isBoundary && (r.seq.get f).state == .injecting
    summary := some (r.summaryOf k units), budgets := budgetsOf units }
  out : ∀ f, (∀ u ∈ units, f ∉ u.feeders) → t.seq.get f = r.seq.get f
  named : ∀ f, UnitGrant.once units f → ∀ u ∈ units, f ∈ u.feeders →
    t.seq.get f = u.atMember s.globals s.eventOpen (r.seq.get f)
  record : ∃ w : Entry → Entry, t.detector = r.detector.mapEntries w ∧ (∀ e, (w e).feeder = e.feeder) ∧
    (∀ e, (∀ u ∈ units, e.feeder ∉ u.feeders) → w e = e.stood (r.stoodBy k s.groups units e.feeder)) ∧
    ∀ e, UnitGrant.once units e.feeder → ∀ u ∈ units, e.feeder ∈ u.feeders →
      w e = u.writesMember (r.seq.get e.feeder) (e.stood (r.stoodBy k s.groups units e.feeder))
  groups : ∀ g, (∀ u ∈ units, u.group ≠ some g) →
    t.groups.get g = if s.lets k g then (s.groups.get g).told else s.groups.get g
  waiting : t.refusals = s.refusals ∧ t.groupRequests = s.groupRequests

theorem State.grantList_nodup (began : Four Group) (released : GroupNo → Bool) :
    ∀ u ∈ s.grantList k began released, u.feeders.Nodup := fun u mem => by
  have claim := (s.mem_claims k began released u.claim).mp ((s.mem_grantList k began released _).mp ⟨u, mem, rfl⟩)
  rw [← u.claim_feeders]
  rcases claim with ⟨f, -, -, e⟩ | ⟨g, ⟨-, e⟩ | ⟨-, e⟩⟩
  · rw [e, State.aloneClaim_feeders]
    exact List.nodup_singleton f
  · rw [e, State.joiningClaim_feeders]
    exact (FeederSet.members_nodup _).filter _
  · rw [e, State.stayingClaim_feeders]
    exact (FeederSet.members_nodup _).filter _

theorem State.allocate_eq (between : State → State) : s.allocate k between =
    let r := if k.isBoundary then s.releaseNotNeeded (s.lets k) else s
    let units := r.grantList k s.groups (s.lets k)
    (State.tellNotNeeded (between (((r.deliverStoodBy k s.groups units).setFlags k).keepGrants k units))
      (s.lets k)).delivers units := rfl

/-- An open record's number stands as its entries are written. -/
theorem State.openNumber_mapEntries (c : Entry → Entry) :
    State.openNumber { s with detector := s.detector.mapEntries c } = s.openNumber := by
  unfold State.openNumber Detector.mapEntries
  cases s.detector.record <;> rfl

/-- R73: an allocation point at which nothing is taken between the division and the deliveries. -/
theorem State.allocate_pointed {between : State → State} (still : ∀ t : State, t.refusals = s.refusals → between t = t) :
    ∃ r units, s.Pointed r (s.allocate k between) k units := by
  obtain ⟨r, isR⟩ : ∃ r, (if k.isBoundary then s.releaseNotNeeded (s.lets k) else s) = r := ⟨_, rfl⟩
  have frees : Frees .notNeeded (fun f => k.isBoundary = true ∧ s.leaves (s.lets k) f) s r := by
    rw [← isR]
    split
    · next b => exact (s.releaseNotNeeded_frees (s.lets k)).congr fun f _ => ⟨fun a => ⟨b, a⟩, And.right⟩
    · next b => exact (Frees.refl s).congr fun f _ => ⟨False.elim, fun a => b a.1⟩
  obtain ⟨units, isUnits⟩ : ∃ units, r.grantList k s.groups (s.lets k) = units := ⟨_, rfl⟩
  have nodup : ∀ u ∈ units, u.feeders.Nodup := isUnits ▸ r.grantList_nodup k s.groups (s.lets k)
  have refusals : r.refusals = s.refusals := (congrArg State.refusals frees.rest :)
  have requests : r.groupRequests = s.groupRequests := (congrArg State.groupRequests frees.rest :)
  have groups : r.groups = s.groups := (congrArg State.groups frees.rest :)
  have arbiter : r.arbiter = s.arbiter := (congrArg State.arbiter frees.rest :)
  have stood := r.deliverStoodBy_out k s.groups units
  obtain ⟨v, isV⟩ : ∃ v, (((r.deliverStoodBy k s.groups units).setFlags k).keepGrants k units).tellNotNeeded (s.lets k) = v :=
    ⟨_, rfl⟩
  have out : s.allocate k between = v.delivers units := by
    have kept : (((r.deliverStoodBy k s.groups units).setFlags k).keepGrants k units).refusals = s.refusals := by
      rw [stood]
      exact refusals
    rw [State.allocate_eq]
    dsimp only
    rw [isR, isUnits, still _ kept, isV]
  rw [State.tellNotNeeded_out, stood] at isV
  obtain ⟨globals', opened', arbiter', refusals', requests'⟩ := v.delivers_keeps units
  obtain ⟨w, written, feeder, none, one⟩ := v.delivers_detector nodup
  have seq : v.seq = r.seq := by rw [← isV]; rfl
  have globals : v.globals = s.globals := by rw [← isV]; exact frees.globals
  have opened : v.eventOpen = s.eventOpen := by rw [← isV]; exact frees.eventOpen
  have detector : v.detector = r.detector.mapEntries fun e => e.stood (r.stoodBy k s.groups units e.feeder) := by
    rw [← isV]
    rfl
  refine ⟨r, units, frees, isUnits.symm, ?_, fun f free => ?_, fun f once u mem named => ?_, ?_, fun g free => ?_, ?_⟩
  · rw [out, arbiter', ← isV]
    have number := r.openNumber_mapEntries fun e => e.stood (r.stoodBy k s.groups units e.feeder)
    rw [← arbiter]
    unfold State.summaryOf
    rw [← number]
    rfl
  · rw [out, v.delivers_seq_out free, seq]
  · rw [out, v.delivers_seq once mem named, seq, globals, opened]
  · refine ⟨w ∘ fun e => e.stood (r.stoodBy k s.groups units e.feeder), ?_, fun e => ?_, fun e free => ?_,
      fun e once u mem named => ?_⟩
    · rw [out, written, detector, Detector.mapEntries_mapEntries]
    · rw [Function.comp_apply, feeder, Entry.stood_feeder]
    · rw [Function.comp_apply, none _ fun u mem => by rw [Entry.stood_feeder]; exact free u mem]
    · have same := e.stood_feeder (r.stoodBy k s.groups units e.feeder)
      rw [Function.comp_apply, one _ (by rw [same]; exact once) u mem (by rw [same]; exact named), same, seq]
  · rw [out, v.delivers_groups free, ← isV]
    change Four.get (Four.of fun g => if s.lets k g then (r.groups.get g).told else r.groups.get g) g = _
    rw [Four.get_of, groups]
  · rw [out, refusals', requests', ← isV]
    exact ⟨refusals, requests⟩

end

end Sys2Proof.Machine
end

section
/-! SUPPORT. The summary of an allocation point as the statements read it (R77, R78, R81 to R85): its order, its needs, its
division and its budgets. -/

namespace Sys2Proof.Machine

open Sys2Proof

section

variable (s : State) (k : PointKind) (began : Four Group) (released : GroupNo → Bool)

/-! ## The members of a unit -/

theorem Feeder.list_ascending : Feeder.list.Pairwise fun f h => f.number < h.number := by decide

theorem FeederSet.members_ascending (v : FeederSet) : v.members.Pairwise fun f h => f.number < h.number :=
  Feeder.list_ascending.filter _

/-- R77, R81: a claim holds the forecasts of its feeders, in ascending number. -/
theorem State.claim_members {c : Claim} (mem : c ∈ s.claims k began released) :
    ∃ l : List Feeder, c.members = l.map (s.forecast k.isBoundary) ∧ l.Pairwise fun f h => f.number < h.number := by
  rcases (s.mem_claims k began released c).mp mem with ⟨f, -, -, e⟩ | ⟨g, ⟨-, e⟩ | ⟨-, e⟩⟩
  · exact ⟨[f], by rw [e]; rfl, List.pairwise_singleton _ _⟩
  · exact ⟨_, by rw [e]; rfl, (FeederSet.members_ascending _).filter _⟩
  · exact ⟨_, by rw [e]; rfl, (FeederSet.members_ascending _).filter _⟩

variable {s k began released}

theorem State.claim_mem_of_unit {u : UnitGrant} (mem : u ∈ s.grantList k began released) :
    u.claim ∈ s.claims k began released := (s.mem_grantList k began released _).mp ⟨u, mem, rfl⟩

/-- R77: a member of a unit has its feeder's forecast. -/
theorem State.member_forecast {u : UnitGrant} (mem : u ∈ s.grantList k began released) {d : Forecast} (own : d ∈ u.members) :
    d = s.forecast k.isBoundary d.feeder := by
  obtain ⟨l, members, -⟩ := s.claim_members k began released (State.claim_mem_of_unit mem)
  change u.members = _ at members
  rw [members, List.mem_map] at own
  obtain ⟨f, -, e⟩ := own
  rw [← e, State.forecast_feeder]

theorem State.forecast_onset (f : Feeder) :
    (s.forecast false f).full = (s.feeders.get f).onsetForecast ∧ (s.forecast false f).measured = false ∧
      (s.forecast false f).floor ≤ (s.forecast false f).full :=
  ⟨rfl, rfl, floorNeed_le _ _ _ _⟩

/-- R77: the forecast at a boundary is measured for a feeder that is INJECTING with its flag set, and for no other. -/
theorem State.forecast_boundary (f : Feeder) :
    let measured := (s.seq.get f).state = .injecting ∧ s.arbiter.flags.get f = true
    ((s.forecast true f).measured = true ↔ measured) ∧
      (measured → (s.forecast true f).full = max (s.gen.get f).closedQ 1) ∧
      (¬ measured → (s.forecast true f).full = (s.feeders.get f).onsetForecast) := by
  intro measured
  have test : (true && (s.seq.get f).state == .injecting && s.arbiter.flags.get f) = true ↔ measured := by simp [measured]
  have forecast : s.forecast true f = if measured
      then ⟨f, max (s.gen.get f).closedQ 1, true, floorNeed (max (s.gen.get f).closedQ 1) (s.floorNow f) (s.vret.getD 0)
        s.inForce.globals.targetFull⟩
      else ⟨f, (s.feeders.get f).onsetForecast, false, floorNeed (s.feeders.get f).onsetForecast (s.floorNow f)
        (s.vret.getD 0) s.inForce.globals.targetFull⟩ := by
    unfold State.forecast State.fullForecast
    by_cases h : measured
    · rw [if_pos h, if_pos (test.mpr h)]
    · rw [if_neg h, if_neg (test.not.mpr h)]
  rw [forecast]
  by_cases h : measured
  · simp [h]
  · simp [h]

/-! ## The division -/

/-- R81, R85: a unit of a grant list is its claim with the grant. -/
theorem State.unit_eq {u : UnitGrant} (mem : u ∈ s.grantList k began released) : u = u.claim.entry u.grant := by
  obtain ⟨x, -, e⟩ := List.mem_map.mp mem
  rw [← e]
  rfl

/-- R85: the granted quanta fit Q_avail. -/
theorem State.granted_le : ((s.grantList k began released).map (·.quanta)).sum ≤ s.store.quanta := by
  have fits := (divide_fits s.globals.allocPolicy s.globals.reserve s.store.quanta (s.claims k began released)).1
  refine Nat.le_trans (Nat.le_of_eq ?_) fits
  unfold need State.grantList
  rw [List.map_map]
  rfl

theorem State.summaryOf_divides :
    (s.summaryOf k (s.grantList k began released)).Divides s.inForce s.detector.t where
  ordered := by
    have order : (s.claims k began released).Pairwise Claim.atMost := orderClaims_ordered _
    rw [← s.grantList_claims] at order
    exact List.pairwise_map.mp order
  ascending u mem := by
    obtain ⟨l, members, ascending⟩ := s.claim_members k began released (State.claim_mem_of_unit mem)
    change u.members = _ at members
    rw [members]
    exact List.pairwise_map.mpr ascending
  needs u mem := by
    rw [State.unit_eq mem]
    exact ⟨rfl, rfl⟩
  grants := by
    change divide s.globals.allocPolicy s.globals.reserve s.store.quanta ((s.grantList k began released).map UnitGrant.claim) =
      (s.grantList k began released).map fun u => (u.claim, u.grant)
    rw [s.grantList_claims, s.grantList_divides]
  quanta u mem := by
    have own : u.quanta = u.claim.granted u.grant := by
      rw [State.unit_eq mem]
      rfl
    have needs : u.fullNeed = u.claim.fullNeed ∧ u.floorNeed = u.claim.floorNeed := by
      rw [State.unit_eq mem]
      exact ⟨rfl, rfl⟩
    rw [own, needs.1, needs.2]
    cases u.grant <;> rfl
  totals := ⟨rfl, Nat.add_sub_cancel' s.granted_le⟩
  floors v reading u mem d own := by
    rw [State.member_forecast mem own]
    obtain ⟨low, between, high, -⟩ := floorNeedFollowsItsTable s k.isBoundary d.feeder v reading
    exact ⟨low, between, high⟩

/-! ## The budgets -/

theorem UnitGrant.mem_feeders {u : UnitGrant} {f : Feeder} : f ∈ u.feeders ↔ ∃ d ∈ u.members, d.feeder = f := by
  simp [UnitGrant.feeders]

/-- R85: a member that its unit names once, in a list whose units name its feeder once. -/
theorem budgetsOf_get {units : List UnitGrant} {u : UnitGrant} {d : Forecast} (nodup : u.feeders.Nodup)
    (once : UnitGrant.once units d.feeder) (mem : u ∈ units) (own : d ∈ u.members) :
    (budgetsOf units).get d.feeder = d.budget u.grant := by
  have named : d.feeder ∈ u.feeders := UnitGrant.mem_feeders.mpr ⟨d, own, rfl⟩
  have found : u.members.find? (fun m => m.feeder = d.feeder) = some d := by
    cases e : u.members.find? (fun m => m.feeder = d.feeder) with
    | none => exact absurd (decide_eq_true rfl) (List.find?_eq_none.mp e d own)
    | some m =>
      have same : m.feeder = d.feeder := by simpa using List.find?_some e
      exact congrArg some (List.inj_on_of_nodup_map nodup (List.mem_of_find?_eq_some e) own same)
  rw [budgetsOf, Six.get_of]
  induction units with
  | nil => exact absurd mem List.not_mem_nil
  | cons a l ih =>
    obtain ⟨first, rest⟩ := List.pairwise_cons.mp once
    rw [List.findSome?_cons]
    rcases List.mem_cons.mp mem with same | later
    · subst same
      rw [found, Option.bind_some]
      cases e : d.budget u.grant with
      | some b => rfl
      | none =>
        refine List.findSome?_eq_none_iff.mpr fun b mem' => ?_
        rw [List.find?_eq_none.mpr fun m own' same => first b mem' ⟨named,
          UnitGrant.mem_feeders.mpr ⟨m, own', by simpa using same⟩⟩]
        rfl
    · rw [List.find?_eq_none.mpr fun m own' same => first u later
        ⟨UnitGrant.mem_feeders.mpr ⟨m, own', by simpa using same⟩, named⟩]
      exact ih rest later

theorem budgetsOf_out {units : List UnitGrant} {f : Feeder} (out : ∀ u ∈ units, f ∉ u.feeders) :
    (budgetsOf units).get f = none := by
  rw [budgetsOf, Six.get_of]
  refine List.findSome?_eq_none_iff.mpr fun u mem => ?_
  rw [List.find?_eq_none.mpr fun m own same => out u mem (UnitGrant.mem_feeders.mpr ⟨m, own, by simpa using same⟩)]
  rfl

theorem State.budgeted_of {t : State} {m : Summary} (budgets : t.arbiter.budgets = budgetsOf m.units)
    (nodup : ∀ u ∈ m.units, u.feeders.Nodup) (once : ∀ f, UnitGrant.once m.units f) : t.budgeted m := by
  refine ⟨fun u mem d own => ?_, fun f out => ?_⟩
  · rw [budgets, budgetsOf_get (nodup u mem) (once _) mem own]
    cases u.grant <;> rfl
  · rw [budgets]
    refine budgetsOf_out fun u mem named => ?_
    obtain ⟨d, own, e⟩ := UnitGrant.mem_feeders.mp named
    exact out u mem d own e

end

end Sys2Proof.Machine
end

section
/-! SUPPORT. The units that candidates form and the entries that an allocation point writes (R40, R41, R75, R76, R80, R86,
R97), read from the point written out. -/

namespace Sys2Proof.Machine

open Sys2Proof
open State (Frees Pointed)

/-! ## The members of a unit by their state -/

section

variable {s : State} {k : PointKind} {began : Four Group} {released : GroupNo → Bool} {u : UnitGrant} {f : Feeder}

theorem State.available_of_member (mem : u ∈ s.grantList k began released) (candidate : u.candidate = true)
    (named : f ∈ u.feeders) : s.available f = true := by
  rw [← u.claim_feeders] at named
  rcases (s.mem_claims k began released _).mp (State.claim_mem_of_unit mem) with ⟨h, -, -, e⟩ | ⟨g, ⟨-, e⟩ | ⟨-, e⟩⟩
  · have own : s.candidate k h = true := (congrArg Claim.candidate e).symm.trans candidate
    rw [e, State.aloneClaim_feeders, List.mem_singleton] at named
    exact named ▸ State.available_of_candidate own
  · rw [e, State.joiningClaim_feeders, List.mem_filter] at named
    exact named.2
  · exact absurd ((congrArg Claim.candidate e).symm.trans candidate) nofun

theorem State.participant_of_member (mem : u ∈ s.grantList k began released) (staying : u.candidate = false)
    (named : f ∈ u.feeders) : s.participant f = true := by
  rw [← u.claim_feeders] at named
  rcases (s.mem_claims k began released _).mp (State.claim_mem_of_unit mem) with ⟨h, -, may, e⟩ | ⟨g, ⟨-, e⟩ | ⟨-, e⟩⟩
  · have own : s.candidate k h = false := (congrArg Claim.candidate e).symm.trans staying
    rw [e, State.aloneClaim_feeders, List.mem_singleton] at named
    exact named ▸ may.resolve_left (by rw [own]; exact nofun)
  · exact absurd ((congrArg Claim.candidate e).symm.trans staying) nofun
  · rw [e, State.stayingClaim_feeders, State.mem_partsOf] at named
    exact named.2

/-- A feeder that neither is available nor takes part is in no unit. -/
theorem State.not_member (idle : s.available f = false) (out : s.participant f = false) :
    ∀ u ∈ s.grantList k began released, f ∉ u.feeders := fun u mem named => by
  cases kind : u.candidate with
  | true => exact absurd (State.available_of_member mem kind named) (by rw [idle]; exact nofun)
  | false => exact absurd (State.participant_of_member mem kind named) (by rw [out]; exact nofun)

end

/-! ## Stood-by reasons (R76) -/

section

variable {m : Summary} {takes : Feeder → Prop} {f : Feeder}

theorem Summary.names_iff : m.names f ↔ ∃ u ∈ m.units, f ∈ u.feeders := by
  simp [Summary.names, UnitGrant.mem_feeders]

theorem unitOf_eq_none {units : List UnitGrant} : unitOf units f = none ↔ ∀ u ∈ units, f ∉ u.feeders := by
  simp [unitOf, UnitGrant.feeders, List.find?_eq_none]

theorem unitOf_of_once {units : List UnitGrant} (once : UnitGrant.once units f) {u : UnitGrant} (mem : u ∈ units)
    (named : f ∈ u.feeders) : unitOf units f = some u := by
  cases e : unitOf units f with
  | none => exact absurd named (unitOf_eq_none.mp e u mem)
  | some w =>
    have found := List.find?_some e
    refine congrArg some (once.unique (List.mem_of_find?_eq_some e) mem ?_ named)
    simpa [UnitGrant.feeders] using found

/-- What R76's rows read of a state. -/
theorem State.standsBecause_congr {s t : State} (seq : (t.seq.get f).state = (s.seq.get f).state)
    (barred : (t.seq.get f).barred = (s.seq.get f).barred) (port : (t.port.get f).state = (s.port.get f).state)
    (groups : t.groups = s.groups) {r : StoodBy} (h : s.standsBecause m takes f r) : t.standsBecause m takes f r := by
  have available : t.available f = s.available f := by simp only [State.available, seq, barred, port]
  have groupOf : t.groupOf f = s.groupOf f := by simp only [State.groupOf, groups]
  cases r <;> simpa only [State.standsBecause, seq, barred, port, available, groupOf, groups] using h

/-- What stands by takes no part. -/
theorem State.standsBecause_idle {s : State} {r : StoodBy} (h : s.standsBecause m takes f r) : s.participant f = false := by
  have of_state {q : FeederState} (e : (s.seq.get f).state = q) (idle : q.engaged = false) : s.participant f = false := by
    rw [State.participant, e, idle]
  cases r with
  | held => exact of_state h rfl
  | faulted => exact h.elim (of_state · rfl) fun h => of_state h.1 rfl
  | barred => exact h.elim (of_state · rfl) fun h => of_state h.1 rfl
  | notNeeded | groupIncomplete | starvedAtEntry => exact State.participant_of_available h.1

/-- R76: the reason that a point delivers to a feeder in a row of the table, and that no unit engages it. -/
theorem State.stoodBy_of_because {s : State} {k : PointKind} {released : GroupNo → Bool}
    (units : m.units = s.grantList k s.groups released) (once : UnitGrant.once m.units f)
    (candidates : s.candidate k f = true ↔ s.available f = true ∧ takes f) {r : StoodBy}
    (h : s.standsBecause m takes f r) : s.stoodBy k s.groups m.units f = some r ∧
      ∀ u ∈ m.units, f ∈ u.feeders → u.candidate = true ∧ u.grant = .none := by
  have idle : s.participant f = false := State.standsBecause_idle h
  have out (may : s.available f = false) : ∀ u ∈ m.units, f ∈ u.feeders → u.candidate = true ∧ u.grant = .none :=
    fun u mem named => absurd named (State.not_member may idle u (units ▸ mem))
  have unnamed (no : ¬ m.names f) : unitOf m.units f = none ∧
      ∀ u ∈ m.units, f ∈ u.feeders → u.candidate = true ∧ u.grant = .none := by
    rw [Summary.names_iff] at no
    exact ⟨unitOf_eq_none.mpr fun u mem named => no ⟨u, mem, named⟩, fun u mem named => absurd ⟨u, mem, named⟩ no⟩
  have state {q : FeederState} (e : (s.seq.get f).state = q) (ne : q ≠ .standby) : s.available f = false := by
    rw [Bool.eq_false_iff]
    exact fun a => ne (e.symm.trans ((s.available_iff f).mp a).1)
  cases r with
  | held => exact ⟨by simp [State.stoodBy, show (s.seq.get f).state = .held from h], out (state h nofun)⟩
  | faulted =>
    rcases h with e | ⟨e, free, down⟩
    · exact ⟨by simp [State.stoodBy, e], out (state e nofun)⟩
    · refine ⟨by simp [State.stoodBy, e, down], out (Bool.eq_false_iff.mpr fun a => down ((s.available_iff f).mp a).2.2)⟩
  | barred =>
    rcases h with e | ⟨e, barred, up⟩
    · exact ⟨by simp [State.stoodBy, e], out (state e nofun)⟩
    · refine ⟨by simp [State.stoodBy, e, barred, up], out (Bool.eq_false_iff.mpr fun a => ?_)⟩
      rw [((s.available_iff f).mp a).2.1] at barred
      cases barred
  | notNeeded =>
    obtain ⟨available, not, no, groups⟩ := h
    obtain ⟨standby, free, up⟩ := (s.available_iff f).mp available
    have served : s.candidate k f = false := Bool.eq_false_iff.mpr fun a => not (candidates.mp a).2
    refine ⟨?_, (unnamed no).2⟩
    cases group : s.groupOf f with
    | none => simp [State.stoodBy, standby, free, up, (unnamed no).1, group]
    | some g => simp [State.stoodBy, standby, free, up, (unnamed no).1, group, groups g group, served]
  | groupIncomplete =>
    obtain ⟨available, no, g, group, state⟩ := h
    obtain ⟨standby, free, up⟩ := (s.available_iff f).mp available
    refine ⟨?_, (unnamed no).2⟩
    rcases state with ⟨state, needs⟩ | ⟨state, -⟩
    · simp [State.stoodBy, standby, free, up, (unnamed no).1, group, state, candidates.mpr ⟨available, needs⟩]
    · exact State.stoodBy_of_incomplete available (unnamed no).1 group state k
  | starvedAtEntry =>
    obtain ⟨available, u, mem, candidate, starved, named⟩ := h
    obtain ⟨standby, free, up⟩ := (s.available_iff f).mp available
    have own : f ∈ u.feeders := UnitGrant.mem_feeders.mpr named
    refine ⟨?_, fun w mem' named' => ?_⟩
    · simp [State.stoodBy, standby, free, up, unitOf_of_once once mem own, starved]
    · rw [once.unique mem' mem named' own]
      exact ⟨candidate, starved⟩

/-- R76: a participant is given no reason. -/
theorem State.stoodBy_of_participant {s : State} (part : s.participant f = true) (k : PointKind) (began : Four Group)
    (units : List UnitGrant) : s.stoodBy k began units f = none := by
  rcases (s.participant_iff f).mp part with e | e
  · simp [State.stoodBy, e]
  · simp [State.stoodBy, e]

end

end Sys2Proof.Machine
end

section
/-! SUPPORT. What an allocation point leaves, read from the point written out: the units of its candidates, its entries, its
budgets and its releases. -/

namespace Sys2Proof.Machine

open Sys2Proof
open State (Frees Pointed)

/-! ## The state after the releases -/

theorem State.candidate_congr {s t : State} {f : Feeder} (available : t.available f = s.available f) (vret : t.vret = s.vret)
    (immunity : t.immunity f = s.immunity f) (k : PointKind) : t.candidate k f = s.candidate k f := by
  unfold State.candidate
  rw [available, vret, immunity]

section

variable {s t : State} {c : Cause} {p : Feeder → Prop} {f : Feeder}

theorem State.Frees.available (h : Frees c p s t) (f : Feeder) : t.available f = s.available f := by
  have port : t.port = s.port := (congrArg State.port h.rest :)
  by_cases goes : p f ∧ s.participant f = true
  · have before : s.available f = false := Bool.eq_false_iff.mpr fun a => by
      rw [State.participant_of_available a] at goes
      cases goes.2
    rw [before, Bool.eq_false_iff, ne_eq, State.available_iff, h.released f goes.1 goes.2]
    exact fun a => absurd a.1 nofun
  · simp only [State.available, h.others f goes, port]

theorem State.Frees.candidate (h : Frees c p s t) (k : PointKind) (f : Feeder) : t.candidate k f = s.candidate k f :=
  State.candidate_congr (h.available f) ((congrArg State.vret h.rest :)) ((congrArg (fun v : State => v.immunity f) h.rest :)) k

theorem State.Frees.groups (h : Frees c p s t) : t.groups = s.groups := (congrArg State.groups h.rest :)

theorem State.Frees.groupOf (h : Frees c p s t) (f : Feeder) : t.groupOf f = s.groupOf f :=
  (congrArg (fun v : State => v.groupOf f) h.rest :)

/-- A feeder that takes no part is not released. -/
theorem State.Frees.seq_of_idle (h : Frees c p s t) (idle : s.participant f = false) : t.seq.get f = s.seq.get f :=
  h.others f fun a => by rw [idle] at a; cases a.2

/-- One that still takes part has not been released. -/
theorem State.Frees.seq_of_participant (h : Frees c p s t) (part : t.participant f = true) : t.seq.get f = s.seq.get f :=
  h.others f fun a => ((h.participant f).mp part).2 a.1

end

section

variable {s r t : State} {k : PointKind} {units : List UnitGrant} {m : Summary} {takes : Feeder → Prop}

/-! ## Units -/

theorem State.Pointed.unit_of_claim (h : s.Pointed r t k units) {c : Claim}
    (mem : c ∈ r.claims k r.groups (s.lets k)) : ∃ u ∈ units, u.claim = c := by
  rw [h.grants, ← h.frees.groups]
  exact (r.mem_grantList k r.groups (s.lets k) c).mpr mem

theorem State.Pointed.claim_of_unit (h : s.Pointed r t k units) {u : UnitGrant} (mem : u ∈ units) :
    u.claim ∈ r.claims k r.groups (s.lets k) := by
  rw [h.grants, ← h.frees.groups] at mem
  exact State.claim_mem_of_unit mem

theorem State.Pointed.once (h : s.Pointed r t k units) (disjoint : groupsDisjoint s.groups)
    (within : engagedWithin s.groups) (f : Feeder) : UnitGrant.once units f := by
  rw [h.grants]
  exact r.grantList_once k s.groups (s.lets k) (r.claims_once_of_disjoint k s.groups (s.lets k)
    (h.frees.groups ▸ disjoint) (h.frees.groups ▸ within) f)

theorem State.Pointed.nodup (h : s.Pointed r t k units) : ∀ u ∈ units, u.feeders.Nodup :=
  h.grants ▸ r.grantList_nodup k s.groups (s.lets k)

/-- R85: the budgets that a point leaves. -/
theorem State.Pointed.budgeted (h : s.Pointed r t k units) (disjoint : groupsDisjoint s.groups)
    (within : engagedWithin s.groups) : t.budgeted (r.summaryOf k units) :=
  State.budgeted_of (by rw [h.arbiter]; rfl) h.nodup (h.once disjoint within)

theorem State.Pointed.divides (h : s.Pointed r t k units) : (r.summaryOf k units).Divides s.inForce s.detector.t := by
  have inForce : r.inForce = s.inForce := (congrArg State.inForce h.frees.rest :)
  obtain ⟨w, out, -⟩ := h.frees.record
  have now : r.detector.t = s.detector.t := (congrArg Detector.t out :)
  rw [h.grants, ← inForce, ← now]
  exact State.summaryOf_divides

/-- R75, R80, R86: the units of the candidates, with what their grants make of an ungrouped one. -/
theorem State.Pointed.forms (h : s.Pointed r t k units) (isUnits : m.units = units)
    (candidates : ∀ f, s.candidate k f = true ↔ s.available f = true ∧ takes f) :
    s.FormsCandidateUnits t s.inForce m takes := by
  have frees := h.frees
  have inForce : r.inForce = s.inForce := (congrArg State.inForce frees.rest :)
  have groups := frees.groups
  have standsBy (g : GroupNo) : r.standsBy g = s.standsBy g := by
    simp only [State.standsBy, groups, frees.available]
  have candidate (f : Feeder) : r.candidate k f = true ↔ s.available f = true ∧ takes f := by
    rw [frees.candidate, candidates]
  have ready (g : GroupNo) (f : Feeder) : f ∈ (s.groups.get g).members.members.filter s.available ↔
      (s.groups.get g).members.get f = true ∧ s.available f = true := by
    rw [List.mem_filter, FeederSet.mem_members]
  have whole (g : GroupNo) : s.standsBy g = false ↔ (s.groups.get g).requireAll = false ∨
      (s.groups.get g).members.members.filter s.available = (s.groups.get g).members.members := by
    rw [List.filter_eq_self]
    cases all : (s.groups.get g).requireAll <;> simp [State.standsBy, all]
  refine ⟨fun f out available needs => ?_, fun f out idle may u mem d own named => ?_, fun g state => ⟨fun some may => ?_,
    fun none u mem group => ?_⟩⟩
  · have joins := (candidate f).mpr ⟨available, needs⟩
    have out' : r.groupOf f = none := (frees.groupOf f).trans out
    obtain ⟨u, mem, claim⟩ := h.unit_of_claim ((r.mem_claims k r.groups (s.lets k) _).mpr (.inl ⟨f, out', .inl joins, rfl⟩))
    have idle : s.participant f = false := State.participant_of_available available
    have idle' : r.participant f = false := by rw [State.participant, frees.seq_of_idle idle]; exact idle
    have feeders : u.feeders = [f] := congrArg Claim.feeders claim
    have kind : u.candidate = true := (congrArg Claim.candidate claim).trans joins
    have once : UnitGrant.once units f := by
      rw [h.grants]
      exact r.grantList_once k s.groups (s.lets k) (r.claims_once_of_alone k s.groups (s.lets k) out' idle')
    have seq := h.named f once u mem (by rw [feeders]; exact List.mem_singleton_self f)
    have standby : (s.seq.get f).state = .standby := ((s.available_iff f).mp available).1
    rw [frees.seq_of_idle idle] at seq
    refine ⟨u, isUnits ▸ mem, congrArg Claim.group claim, kind, feeders, ?_, fun a mode => ?_, fun starved => ?_⟩
    · refine (congrArg Claim.level claim).trans ?_
      change (r.inForce.bankEntry f).level = _
      rw [inForce]
    · have armed : t.seq.get f = (s.seq.get f).armed s.globals a := by
        rw [seq, UnitGrant.atMember, kind, mode]
      rw [armed, Sequencer.armed, if_pos standby]
      exact ⟨rfl, rfl⟩
    · have still : t.seq.get f = s.seq.get f := by
        rw [seq, UnitGrant.atMember, kind, starved]
        rfl
      rw [still, standby]
  · have own' : f ∈ u.claim.feeders := UnitGrant.mem_feeders.mpr ⟨d, own, named⟩
    rw [← frees.groupOf] at out
    have idle' : r.participant f = false := by rw [State.participant, frees.seq_of_idle idle]; exact idle
    rcases (r.mem_claims k r.groups (s.lets k) _).mp (h.claim_of_unit (isUnits ▸ mem)) with
      ⟨f', -, joins, e⟩ | ⟨g, ⟨-, e⟩ | ⟨-, e⟩⟩
    · rw [e, State.aloneClaim_feeders, List.mem_singleton] at own'
      rw [← own', idle', candidate] at joins
      exact joins.elim may nofun
    · rw [e, State.joiningClaim_feeders, List.mem_filter, FeederSet.mem_members, State.groupOf_none_iff.mp out g] at own'
      cases own'.1
    · rw [e, State.stayingClaim_feeders, State.mem_partsOf, idle'] at own'
      cases own'.2
  · obtain ⟨f, isReady, needs⟩ := some
    have member := (ready g f).mp isReady
    obtain ⟨u, mem, claim⟩ := h.unit_of_claim ((r.mem_claims k r.groups (s.lets k) _).mpr (.inr ⟨g, .inl ⟨⟨by rw [groups, state],
      ⟨f, by rw [groups]; exact member.1, (candidate f).mpr ⟨member.2, needs⟩⟩, by rw [standsBy, whole]; exact may⟩, rfl⟩⟩))
    refine ⟨u, isUnits ▸ mem, congrArg Claim.group claim, congrArg Claim.candidate claim, ?_, ?_⟩
    · refine (congrArg Claim.feeders claim).trans ?_
      rw [State.joiningClaim_feeders, groups]
      exact List.filter_congr fun f _ => frees.available f
    · refine (congrArg Claim.level claim).trans ?_
      change (r.groups.get g).level = _
      rw [groups]
  · rcases (r.mem_claims k r.groups (s.lets k) _).mp (h.claim_of_unit (isUnits ▸ mem)) with
      ⟨f', -, -, e⟩ | ⟨g', ⟨⟨-, ⟨f, member, joins⟩, may⟩, e⟩ | ⟨goes, e⟩⟩
    · exact absurd (group.symm.trans (congrArg Claim.group e)) nofun
    · have same : g = g' := Option.some.inj (group.symm.trans (congrArg Claim.group e))
      subst same
      rw [groups] at member
      rw [candidate] at joins
      rw [standsBy, whole] at may
      rcases none with none | ⟨all, partial'⟩
      · exact none f ((ready g f).mpr ⟨member, joins.1⟩) joins.2
      · exact may.elim (fun e => by rw [all] at e; cases e) partial'
    · have same : g = g' := Option.some.inj (group.symm.trans (congrArg Claim.group e))
      subst same
      rw [groups] at goes
      rcases goes.1 with e | e <;> rw [state] at e <;> cases e

/-! ## Entries -/

/-- What R40 and R41 ask of an entry: its feeder, its participation, its reason and its modes. -/
def Entry.course (e : Entry) : Feeder × Bool × Option StoodBy × Option Mode × Option Mode :=
  (e.feeder, e.engaged, e.reason, e.firstMode, e.lastMode)

theorem Entry.withRelease_course (e : Entry) (c : Cause) : (e.withRelease c).course = e.course := by
  unfold Entry.withRelease
  split <;> rfl

theorem State.WritesEntry.congr {e d e' d' : Entry} (h : s.WritesEntry m takes e d) (before : e'.course = e.course)
    (after : d'.course = d.course) : s.WritesEntry m takes e' d' := by
  simp only [Entry.course, Prod.mk.injEq] at before after
  obtain ⟨f, en, re, fi, la⟩ := before
  obtain ⟨f', en', re', fi', la'⟩ := after
  refine ⟨?_, ?_, ?_, ?_, ?_⟩
  · rw [f, f']
    exact h.feeder
  · rw [en, en', fi, fi', re, re']
    exact h.stays
  · rw [f, en, en', fi', la', re']
    exact h.engages
  · rw [f, en, en', re', fi, fi', la, la']
    exact h.stands
  · rw [f, la, la']
    exact h.follows

theorem Entry.stood_of_engaged {e : Entry} (h : e.engaged = true) (r : Option StoodBy) : e.stood r = e := by
  cases r with
  | none => rfl
  | some r => exact if_pos h

theorem Entry.stood_of_free {e : Entry} (h : e.engaged = false) (r : Option StoodBy) :
    (e.stood r).engaged = false ∧ (e.stood r).firstMode = e.firstMode ∧ (e.stood r).lastMode = e.lastMode := by
  cases r with
  | none => exact ⟨h, rfl, rfl⟩
  | some r =>
    have out : e.stood (some r) = { e with reason := some r } := if_neg (by rw [h]; decide)
    rw [out]
    exact ⟨h, rfl, rfl⟩

/-- R40: an entry that has been engaged stays so, whatever the grant. -/
theorem UnitGrant.writesMember_of_engaged {e : Entry} (h : e.engaged = true) (u : UnitGrant) (q : Sequencer) :
    (u.writesMember q e).engaged = true ∧ (u.writesMember q e).firstMode = e.firstMode ∧
      (u.writesMember q e).reason = e.reason := by
  have kept (m : Mode) : e.engage m = e := if_pos h
  have released : (e.withRelease .starved).course = e.course := e.withRelease_course _
  simp only [Entry.course, Prod.mk.injEq] at released
  unfold UnitGrant.writesMember
  cases u.candidate with
  | true => cases u.grant.mode with
    | none => exact ⟨h, rfl, rfl⟩
    | some m => simp [kept, h]
  | false => cases u.grant.mode with
    | none =>
      simp only [Bool.false_eq_true, if_false, Option.elim_none]
      split
      · exact ⟨released.2.1.trans h, released.2.2.2.1, released.2.2.1⟩
      · exact ⟨h, rfl, rfl⟩
    | some m =>
      simp only [Bool.false_eq_true, if_false, Option.elim_some]
      split
      · exact ⟨h, rfl, rfl⟩
      · exact ⟨h, rfl, rfl⟩

/-- R40, R41, R76, R97: what a point makes of the entries of the record. -/
theorem State.Pointed.writes (h : s.Pointed r t k units) (isUnits : m.units = units)
    (candidates : ∀ f, s.candidate k f = true ↔ s.available f = true ∧ takes f) (disjoint : groupsDisjoint s.groups)
    (within : engagedWithin s.groups) :
    ∃ w : Entry → Entry, t.detector = s.detector.mapEntries w ∧ ∀ e, s.WritesEntry m takes e (w e) := by
  have frees := h.frees
  obtain ⟨w, out, feeder, none, one⟩ := h.record
  obtain ⟨w', out', mine, other⟩ := frees.record
  refine ⟨w ∘ w', by rw [out, out', Detector.mapEntries_mapEntries], fun e => ?_⟩
  have course : (w' e).course = e.course := by
    by_cases goes : (k.isBoundary = true ∧ s.leaves (s.lets k) e.feeder) ∧ s.participant e.feeder = true
    · rw [mine e goes.1 goes.2]
      exact e.withRelease_course _
    · rw [other e goes]
  rw [Function.comp_apply]
  generalize w' e = e' at course
  refine State.WritesEntry.congr ?_ course.symm rfl
  clear course e
  rename' e' => e
  have once : UnitGrant.once units e.feeder := h.once disjoint within e.feeder
  have cases : (∀ u ∈ units, e.feeder ∉ u.feeders) ∨ ∃ u ∈ units, e.feeder ∈ u.feeders := by
    by_cases some : ∃ u ∈ units, e.feeder ∈ u.feeders
    · exact .inr some
    · exact .inl fun u mem named => some ⟨u, mem, named⟩
  have inList {u : UnitGrant} (mem : u ∈ units) : u ∈ r.grantList k r.groups (s.lets k) := by
    rw [frees.groups, ← h.grants]
    exact mem
  refine ⟨feeder e, fun engaged => ?_, fun free u mem kind x own named a mode => ?_, fun free reason because => ?_,
    fun u mem kind x own named a mode => ?_⟩
  · rcases cases with alone | ⟨u, mem, named⟩
    · rw [none e alone, Entry.stood_of_engaged engaged]
      exact ⟨engaged, rfl, rfl⟩
    · rw [one e once u mem named, Entry.stood_of_engaged engaged]
      exact u.writesMember_of_engaged engaged _
  · rw [isUnits] at mem
    have own' : e.feeder ∈ u.feeders := UnitGrant.mem_feeders.mpr ⟨x, own, named⟩
    have still := Entry.stood_of_free free (r.stoodBy k s.groups units e.feeder)
    rw [one e once u mem own', UnitGrant.writesMember, if_pos kind, mode, Option.elim_some]
    generalize e.stood (r.stoodBy k s.groups units e.feeder) = e' at still
    have engaged : e'.engage a = { e' with engaged := true, firstMode := some a, lastMode := some a, reason := Option.none } :=
      if_neg (by rw [still.1]; decide)
    rw [engaged]
    exact ⟨rfl, rfl, rfl, rfl⟩
  · have idle := State.standsBecause_idle because
    have seq := frees.seq_of_idle idle
    have port : r.port = s.port := (congrArg State.port frees.rest :)
    obtain ⟨reads, engages⟩ := r.stoodBy_of_because (k := k) (released := s.lets k) (m := m) (takes := takes) (f := e.feeder)
      (by rw [isUnits, h.grants, frees.groups]) (by rw [isUnits]; exact once)
      (by rw [frees.candidate, frees.available]; exact candidates _)
      (State.standsBecause_congr (by rw [seq]) (by rw [seq]) (by rw [port]) frees.groups because)
    rw [frees.groups, isUnits] at reads
    have written : w e = e.standBy reason := by
      have stood : e.stood (r.stoodBy k s.groups units e.feeder) = e.standBy reason := by
        rw [reads]
        rfl
      rcases cases with alone | ⟨u, mem, named⟩
      · rw [none e alone, stood]
      · obtain ⟨kind, starved⟩ := engages u (isUnits ▸ mem) named
        rw [one e once u mem named, stood, UnitGrant.writesMember, if_pos kind, starved]
        rfl
    have out : e.standBy reason = { e with reason := some reason } := if_neg (by rw [free]; decide)
    rw [written, out]
    exact ⟨free, rfl, rfl, rfl⟩
  · rw [isUnits] at mem
    have own' : e.feeder ∈ u.feeders := UnitGrant.mem_feeders.mpr ⟨x, own, named⟩
    have part : r.participant e.feeder = true := State.participant_of_member (inList mem) kind own'
    have seq := frees.seq_of_participant part
    have still : e.stood (r.stoodBy k s.groups units e.feeder) = e := by
      rw [State.stoodBy_of_participant part]
      rfl
    rw [one e once u mem own', still, UnitGrant.writesMember, if_neg (by rw [kind]; decide), mode, seq]
    have engaged : (s.seq.get e.feeder).state.engaged = true := by
      rw [← seq]
      exact part
    change (if (s.seq.get e.feeder).state.engaged = true ∧ (s.seq.get e.feeder).mode ≠ some a
      then { e with lastMode := some a } else e).lastMode = _
    by_cases same : (s.seq.get e.feeder).mode = some a
    · rw [if_neg fun h => h.2 same, if_pos same]
    · rw [if_pos ⟨engaged, same⟩, if_neg same]

end

end Sys2Proof.Machine
end

section
/-! SUPPORT. The allocation point of an onset (R23, R73): its summary, whatever the orders place between the division and the
deliveries, and what a point that the orders leave alone makes of candidates and entries. -/

namespace Sys2Proof.Machine

open Sys2Proof
open State (Frees Pointed Allots)

/-! ## A state that the point reads as another -/

/-- What an allocation point reads of the feeders and groups of `s`, it reads of `t`. -/
structure State.Shows (s t : State) : Prop where
  seq : ∀ f, (t.seq.get f).state = (s.seq.get f).state ∧ (t.seq.get f).barred = (s.seq.get f).barred ∧
    (t.seq.get f).mode = (s.seq.get f).mode
  port : ∀ f, (t.port.get f).state = (s.port.get f).state
  groups : t.groups = s.groups

namespace State.Shows

variable {s t : State} (h : s.Shows t) {m : Summary} {takes : Feeder → Prop}
include h

theorem available (f : Feeder) : t.available f = s.available f := by
  obtain ⟨state, barred, -⟩ := h.seq f
  simp only [State.available, state, barred, h.port]

theorem participant (f : Feeder) : t.participant f = s.participant f := by
  rw [State.participant, (h.seq f).1]
  rfl

theorem groupOf (f : Feeder) : t.groupOf f = s.groupOf f := by simp only [State.groupOf, h.groups]

/-- The units of the candidates, read in `s`, of a point taken in `t`, as the instant's end shows them. -/
theorem forms {u v : State} {values : Values} (forms : t.FormsCandidateUnits u values m takes)
    (later : ∀ f, (v.seq.get f).state = (u.seq.get f).state ∧ (v.seq.get f).mode = (u.seq.get f).mode) :
    s.FormsCandidateUnits v values m takes := by
  obtain ⟨alone, absent, together⟩ := forms
  have ready : t.available = s.available := funext h.available
  simp only [h.groupOf, h.available, h.participant, h.groups, ready] at alone absent together
  refine ⟨fun f out available needs => ?_, absent, together⟩
  rw [(later f).1, (later f).2]
  exact alone f out available needs

theorem writes {e d : Entry} (writes : t.WritesEntry m takes e d) : s.WritesEntry m takes e d := by
  obtain ⟨feeder, stays, engages, stands, follows⟩ := writes
  refine ⟨feeder, stays, engages, fun free r because => stands free r ?_, ?_⟩
  · obtain ⟨state, barred, -⟩ := h.seq e.feeder
    exact State.standsBecause_congr state barred (h.port _) h.groups because
  · rw [← (h.seq e.feeder).2.2]
    exact follows

end State.Shows

/-! ## The summary of an onset -/

section

variable (s : State) (c : OnsetCause)

/-- R85: the grant list of an onset. -/
def State.onsetUnits : List UnitGrant := s.grantList (.onset c) s.groups (s.lets (.onset c))

/-- R85, R91: the summary of an onset. -/
def State.onsetSummary : Summary := s.summaryOf (.onset c) (s.onsetUnits c)

theorem State.onset_forecasts : ∀ u ∈ (s.onsetSummary c).units, ∀ d ∈ u.members,
    d.full = (s.feeders.get d.feeder).onsetForecast ∧ d.measured = false ∧ d.floor ≤ d.full := fun u mem d own => by
  rw [State.member_forecast (s := s) (k := .onset c) mem own]
  exact s.forecast_onset d.feeder

theorem State.onset_divides : (s.onsetSummary c).Divides s.inForce s.detector.t := State.summaryOf_divides

/-- R77, R85, R91: an onset's point leaves the flags cleared, its summary, and its budgets. -/
theorem State.allocate_onset_arbiter {between : State → State} (hb : ∀ t, (between t).arbiter = t.arbiter) :
    (s.allocate (.onset c) between).arbiter = { s.arbiter with
      flags := FeederSet.empty, summary := some (s.onsetSummary c), budgets := budgetsOf (s.onsetUnits c) } := by
  rw [State.allocate_eq]
  dsimp only
  change (State.delivers _ (s.onsetUnits c)).arbiter = _
  rw [(State.delivers_keeps _ _).2.2.1, State.tellNotNeeded_out]
  refine (hb _).trans ?_
  have number := s.openNumber_mapEntries fun e => e.stood (s.stoodBy (.onset c) s.groups (s.onsetUnits c) e.feeder)
  unfold State.onsetSummary State.summaryOf
  rw [← number]
  change State.arbiter (((s.deliverStoodBy (.onset c) s.groups (s.onsetUnits c)).setFlags (.onset c)).keepGrants (.onset c)
    (s.onsetUnits c)) = _
  rw [State.deliverStoodBy_out]
  rfl

variable {s c}

theorem State.onset_budgeted {t : State} (arbiter : t.arbiter = { s.arbiter with
      flags := FeederSet.empty, summary := some (s.onsetSummary c), budgets := budgetsOf (s.onsetUnits c) })
    (disjoint : groupsDisjoint s.groups) (within : engagedWithin s.groups) : t.budgeted (s.onsetSummary c) :=
  State.budgeted_of (by rw [arbiter]; rfl) (s.grantList_nodup (.onset c) s.groups (s.lets (.onset c))) fun f =>
    s.grantList_once _ _ _ (s.claims_once_of_disjoint (.onset c) s.groups (s.lets (.onset c)) disjoint within f)

end

/-! ## The onset -/

section

variable {w : State} {c : OnsetCause} {heard : Bool} {between : State → State}

/-- R23: the onset of a compensable event is an allocation point of the event it opens. -/
theorem State.onset_allocates
    (compensable : compensability w.loader.op (heard && w.tracker.state != .seeking) = .compensable) :
    ∃ t l, w.onset c heard between =
      State.allocate { w.opened c .compensable with tracker := t, link := l } (.onset c) between := by
  obtain ⟨t, l, asks, -⟩ := w.asked_eq heard
  rw [State.onset_eq, compensable, asks]
  exact ⟨t, l.post (w.newRecord c .compensable).onsetReport, rfl⟩

/-- R77, R85, R91: what every compensable onset leaves at the arbiter. -/
theorem State.onset_arbiter
    (compensable : compensability w.loader.op (heard && w.tracker.state != .seeking) = .compensable)
    (hb : ∀ t, (between t).arbiter = t.arbiter) : (w.onset c heard between).arbiter = { w.arbiter with
      flags := FeederSet.empty, summary := some ((w.opened c .compensable).onsetSummary c)
      budgets := budgetsOf ((w.opened c .compensable).onsetUnits c) } := by
  obtain ⟨t, l, out⟩ := State.onset_allocates (c := c) (between := between) compensable
  rw [out, State.allocate_onset_arbiter _ _ hb]
  rfl

/-- Where no refusal or request is on its way, an onset sends none. -/
theorem State.onset_calm
    (compensable : compensability w.loader.op (heard && w.tracker.state != .seeking) = .compensable)
    (still : ∀ t : State, t.refusals = w.refusals → between t = t) (calm : w.calm) : (w.onset c heard between).calm := by
  obtain ⟨t, l, out⟩ := State.onset_allocates (c := c) (between := between) compensable
  obtain ⟨r, units, pointed⟩ := State.allocate_pointed { w.opened c .compensable with tracker := t, link := l } (.onset c)
    still
  rw [out]
  exact ⟨pointed.waiting.1.trans calm.1, pointed.waiting.2.trans calm.2⟩

/-- R40, R75, R76, R80, R86: what a compensable onset at which nothing else is taken makes of candidates and entries, as
a state `s` and the instant's end `u` show it. -/
theorem State.onset_points {s : State} {takes : Feeder → Prop} (shows' : s.Shows w)
    (compensable : compensability w.loader.op (heard && w.tracker.state != .seeking) = .compensable)
    (still : ∀ t : State, t.refusals = w.refusals → between t = t) (hb : ∀ t, (between t).arbiter = t.arbiter)
    (candidates : ∀ f, w.candidate (.onset c) f = true ↔ w.available f = true ∧ takes f) {u : State}
    (later : ∀ f, (u.seq.get f).state = ((w.onset c heard between).seq.get f).state ∧
      (u.seq.get f).mode = ((w.onset c heard between).seq.get f).mode) :
    s.FormsCandidateUnits u w.inForce ((w.opened c .compensable).onsetSummary c) takes ∧
      (groupsDisjoint s.groups → engagedWithin s.groups → ∃ a : Entry → Entry,
        (w.onset c heard between).detector = (w.opened c .compensable).detector.mapEntries a ∧
        ∀ e, s.WritesEntry ((w.opened c .compensable).onsetSummary c) takes e (a e)) := by
  have arbiter := State.onset_arbiter (c := c) compensable hb
  obtain ⟨t, l, out⟩ := State.onset_allocates (c := c) (between := between) compensable
  obtain ⟨p, isP⟩ : ∃ p : State, { w.opened c .compensable with tracker := t, link := l } = p := ⟨_, rfl⟩
  have shows : s.Shows p := by
    rw [← isP]
    exact ⟨shows'.seq, shows'.port, shows'.groups⟩
  have candidates' (f : Feeder) : p.candidate (.onset c) f = true ↔ p.available f = true ∧ takes f := by
    rw [← isP]
    exact candidates f
  have inForce : p.inForce = w.inForce := by rw [← isP]; rfl
  have detector : p.detector = (w.opened c .compensable).detector := by rw [← isP]
  obtain ⟨r, units, pointed⟩ := p.allocate_pointed (.onset c) (between := between) fun t same =>
    still t (same.trans (by rw [← isP]; rfl))
  rw [out, isP] at later arbiter ⊢
  rw [← inForce, ← detector]
  have isUnits : ((w.opened c .compensable).onsetSummary c).units = units := by
    have same := (congrArg Arbiter.summary pointed.arbiter).symm.trans (congrArg Arbiter.summary arbiter)
    exact (congrArg Summary.units (Option.some.inj same)).symm
  refine ⟨shows.forms (pointed.forms isUnits candidates') later, fun disjoint within => ?_⟩
  obtain ⟨a, written, each⟩ := pointed.writes isUnits candidates' (shows.groups ▸ disjoint) (shows.groups ▸ within)
  exact ⟨a, written, fun e => shows.writes (each e)⟩

end

end Sys2Proof.Machine
end

section
/-! SUPPORT. The state that a sample instant's allocation point reads, in the terms of the state before the instant. -/

namespace Sys2Proof.Machine

open Sys2Proof
open State (KeepsEngaged SetsStay)

section

variable {s : State} {x : SampleInput} {o : Orders} {f : Feeder}

/-! ## Ports -/

theorem State.sendIfSending_portState (s : State) (h f : Feeder) (bus : Tri Int) :
    ((s.sendIfSending h bus).port.get f).state = (s.port.get f).state := by
  by_cases same : f = h
  · subst same
    by_cases silent : (s.port.get f).state = .quiet
    · rw [(State.sendIfSending_of_quiet silent).1]
    · rw [State.sendIfSending, if_pos ((PortState.sends_iff _).mpr silent)]
      exact (congrArg Port.state (Six.get_set_self _ _ _)).trans rfl
  · rw [(State.sendIfSending_other (Ne.symm same) s bus).1]

theorem State.recordsAt_portState (s : State) (p : RecordPlace) (f : Feeder) :
    ((s.recordsAt x o p).port.get f).state = (s.port.get f).state := by
  unfold State.recordsAt State.sendRecords
  refine foldl_keeps (P := fun t => (t.port.get f).state = (s.port.get f).state) (fun h t kept => ?_) _ s rfl
  dsimp only
  split
  · exact (t.sendIfSending_portState h f _).trans kept
  · exact kept

theorem State.beforeDetector_portState (s : State) (f : Feeder) :
    ((s.beforeDetector x o).port.get f).state = (s.port.get f).state := by
  rw [State.beforeDetector_eq]
  generalize first : (s.evaluateAt o .tracked).recordsAt x o .first = t
  have placed : (t.takePlaced o .first).port = t.port :=
    (State.placed_runs (k := anyAge) t o fun _ _ => rfl).port
  change ((State.recordsAt (t.takePlaced o .first) x o .placed).port.get f).state = _
  rw [State.recordsAt_portState, placed, ← first]
  exact State.recordsAt_portState _ _ _

/-- No port changes its state by a sample set. -/
theorem State.atRecords_portState (f : Feeder) : ((s.atRecords x o).port.get f).state = (s.port.get f).state := by
  have stepped : ((s.atDetector x o).stepping (s.boundaryAt x o)).port = (s.atDetector x o).port :=
    ((s.atDetector x o).stepping_runs (k := anyAge) (s.boundaryAt x o)).port
  rw [State.atRecords, State.recordsAt_portState, stepped, State.atDetector_eq, State.beforeDetector_portState,
    State.halved_ports]
  rfl

/-! ## Groups -/

theorem State.atRecords_members (settled : s.settled) (g : GroupNo) :
    ((s.atRecords x o).groups.get g).members = (s.groups.get g).members := by
  have groups : (s.halved x o).groups = s.groups := (congrArg State.groups (State.halved_rest (o := o) settled x) :)
  rw [((s.atRecords_late x o).within.frame.groups g).1, groups]

theorem State.atRecords_disjoint (settled : s.settled) (disjoint : groupsDisjoint s.groups) :
    groupsDisjoint (s.atRecords x o).groups := fun g k f a b => by
  rw [State.atRecords_members settled] at a b
  exact disjoint g k f a b

theorem State.atRecords_within (settled : s.settled) (within : engagedWithin s.groups) :
    engagedWithin (s.atRecords x o).groups := by
  have groups : (s.halved x o).groups = s.groups := (congrArg State.groups (State.halved_rest (o := o) settled x) :)
  have arrives : KeepsEngaged (s.halved x o) (s.atDetector x o) := by
    rw [State.atDetector_eq, State.beforeDetector_eq]
    generalize first : ((s.halved x o).evaluateAt o .tracked).recordsAt x o .first = t
    have same : t.groups = (s.halved x o).groups := first ▸ State.recordsAt_groups _ x o _
    exact ((KeepsEngaged.of_eq same).trans (t.takePlaced_keepsEngaged o .first)).trans
      (.of_eq (State.recordsAt_groups (t.takePlaced o .first) x o .placed))
  obtain ⟨d, stepped⟩ := (s.atDetector x o).stepping_out (s.boundaryAt x o)
  have stays : ((s.atDetector x o).stepping (s.boundaryAt x o)).groups = (s.atDetector x o).groups := by rw [stepped]
  refine (arrives.trans (.of_eq ((State.recordsAt_groups _ x o .stepped).trans stays))) ?_
  rw [groups]
  exact within

/-! ## What a point reads -/

theorem State.atRecords_shows (settled : s.settled) (q : quiet o) : s.Shows (s.atRecords x o) where
  seq f := by
    rw [(State.atRecords_quiet settled q).1, State.halved_seq_get settled]
    exact ⟨rfl, rfl, rfl⟩
  port := State.atRecords_portState
  groups := (State.atRecords_quiet settled q).2.1

theorem State.atRecords_feeders (settled : s.settled) : (s.atRecords x o).feeders = s.feeders := by
  obtain ⟨-, -, -, -, feeders, -⟩ := (s.atRecords_late x o).within.frame.fixed
  exact feeders.trans (congrArg State.feeders (State.halved_rest (o := o) settled x) :)

theorem State.atRecords_values (settled : s.settled) : (s.atRecords x o).inForce = s.valuesAt o.writtenNow := by
  rw [State.atRecords_inForce, State.halved_inForce settled]

theorem State.atRecords_quanta : (s.atRecords x o).store.quanta = (s.instant x o).store.quanta :=
  (congrArg (fun m => m.2.2.2.2.1.2.2) (s.atRecords_measured x o) :)

/-- Where the orders leave the instant's events apart, its end shows the detector, arbiter, sequencers and groups as its
step left them, but for marks on the timers. -/
theorem State.instant_of_quiet (q : quiet o) (calm : (s.detected x o).calm) :
    (s.instant x o).detector = (s.detected x o).detector ∧ (s.instant x o).arbiter = (s.detected x o).arbiter ∧
      (s.instant x o).groups = (s.detected x o).groups ∧
      ∀ f, (s.instant x o).seq.get f = ((s.detected x o).seq.get f).unmarked := by
  obtain ⟨ls, g, p, st, l, finished⟩ := State.finish_of_quiet (s := s.detected x o) x q calm
  rw [State.instant_eq, finished]
  exact ⟨rfl, rfl, rfl, fun f => Six.get_of _ f⟩

/-- R100: the marks of injection cleared at a boundary are no part of a point. -/
theorem State.detected_of_concluded {t : State}
    (concluded : (s.atRecords x o).concluded o (s.boundaryAt x o) ((s.tracked x o).externalWeighed o) (s.requestHeard x o) = t) :
    (s.detected x o).detector = t.detector ∧ (s.detected x o).arbiter = t.arbiter ∧ (s.detected x o).groups = t.groups ∧
      (s.detected x o).refusals = t.refusals ∧ (s.detected x o).groupRequests = t.groupRequests ∧
      ∃ b, ∀ f, (s.detected x o).seq.get f = { t.seq.get f with injected := b && (t.seq.get f).injected } := by
  rw [State.detected_eq, concluded]
  dsimp only
  split
  · exact ⟨rfl, rfl, rfl, rfl, rfl, false, fun f => Six.get_of _ f⟩
  · exact ⟨rfl, rfl, rfl, rfl, rfl, true, fun f => by rw [Bool.true_and]⟩

theorem State.refusalsBetween_of_none (h : s.refusals = []) : s.refusalsBetween o = s := by
  have taken : s.takeRefusals = s := by
    unfold State.takeRefusals
    rw [h, List.foldl_nil, ← h]
  unfold State.refusalsBetween
  rw [taken, ite_self]

theorem State.refusalsBetween_arbiter (s : State) (o : Orders) : (s.refusalsBetween o).arbiter = s.arbiter := by
  unfold State.refusalsBetween
  split
  · exact (congrArg State.arbiter s.takeRefusals_seqOnly.rest :)
  · rfl

end

end Sys2Proof.Machine
end

section
/-! SUPPORT. The allocation points of the onsets of O21: at a sample set, and at the acceptance of an external trigger. -/

namespace Sys2Proof.Machine

open Sys2Proof
open State (Noted)

/-- R40: the entries of the record an onset opens, as its point leaves them. -/
theorem State.onset_entries {s w : State} {c : OnsetCause} {k : Compensability} {d : Detector} {r : Record} {m : Summary}
    {takes : Feeder → Prop} {a : Entry → Entry} (detector : d = (w.opened c k).detector.mapEntries a)
    (record : d.record = some r) (each : ∀ e, s.WritesEntry m takes e (a e)) :
    ∀ e ∈ r.entries, s.WritesEntry m takes (Entry.start e.feeder) e := fun e mem => by
  have out : some { w.newRecord c k with entries := (w.newRecord c k).entries.map a } = some r := by
    rw [← record, detector]
    rfl
  rw [← Option.some.inj out] at mem
  obtain ⟨y, listed, rfl⟩ := List.mem_map.mp mem
  obtain ⟨f, -, rfl⟩ := List.mem_map.mp listed
  have feeder : (a (Entry.start f)).feeder = f := (each (Entry.start f)).feeder
  rw [feeder]
  exact each (Entry.start f)

/-- R75: at a FAST or an EXTERNAL onset every available feeder is a candidate, at an RMS onset one whose immunity is above
V_ret. -/
theorem State.onset_candidate (s : State) (c : OnsetCause) (f : Feeder) : s.candidate (.onset c) f = true ↔
    s.available f = true ∧ (c = .rms → ∃ v, s.vret = some v ∧ v < s.immunity f) := by
  unfold State.candidate
  rw [Bool.and_eq_true, and_congr_right_iff]
  intro _
  cases c with
  | fast => simp
  | external => simp
  | rms => simp [below_iff]

/-! ## An external trigger -/

section

variable {s : State} {l : Line} {lv : Leave}

/-- R22, R158: the event that an accepted falling edge of an EXT_TRIGGER line opens. -/
theorem State.asEvent_trigger_onset (due : (s.lines.get l).acceptanceDue = true)
    (bound : (s.lines.get l).binding = .extTrigger) (fell : (s.lines.get l).debounced = some true)
    (clear : s.detector.state = .clear) (later : s.detector.clearedNow = false) :
    ∃ k m, ∀ u, State.onset (State.accepted { s with link := k } l) .external true id = u →
      (s.asEvent lv.choice fun s => s.acceptLine false lv l) = { u with link := m } := by
  obtain ⟨k, eq, -, -⟩ := s.asEvent_eq lv.choice fun s => s.acceptLine false lv l
  rw [State.acceptLine_of_trigger (s := { s with link := k }) due bound, if_pos fell] at eq
  have onset : (State.accepted { s with link := k } l).externalTrigger =
      (State.accepted { s with link := k } l).onset .external true id :=
    if_pos ⟨clear, by rw [Bool.not_eq_true]; exact later⟩
  obtain ⟨m, out⟩ := State.settleChoice_out (s := State.onset (State.accepted { s with link := k } l) .external true id) lv.choice
  rw [onset, out] at eq
  exact ⟨k, m, fun u same => same ▸ eq⟩

end

/-- R73: the second clause of O21. -/
theorem trigger_divides (s : State) (l : Line) (lv : Leave) (due : (s.lines.get l).acceptanceDue = true)
    (bound : (s.lines.get l).binding = .extTrigger) (fell : (s.lines.get l).debounced = some true)
    (clear : s.detector.state = .clear) (later : s.detector.clearedNow = false) (running : s.loader.op = .running)
    (entered : s.tracker.state ≠ .seeking) : ∃ t m r, exec (.lineAccepted ⟨l, lv⟩) s = .next t ∧
      t.detector.record = some r ∧ t.arbiter.summary = some m ∧
      r.cause = .external ∧ m.event = s.detector.nextNumber ∧ m.point = .onset .external ∧ m.vret = s.vret ∧
      m.available = s.store.quanta ∧ m.policy = s.globals.allocPolicy ∧ m.reserve = s.globals.reserve ∧
      m.Divides s.inForce 0 ∧
      (∀ u ∈ m.units, ∀ d ∈ u.members, d.full = (s.feeders.get d.feeder).onsetForecast ∧ d.measured = false) ∧
      t.arbiter.flags = FeederSet.empty ∧ s.FormsCandidateUnits t s.inForce m (fun _ => True) ∧
      (groupsDisjoint s.groups → engagedWithin s.groups →
        t.budgeted m ∧ ∀ d ∈ r.entries, s.WritesEntry m (fun _ => True) (Entry.start d.feeder) d) := by
  obtain ⟨k, n, out⟩ := State.asEvent_trigger_onset (lv := lv) due bound fell clear later
  have next := exec_lineAccepted_of_due due lv
  rw [out _ rfl] at next
  clear out
  obtain ⟨w, isW⟩ : ∃ w, State.accepted { s with link := k } l = w := ⟨_, rfl⟩
  rw [isW] at next
  have compensable : compensability w.loader.op (true && w.tracker.state != .seeking) = .compensable := by
    have op : w.loader.op = .running := by rw [← isW]; exact running
    have state : (w.tracker.state != .seeking) = true := by rw [← isW]; exact bne_iff_ne.mpr entered
    rw [op, state]
    rfl
  have shows : s.Shows w := by
    rw [← isW]
    exact ⟨fun _ => ⟨rfl, rfl, rfl⟩, fun _ => rfl, rfl⟩
  have arbiter := State.onset_arbiter (w := w) (c := .external) (between := id) compensable fun _ => rfl
  obtain ⟨c, -, record⟩ := (State.onset_noted w .external true (between := id) Noted.refl).record
  obtain ⟨forms, entries⟩ := State.onset_points (c := .external) (takes := fun _ => True) (u :=
    { w.onset .external true id with link := n }) shows compensable (fun _ _ => rfl) (fun _ => rfl)
    (fun f => (w.onset_candidate .external f).trans (and_congr_right fun _ => ⟨fun _ => trivial, fun _ => nofun⟩))
    fun f => ⟨rfl, rfl⟩
  have read : w.inForce = s.inForce ∧ w.vret = s.vret ∧ w.detector.nextNumber = s.detector.nextNumber ∧
      w.store.quanta = s.store.quanta ∧ w.globals = s.globals ∧ w.feeders = s.feeders ∧ w.groups = s.groups := by
    rw [← isW]
    exact ⟨rfl, rfl, rfl, rfl, rfl, rfl, rfl⟩
  obtain ⟨inForce, vret, number, quanta, globals, feeders, groups⟩ := read
  have divides : ((w.opened .external .compensable).onsetSummary .external).Divides w.inForce 0 :=
    State.onset_divides _ _
  have forecasts := (w.opened .external .compensable).onset_forecasts .external
  rw [inForce] at forms divides
  refine ⟨{ w.onset .external true id with link := n }, (w.opened .external .compensable).onsetSummary .external, _, next,
    record, (congrArg Arbiter.summary arbiter).trans rfl, rfl, number, rfl, vret, quanta, ?_, ?_, divides,
    fun u mem d own => ?_, (congrArg Arbiter.flags arbiter).trans rfl, forms, fun disjoint within => ⟨?_, ?_⟩⟩
  · rw [← globals]
    rfl
  · rw [← globals]
    rfl
  · rw [← feeders]
    exact ⟨(forecasts u mem d own).1, (forecasts u mem d own).2.1⟩
  · exact State.onset_budgeted (s := w.opened .external .compensable) arbiter (groups.symm ▸ disjoint) (groups.symm ▸ within)
  · obtain ⟨a, detector, each⟩ := entries disjoint within
    exact State.onset_entries detector record each

/-! ## An onset at a sample set -/

section

variable {s : State} {x : SampleInput} {o : Orders}

/-- R22: the onset that a trip, or else a V_ret below ONSET_LEVEL, brings about in CLEAR. -/
theorem State.atRecords_cause {c : OnsetCause} (opens : c = .fast ∧ (s.comparatorAfter x o).trips = true ∨
      c = .rms ∧ (s.comparatorAfter x o).trips = false ∧ ∃ v, s.vretAfter x o = some v ∧ v < (s.globalsAt o).onsetLevel)
    (external : Bool) : (s.atRecords x o).onsetCause (s.comparatorAfter x o).trips external = some c := by
  rcases opens with ⟨rfl, trip⟩ | ⟨rfl, trip, low⟩
  · rw [trip]
    rfl
  · rw [trip]
    refine State.onsetCause_of_low ?_
    rw [State.atRecords_vret, State.atRecords_inForce, State.halved_globalsInForce, below_iff]
    exact low

/-- R23, R73: the onset of a compensable event, as the detector's step takes it. -/
theorem State.concluded_onset {c : OnsetCause} (takes : s.takesSample o) (clear : s.detector.state = .clear)
    (running : s.loader.op = .running) (entered : (s.trackerAfter x).state ≠ .seeking)
    (cause : (s.atRecords x o).onsetCause (s.comparatorAfter x o).trips ((s.tracked x o).externalWeighed o) = some c) :
    compensability (s.atRecords x o).loader.op (true && (s.atRecords x o).tracker.state != .seeking) = .compensable ∧
      (s.atRecords x o).concluded o (s.boundaryAt x o) ((s.tracked x o).externalWeighed o) (s.requestHeard x o) =
        (s.atRecords x o).onset c true fun s => s.refusalsBetween o := by
  have heard : s.requestHeard x o = true := by simp [State.requestHeard, takes.2.2.1]
  have state : (s.atRecords x o).tracker.state = (s.trackerAfter x).state := by
    rw [State.atRecords_tracker, State.halved_tracker takes, (Tracker.declare_keeps _).1]
  have trips : (s.atRecords x o).comparator.trips = (s.comparatorAfter x o).trips := by
    rw [State.atRecords_comparator, State.tracked_comparator x takes]
  have clear' := (State.atRecords_clear (x := x) (o := o) takes.2.1 clear).1
  rw [← trips] at cause
  refine ⟨?_, by rw [State.concluded_of_onset clear' cause, heard]⟩
  rw [State.atRecords_loader takes.2.1, running, state, bne_iff_ne.mpr entered]
  rfl

/-- R73: the first clause of O21. -/
theorem onset_divides (s : State) (x : SampleInput) (o : Orders) (c : OnsetCause) (takes : s.takesSample o)
    (clear : s.detector.state = .clear) (running : s.loader.op = .running) (entered : (s.trackerAfter x).state ≠ .seeking)
    (opens : c = .fast ∧ (s.comparatorAfter x o).trips = true ∨ c = .rms ∧ (s.comparatorAfter x o).trips = false ∧
      ∃ v, s.vretAfter x o = some v ∧ v < (s.globalsAt o).onsetLevel) :
    let values := s.valuesAt o.writtenNow
    let needs (f : Feeder) : Prop := c = .rms → ∃ v, s.vretAfter x o = some v ∧ v < (values.classOf f).immunity
    ∃ t m r, exec (.sampleSet x o) s = .next t ∧ (c = .fast → exec (.fastTrip x o) s = .next t) ∧
      t.detector.record = some r ∧ t.arbiter.summary = some m ∧ m.event = s.detector.nextNumber ∧
      m.point = .onset c ∧ m.vret = s.vretAfter x o ∧ m.available = t.store.quanta ∧
      m.policy = s.globals.allocPolicy ∧ m.reserve = s.globals.reserve ∧ m.Divides values 0 ∧
      (∀ u ∈ m.units, ∀ d ∈ u.members,
        d.full = (s.feeders.get d.feeder).onsetForecast ∧ d.measured = false ∧ d.floor ≤ d.full) ∧
      t.arbiter.flags = FeederSet.empty ∧ (groupsDisjoint s.groups → engagedWithin s.groups → t.budgeted m) ∧
      (quiet o → s.FormsCandidateUnits t values m needs ∧
        (groupsDisjoint s.groups → engagedWithin s.groups →
          ∀ d ∈ r.entries, s.WritesEntry m needs (Entry.start d.feeder) d)) := by
  intro values needs
  have sampling := takes.1
  have settled := takes.2.1
  have cause := State.atRecords_cause (x := x) opens ((s.tracked x o).externalWeighed o)
  obtain ⟨compensable, concluded⟩ := State.concluded_onset takes clear running entered cause
  obtain ⟨detector, arbiter, -, refusals, requests, b, seq⟩ := State.detected_of_concluded concluded
  obtain ⟨noted, -⟩ := State.instant_onset takes clear cause
  obtain ⟨e, -, record⟩ := noted.record
  have arbiter' : (s.instant x o).arbiter = (s.detected x o).arbiter := by
    have onset := State.onset_noted (s.atRecords x o) c true (between := fun s => s.refusalsBetween o)
      fun s => s.refusalsBetween_noted o
    have state : (s.detected x o).detector.state = .active := by
      rw [detector]
      exact onset.same.1
    have shut : (s.detected x o).detector.shut := fun clear => by
      rw [state] at clear
      cases clear
    exact ((State.finish_passes (k := .any) (s.detected x o) x o fun _ _ => trivial).course_of_shut shut).tracker.2
  have inForce := State.atRecords_values (x := x) (o := o) settled
  have vret := s.atRecords_vret (x := x) (o := o)
  have number := (State.atRecords_clear (x := x) (o := o) settled clear).2.1
  have globals := State.atRecords_globals_settings (x := x) (o := o) settled
  have feeders := State.atRecords_feeders (x := x) (o := o) settled
  have quanta := State.atRecords_quanta (s := s) (x := x) (o := o)
  have disjoint' := State.atRecords_disjoint (x := x) (o := o) settled
  have within' := State.atRecords_within (x := x) (o := o) settled
  have shows := State.atRecords_shows (x := x) (o := o) settled
  have quietly := State.atRecords_quiet (x := x) (o := o) settled
  have ends := State.instant_of_quiet (s := s) (x := x) (o := o)
  have fast (trip : c = .fast) : exec (.fastTrip x o) s = .next (s.instant x o) := by
    change execFastTrip x o s = _
    have trips : (s.comparatorAfter x o).trips = true := by
      rcases opens with ⟨-, trips⟩ | ⟨rms, -⟩
      · exact trips
      · rw [trip] at rms
        cases rms
    rw [execFastTrip, State.instantIf, sampling, State.tracked_comparator x takes, trips]
    rfl
  have next := exec_sampleSet_of_sampling sampling x o
  clear concluded cause noted takes
  generalize s.detected x o = u at *
  generalize s.instant x o = t at *
  generalize s.atRecords x o = w at *
  have onset := State.onset_arbiter (w := w) (c := c) (between := fun s => s.refusalsBetween o) compensable
    fun t => t.refusalsBetween_arbiter o
  rw [← arbiter, ← arbiter'] at onset
  have divides : ((w.opened c .compensable).onsetSummary c).Divides w.inForce 0 := State.onset_divides _ _
  have forecasts := (w.opened c .compensable).onset_forecasts c
  rw [inForce] at divides
  refine ⟨t, (w.opened c .compensable).onsetSummary c, _, next, fast, record, (congrArg Arbiter.summary onset).trans rfl,
    number, rfl, vret, quanta, ?_, ?_, divides, ?_, (congrArg Arbiter.flags onset).trans rfl, fun disjoint within => ?_,
    fun q => ?_⟩
  · rw [← globals]
    rfl
  · rw [← globals]
    rfl
  · rw [← feeders]
    exact forecasts
  · exact State.onset_budgeted (s := w.opened c .compensable) onset (disjoint' disjoint) (within' within)
  · have candidates (f : Feeder) : w.candidate (.onset c) f = true ↔ w.available f = true ∧ needs f := by
      rw [w.onset_candidate c f, vret]
      change _ ∧ (_ → ∃ v, _ ∧ v < (w.inForce.classOf f).immunity) ↔ _
      rw [inForce]
    obtain ⟨-, -, -, calm⟩ := quietly q
    have still (v : State) (same : v.refusals = w.refusals) : v.refusalsBetween o = v :=
      State.refusalsBetween_of_none (same.trans calm.1)
    have calm' := State.onset_calm (c := c) (heard := true) (between := fun s => s.refusalsBetween o) compensable still calm
    obtain ⟨detected, -, -, instant⟩ := ends q ⟨refusals.trans calm'.1, requests.trans calm'.2⟩
    obtain ⟨forms, entries⟩ := State.onset_points (shows q) compensable still (fun t => t.refusalsBetween_arbiter o)
      candidates (u := t) fun f => by
        rw [instant, seq]
        exact ⟨rfl, rfl⟩
    rw [inForce] at forms
    refine ⟨forms, fun disjoint within => ?_⟩
    obtain ⟨a, written, each⟩ := entries disjoint within
    exact State.onset_entries ((detected.trans detector).trans written) record each

end

end Sys2Proof.Machine
end

section
/-! SUPPORT. The allocation point of a boundary (R73, R74, R77): its releases, the units of those that stay, the flags, and
what a boundary writes into an entry besides. -/

namespace Sys2Proof.Machine

open Sys2Proof
open State (Frees Pointed)

section

variable {s r t : State} {n : Nat} {units : List UnitGrant} {f : Feeder} {g : GroupNo}

/-- R74: a group's participants are released together where none is needed. -/
theorem State.lets_iff : s.lets (.boundary n) g = true ↔
    ((s.groups.get g).state = .engaging ∨ (s.groups.get g).state = .active) ∧ s.partsOf g ≠ [] ∧
      ∀ h ∈ s.partsOf g, s.notNeeded h = true := by
  have parts : (s.groups.get g).engaged.members.filter s.participant = s.partsOf g := rfl
  unfold State.lets State.groupReleased
  dsimp only
  rw [parts]
  simp [PointKind.isBoundary, and_assoc]

namespace State.Pointed

variable (h : s.Pointed r t (.boundary n) units)
include h

/-- A member of a unit has not been released by this point. -/
theorem member_seq {u : UnitGrant} (mem : u ∈ units) (named : f ∈ u.feeders) : r.seq.get f = s.seq.get f := by
  rw [h.grants] at mem
  cases kind : u.candidate with
  | true =>
    have available := State.available_of_member mem kind named
    rw [h.frees.available] at available
    exact h.frees.seq_of_idle (State.participant_of_available available)
  | false => exact h.frees.seq_of_participant (State.participant_of_member mem kind named)

/-- R74, R101: a feeder released is in no unit. -/
theorem released (part : s.participant f = true) (leaves : s.leaves (s.lets (.boundary n)) f) :
    t.seq.get f = (s.seq.get f).released s.globals .notNeeded s.eventOpen ∧ ∀ u ∈ units, f ∉ u.feeders := by
  have gone : r.participant f = false := by
    rw [Bool.eq_false_iff, ne_eq, h.frees.participant]
    exact fun stays => stays.2 ⟨rfl, leaves⟩
  have away : r.available f = false := by
    rw [h.frees.available, Bool.eq_false_iff]
    intro available
    rw [State.participant_of_available available] at part
    cases part
  have out : ∀ u ∈ units, f ∉ u.feeders := fun u mem => State.not_member away gone u (h.grants ▸ mem)
  exact ⟨(h.out f out).trans (h.frees.released f ⟨rfl, leaves⟩ part), out⟩

/-- R74, R143: a group released is in IDLE, and of no unit. -/
theorem idled (lets : s.lets (.boundary n) g = true) : t.groups.get g = { s.groups.get g with state := .idle } := by
  have engaged := (State.lets_iff.mp lets).1
  rw [h.groups g fun u mem group => ?_, if_pos lets, Group.told, if_pos engaged]
  rcases (r.mem_claims _ r.groups (s.lets (.boundary n)) _).mp (h.claim_of_unit mem) with
    ⟨f, -, -, e⟩ | ⟨g', ⟨joins, e⟩ | ⟨goes, e⟩⟩
  · exact absurd (group.symm.trans (congrArg Claim.group e)) nofun
  · rw [← Option.some.inj (group.symm.trans (congrArg Claim.group e)), State.joins, h.frees.groups] at joins
    rcases engaged with state | state <;> exact absurd (joins.1.symm.trans state) nofun
  · rw [← Option.some.inj (group.symm.trans (congrArg Claim.group e))] at goes
    exact absurd (lets.symm.trans goes.2.1) nofun

/-- R80: the unit of an ungrouped participant that stays. -/
theorem alone (out : s.groupOf f = none) (part : s.participant f = true)
    (stays : ¬ s.leaves (s.lets (.boundary n)) f) : ∃ u ∈ units, u.group = none ∧ u.candidate = false ∧
      u.members.map (·.feeder) = [f] ∧ u.level = (s.inForce.bankEntry f).level := by
  have inForce : r.inForce = s.inForce := (congrArg State.inForce h.frees.rest :)
  have part' : r.participant f = true := (h.frees.participant f).mpr ⟨part, fun gone => stays gone.2⟩
  have idle : r.candidate (.boundary n) f = false := Bool.eq_false_iff.mpr fun may => by
    rw [State.participant_of_available (State.available_of_candidate may)] at part'
    cases part'
  obtain ⟨u, mem, claim⟩ := h.unit_of_claim ((r.mem_claims _ r.groups (s.lets (.boundary n)) _).mpr
    (.inl ⟨f, (h.frees.groupOf f).trans out, .inr part', rfl⟩))
  refine ⟨u, mem, congrArg Claim.group claim, (congrArg Claim.candidate claim).trans idle, congrArg Claim.feeders claim,
    (congrArg Claim.level claim).trans ?_⟩
  change (r.inForce.bankEntry f).level = _
  rw [inForce]

/-- R80: the unit of an engaged group that goes on. -/
theorem together (disjoint : groupsDisjoint s.groups) (within : engagedWithin s.groups)
    (engaged : (s.groups.get g).state = .engaging ∨ (s.groups.get g).state = .active) (nonempty : s.partsOf g ≠ [])
    (stays : s.lets (.boundary n) g = false) : ∃ u ∈ units, u.group = some g ∧ u.candidate = false ∧
      u.members.map (·.feeder) = s.partsOf g ∧ u.level = (s.groups.get g).level := by
  have groups := h.frees.groups
  have parts : r.partsOf g = s.partsOf g := by
    unfold State.partsOf
    rw [groups]
    refine List.filter_congr fun f mem => ?_
    rw [Bool.eq_iff_iff, h.frees.participant, and_iff_left_iff_imp]
    rintro - ⟨-, leaves⟩
    have member := within g f ((FeederSet.mem_members _ _).mp mem)
    rcases leaves with ⟨out, -⟩ | ⟨g', lets, engaged'⟩
    · rw [State.groupOf_none_iff.mp out g] at member
      cases member
    · rw [disjoint g' g f (within g' f engaged') member, stays] at lets
      cases lets
  obtain ⟨u, mem, claim⟩ := h.unit_of_claim ((r.mem_claims _ r.groups (s.lets (.boundary n)) _).mpr
    (.inr ⟨g, .inr ⟨⟨by rw [groups]; exact engaged, stays, by rw [parts]; exact nonempty⟩, rfl⟩⟩))
  refine ⟨u, mem, congrArg Claim.group claim, congrArg Claim.candidate claim, ?_, (congrArg Claim.level claim).trans ?_⟩
  · refine (congrArg Claim.feeders claim).trans ?_
    rw [State.stayingClaim_feeders, parts]
  · change (r.groups.get g).level = _
    rw [groups]

/-- R77: the forecasts of a boundary's members. -/
theorem forecasts {u : UnitGrant} (mem : u ∈ units) {d : Forecast} (own : d ∈ u.members) :
    let measured := (s.seq.get d.feeder).state = .injecting ∧ s.arbiter.flags.get d.feeder = true
    (d.measured = true ↔ measured) ∧ (measured → d.full = max (s.gen.get d.feeder).closedQ 1) ∧
      (¬ measured → d.full = (s.feeders.get d.feeder).onsetForecast) := by
  have seq := h.member_seq mem (UnitGrant.mem_feeders.mpr ⟨d, own, rfl⟩)
  have forecast := r.forecast_boundary d.feeder
  have arbiter : r.arbiter = s.arbiter := (congrArg State.arbiter h.frees.rest :)
  have gen : r.gen = s.gen := (congrArg State.gen h.frees.rest :)
  have feeders : r.feeders = s.feeders := (congrArg State.feeders h.frees.rest :)
  rw [h.grants] at mem
  have same : d = r.forecast true d.feeder := State.member_forecast mem own
  rw [seq, arbiter, gen, feeders, ← same] at forecast
  exact forecast

/-- R77: the flags that a boundary sets. -/
theorem flags (f : Feeder) : t.arbiter.flags.get f = true ↔ (s.seq.get f).state = .injecting ∧
    ¬ s.leaves (s.lets (.boundary n)) f := by
  have set : t.arbiter.flags.get f = true ↔ (r.seq.get f).state = .injecting := by
    rw [h.arbiter, Six.get_of]
    simp [PointKind.isBoundary]
  rw [set]
  by_cases goes : s.leaves (s.lets (.boundary n)) f ∧ s.participant f = true
  · rw [h.frees.released f ⟨rfl, goes.1⟩ goes.2]
    exact ⟨fun state => absurd state nofun, fun stays => absurd goes.1 stays.2⟩
  · rw [h.frees.others f fun gone => goes ⟨gone.1.2, gone.2⟩]
    refine ⟨fun state => ⟨state, fun leaves => goes ⟨leaves, (s.participant_iff f).mpr (.inr state)⟩⟩, And.left⟩

end State.Pointed

/-! ## Entries at a boundary -/

theorem State.halfCycled_course (s : State) (e : Entry) : (s.halfCycled e).course = e.course := by
  have judged (e : Entry) : (s.judged e).course = e.course := by
    unfold State.judged Entry.judge
    split
    · split <;> rfl
    · rfl
  have drew (e : Entry) : (s.overdrawn e).course = e.course := by
    unfold State.overdrawn
    split <;> rfl
  exact (judged _).trans ((drew _).trans rfl)

end

end Sys2Proof.Machine
end

section
/-! Allocation points (R73 to R87): O21. -/

namespace Sys2Proof.Machine

open Sys2Proof
open State (Pointed Shows)

theorem State.budgeted_congr {s t : State} {m : Summary} (arbiter : t.arbiter = s.arbiter) (h : s.budgeted m) : t.budgeted m := by
  unfold State.budgeted
  rw [arbiter]
  exact h

/-! ## Releases in the terms of the state before the instant -/

section

variable {s w : State} {v : Nat} {values : Values} (shows : s.Shows w) (vret : w.vret = some v) (inForce : w.inForce = values)
include vret inForce

theorem State.notNeeded_served (f : Feeder) : w.notNeeded f = true ↔ (values.classOf f).immunity ≤ v := by
  rw [State.notNeeded, atOrAbove_iff, vret, ← inForce]
  exact ⟨fun ⟨n, e, h⟩ => Option.some.inj e ▸ h, fun h => ⟨v, rfl, h⟩⟩

theorem State.boundary_candidate (n : Nat) (f : Feeder) : w.candidate (.boundary n) f = true ↔
    w.available f = true ∧ ¬ (values.classOf f).immunity ≤ v := by
  have needs : below w.vret (w.immunity f) = true ↔ ¬ (values.classOf f).immunity ≤ v := by
    rw [below_iff, vret, ← inForce, not_le]
    exact ⟨fun ⟨n, e, h⟩ => Option.some.inj e ▸ h, fun h => ⟨v, rfl, h⟩⟩
  rw [← needs]
  exact Bool.and_eq_true_iff

include shows

theorem State.lets_served (n : Nat) (g : GroupNo) : w.lets (.boundary n) g = true ↔
    ((s.groups.get g).state = .engaging ∨ (s.groups.get g).state = .active) ∧ s.partsOf g ≠ [] ∧
      ∀ h ∈ s.partsOf g, (values.classOf h).immunity ≤ v := by
  have parts : w.partsOf g = s.partsOf g := by
    unfold State.partsOf
    rw [shows.groups, funext shows.participant]
  rw [State.lets_iff, parts, shows.groups]
  simp only [State.notNeeded_served vret inForce]

/-- R74: the participants that a boundary's point releases. -/
theorem State.leaves_iff (n : Nat) {f : Feeder} (part : s.participant f = true) : w.leaves (w.lets (.boundary n)) f ↔
    s.groupOf f = none ∧ (values.classOf f).immunity ≤ v ∨
      ∃ g, ((s.groups.get g).state = .engaging ∨ (s.groups.get g).state = .active) ∧ f ∈ s.partsOf g ∧
        ∀ h ∈ s.partsOf g, (values.classOf h).immunity ≤ v := by
  unfold State.leaves
  rw [shows.groupOf, State.notNeeded_served vret inForce, shows.groups]
  simp only [State.lets_served shows vret inForce, State.mem_partsOf]
  refine or_congr_right (exists_congr fun g => ⟨fun ⟨⟨engaged, _, all⟩, member⟩ => ⟨engaged, ⟨member, part⟩, all⟩,
    fun ⟨engaged, ⟨member, _⟩, all⟩ => ⟨⟨engaged, fun empty => ?_, all⟩, member⟩⟩)
  have mem := (s.mem_partsOf g f).mpr ⟨member, part⟩
  rw [empty] at mem
  exact absurd mem List.not_mem_nil

end

/-! ## The instant of a boundary whose event goes on -/

section

variable {s : State} {x : SampleInput} {o : Orders} {r : Record}

/-- R73: the point of a boundary, and the instant's end, where the orders leave its acceptances and expiries apart. -/
theorem State.boundary_points (settled : s.settled) (boundary : s.boundaryAt x o = true) (q : quiet o)
    (isOpen : s.eventOpen = true) (record : s.detector.record = some r) (comp : r.comp = .compensable)
    (goes : (s.instant x o).eventOpen = true) : ∃ p t units,
      (s.atRecords x o).Pointed p t (.boundary (s.detector.t + 1)) units ∧
      (s.instant x o).detector = t.detector ∧ (s.instant x o).arbiter = t.arbiter ∧ (s.instant x o).groups = t.groups ∧
      ∀ f, ∃ b k, (s.instant x o).seq.get f = { t.seq.get f with injected := b, timer := k } := by
  obtain ⟨opened, -, time, -⟩ := State.atRecords_step (x := x) (o := o) settled isOpen
  obtain ⟨c, -, -, met⟩ := State.atRecords_record (x := x) (o := o) settled isOpen record
  obtain ⟨-, -, -, calm⟩ := State.atRecords_quiet (x := x) settled q
  have goesOn : s.goesOn x o := by
    by_contra ends
    rw [State.instant_closed ends] at goes
    cases goes
  rw [boundary, if_pos rfl] at time met
  have concluded := State.concluded_of_going (s := s.atRecords x o) (o := o)
    (external := (s.tracked x o).externalWeighed o) (heard := s.requestHeard x o) opened (goesOn opened boundary)
  have compensable : (s.atRecords x o).detector.record.map (·.comp) = some .compensable := by
    rw [met]
    exact congrArg some comp
  rw [if_pos compensable, time, ← boundary] at concluded
  obtain ⟨p, units, pointed⟩ := (s.atRecords x o).allocate_pointed (.boundary (s.detector.t + 1))
    (between := fun s => s.refusalsBetween o) fun t same => State.refusalsBetween_of_none (same.trans calm.1)
  obtain ⟨detector, arbiter, groups, refusals, requests, b, seq⟩ := State.detected_of_concluded concluded
  obtain ⟨detector', arbiter', groups', seq'⟩ := State.instant_of_quiet (s := s) (x := x) q
    ⟨(refusals.trans pointed.waiting.1).trans calm.1, (requests.trans pointed.waiting.2).trans calm.2⟩
  refine ⟨p, _, units, pointed, detector'.trans detector, arbiter'.trans arbiter, groups'.trans groups, fun f => ?_⟩
  rw [seq', seq]
  exact ⟨_, _, rfl⟩

/-- R41, R73: the entries of the record after a boundary's point, and its number. -/
theorem State.boundary_entries {p t : State} {units : List UnitGrant} {k : PointKind} {m : Summary} {takes : Feeder → Prop}
    (settled : s.settled) (q : quiet o)
    (boundary : s.boundaryAt x o = true) (isOpen : s.eventOpen = true) (record : s.detector.record = some r)
    (pointed : (s.atRecords x o).Pointed p t k units) (isUnits : m.units = units)
    (candidates : ∀ f, (s.atRecords x o).candidate k f = true ↔ (s.atRecords x o).available f = true ∧ takes f)
    (disjoint : groupsDisjoint s.groups) (within : engagedWithin s.groups) :
    p.openNumber = some r.number ∧ ∃ c, t.detector.record = some c ∧ c.entries.length = r.entries.length ∧
      ∀ (i : Nat) e d, r.entries[i]? = some e → c.entries[i]? = some d → s.WritesEntry m takes e d := by
  obtain ⟨c, -, same, met⟩ := State.atRecords_record (x := x) (o := o) settled isOpen record
  have shows := State.atRecords_shows (x := x) settled q
  rw [boundary, if_pos rfl] at met
  have still : r.entries.map c = r.entries := by
    rw [List.map_congr_left (g := id) fun e _ => same q e, List.map_id]
  rw [still] at met
  have course (e : Entry) : ((s.atDetector x o).halfCycled e).course = e.course := State.halfCycled_course _ e
  obtain ⟨a, out, -⟩ := pointed.frees.record
  have number : p.openNumber = (s.atRecords x o).openNumber := by
    rw [State.openNumber, out]
    exact (s.atRecords x o).openNumber_mapEntries a
  obtain ⟨b, detector, each⟩ := pointed.writes isUnits candidates (shows.groups ▸ disjoint) (shows.groups ▸ within)
  obtain ⟨ρ, met, number', entries⟩ : ∃ ρ, (s.atRecords x o).detector.record = some ρ ∧ ρ.number = r.number ∧
    ρ.entries = r.entries.map (s.atDetector x o).halfCycled := ⟨_, met, rfl, rfl⟩
  refine ⟨?_, { ρ with entries := ρ.entries.map b }, ?_, ?_, fun i e d before after => ?_⟩
  · rw [number, State.openNumber, met, ← number']
    rfl
  · rw [detector, Detector.mapEntries, met]
    rfl
  · simp only [entries, List.length_map]
  · simp only [entries, List.getElem?_map, before, Option.map_some, Option.some.injEq] at after
    rw [← after]
    exact (shows.writes (each _)).congr (course e).symm rfl

end

/-- Settles O21. An onset's point is read from the state its event opens in (`onset_divides`, `trigger_divides`), a boundary's
from the one its records are sent from (`boundary_points`); the point itself is written out once (`allocate_pointed`). -/
theorem allocationPointsDivideTheStore : Obligations.AllocationPointsDivideTheStore := by
  refine ⟨fun s x o c takes clear running entered opens => onset_divides s x o c takes clear running entered opens,
    fun s l lv due _ bound fell clear later running entered => trigger_divides s l lv due bound fell clear later running entered,
    fun s x o r v takes boundary q isOpen record comp vret disjoint within => ?_⟩
  intro values served engaged parts released
  have settled := takes.2.1
  have boundary' : s.boundaryAt x o = true := (State.boundaryAt_eq takes x).trans boundary
  refine ⟨s.instant x o, exec_sampleSet_of_sampling takes.1 x o, fun goes => ?_⟩
  obtain ⟨p, t, units, pointed, detector, arbiter, groups, seq⟩ :=
    State.boundary_points settled boundary' q isOpen record comp goes
  have shows := State.atRecords_shows (x := x) settled q
  have inForce := State.atRecords_values (x := x) (o := o) settled
  have reads : (s.atRecords x o).vret = some v := (s.atRecords_vret x o).trans vret
  have candidates := State.boundary_candidate reads inForce (s.detector.t + 1)
  obtain ⟨opened, -, time, -⟩ := State.atRecords_step (x := x) (o := o) settled isOpen
  rw [boundary', if_pos rfl] at time
  obtain ⟨m, isM⟩ : ∃ m, p.summaryOf (.boundary (s.detector.t + 1)) units = m := ⟨_, rfl⟩
  have isUnits : m.units = units := isM ▸ rfl
  obtain ⟨number, c, written, length, entries⟩ := State.boundary_entries settled q boundary' isOpen record pointed isUnits
    candidates disjoint within
  have globals : p.globals = s.globals :=
    pointed.frees.globals.trans (State.atRecords_globals_settings (x := x) (o := o) settled)
  have vret' : p.vret = some v := (congrArg State.vret pointed.frees.rest :).trans reads
  have quanta : p.store.quanta = (s.instant x o).store.quanta :=
    (congrArg (fun s : State => s.store.quanta) pointed.frees.rest :).trans s.atRecords_quanta
  have divides := pointed.divides
  rw [inForce, time, isM] at divides
  have budgeted := pointed.budgeted (shows.groups ▸ disjoint) (shows.groups ▸ within)
  rw [isM] at budgeted
  have forms := shows.forms (pointed.forms isUnits candidates) (v := s.instant x o) fun f => by
    obtain ⟨b, k, same⟩ := seq f
    rw [same]
    exact ⟨rfl, rfl⟩
  rw [inForce] at forms
  have summary : (s.instant x o).arbiter.summary = some m := by
    rw [arbiter, pointed.arbiter, isM]
  have leaves (f : Feeder) : released f ↔ s.participant f = true ∧
      (s.atRecords x o).leaves ((s.atRecords x o).lets (.boundary (s.detector.t + 1))) f :=
    and_congr_right fun part => (State.leaves_iff shows reads inForce (s.detector.t + 1) part).symm
  have lets := State.lets_served shows reads inForce (s.detector.t + 1)
  refine ⟨m, c, summary, detector ▸ written, length, entries, forms, ?_, ?_, ?_, ?_, ?_, ?_, divides, fun f gone => ?_,
    fun g on some all => ?_, fun f out part needs => ?_, fun g on needs => ?_, fun u mem d own => ?_,
    State.budgeted_congr arbiter budgeted, fun f => ?_⟩
  · rw [← isM, State.summaryOf, number]
    rfl
  · rw [← isM]
    rfl
  · rw [← isM]
    exact vret'
  · rw [← isM]
    exact quanta
  · rw [← isM, ← globals]
    rfl
  · rw [← isM, ← globals]
    rfl
  · obtain ⟨part, away⟩ := (leaves f).mp gone
    obtain ⟨now, none⟩ := pointed.released ((shows.participant f).trans part) away
    obtain ⟨b, k, same⟩ := seq f
    rw [same, now, opened]
    exact ⟨rfl, rfl, rfl, Bool.or_true _, fun u mem d own named =>
      none u (isUnits ▸ mem) (UnitGrant.mem_feeders.mpr ⟨d, own, named⟩)⟩
  · rw [groups, pointed.idled ((lets g).mpr ⟨on, some, all⟩), shows.groups]
  · obtain ⟨u, mem, unit⟩ := pointed.alone ((shows.groupOf f).trans out) ((shows.participant f).trans part) fun away => by
      rcases ((leaves f).mpr ⟨part, away⟩).2 with ⟨-, enough⟩ | ⟨g, -, member, -⟩
      · exact needs enough
      · have own := within g f ((s.mem_partsOf g f).mp member).1
        rw [State.groupOf_none_iff.mp out g] at own
        cases own
    rw [inForce] at unit
    exact ⟨u, isUnits ▸ mem, unit⟩
  · obtain ⟨h, member, needs⟩ := needs
    have partsOf : (s.atRecords x o).partsOf g = parts g := by
      unfold State.partsOf
      rw [shows.groups, funext shows.participant]
    obtain ⟨u, mem, unit⟩ := pointed.together (g := g) (shows.groups ▸ disjoint) (shows.groups ▸ within)
      (shows.groups ▸ on) (by rw [partsOf]; exact List.ne_nil_of_mem member)
      (Bool.eq_false_iff.mpr fun away => needs (((lets g).mp away).2.2 h member))
    rw [partsOf, shows.groups] at unit
    exact ⟨u, isUnits ▸ mem, unit⟩
  · have forecasts := pointed.forecasts (isUnits ▸ mem) own
    have flags : (s.atRecords x o).arbiter.flags = s.arbiter.flags := by
      obtain ⟨e, g, p, out⟩ := State.atRecords_out (s := s) (x := x) (o := o)
      rw [out, ← State.atDetector_budgets (x := x) (o := o) settled]
      dsimp only
      split <;> rfl
    have closed : ((s.atRecords x o).gen.get d.feeder).closedQ = ((s.instant x o).gen.get d.feeder).closedQ := by
      have same := congrFun (congrArg (fun m => m.2.2.2.2.2.2) (s.atRecords_measured x o)) d.feeder
      simp only [State.measured, Prod.mk.injEq] at same
      exact same.2.2.2.1
    rw [(shows.seq d.feeder).1, flags, closed, State.atRecords_feeders settled] at forecasts
    exact forecasts
  · rw [arbiter, pointed.flags, (shows.seq f).1, leaves]
    refine and_congr_right fun injecting => not_congr (iff_and_self.mpr fun _ => ?_)
    exact (s.participant_iff f).mpr (.inr injecting)

end Sys2Proof.Machine
end
